-- ==== Sys2Proof/Word.lean ====
section
/-! DEFINITION. The word types of the Swedra SW64 model and the plain data types that commands carry as
operands. Nothing here computes an effect. -/

namespace Sys2Proof

/-- A register word of the 14 windows (R425, R430). -/
abbrev Word := BitVec 32

/-- A 64-bit timebase value in ns (R14, R17). -/
abbrev Stamp := BitVec 64

/-- One 64-byte sector of host data (R36). -/
abbrev Sector := BitVec 512

/-- One 288-byte codeword image; bit 2303 is bit 7 of D[0] (R163, bit order). -/
abbrev Image := BitVec 2304

/-- A codeword as its four slots bring it from a package (R165, R224): the bytes, the inner-status codes and the CRC-16s,
sector 0 in the lowest bits of the last two. -/
structure Burst where
  image : Image := 0
  inner : BitVec 12 := 0
  crc : BitVec 64 := 0
  deriving DecidableEq, Repr

/-- The short slot of a register read (R224): its 16 bytes, beat 8 and the CRC-16 of beat 9; `absent` where no strobe
preamble came. -/
structure ShortBurst where
  bytes : BitVec 128 := 0
  zero : BitVec 16 := 0
  crc : BitVec 16 := 0
  absent : Bool := false
  deriving DecidableEq, Repr

/-- A line address, DPA[42:8] (R176). -/
abbrev LineAddr := BitVec 35

/-- A 64-byte line address, DPA[42:6] (R313). -/
abbrev SecAddr := BitVec 37

/-- A page number, DPA[42:12] (R36). -/
abbrev Page := BitVec 31

/-- A stripe number in the layout of R37. -/
abbrev Stripe := BitVec 31

/-- Outcome of the SRAM codes at a probe (R169): in one of the eight words of the sector, in the state entry or the tag; of
an uncorrectable word, the bits that read wrong. -/
inductive SramEcc where
  | ok
  | corrected (word : BitVec 3)
  | uncorrectable (word : BitVec 3) (bits : BitVec 64)
  | stateCorrected
  | stateUncorrectable
  | tagParity
  deriving DecidableEq, Repr

/-- What the SRAM codes find where an engine reads what the line cache or the merge buffer holds (R169): at sector k of a way,
or at a word of an entry's 320 bytes, with the bits that read wrong of an uncorrectable one. -/
inductive HeldEcc where
  | way (key : Nat) (k : Nat) (ecc : SramEcc)
  | entry (id : Nat) (word : Nat) (bits : Option (BitVec 64))
  deriving DecidableEq, Repr

/-- Outcome of the SRAM codes in an array read by word (R169, R461). -/
inductive WordEcc where
  | ok
  | corrected (word : Nat)
  | uncorrectable (word : Nat)
  deriving DecidableEq, Repr

/-- Outcome of the HBM check bits at a read (R167, R168). -/
inductive HbmEcc where
  | good | corrected | uncorrectable
  deriving DecidableEq, Repr

/-- A training attempt of the link that does not end in L0 (R242): training fails at the rate, or lanes fail at the width. -/
inductive LinkTry where
  | rateFails
  | lanesFail
  deriving DecidableEq, Repr

/-- An L1 substate that the host permits (R241, R244). -/
inductive LinkSub where
  | l1
  | l11
  | l12
  deriving DecidableEq, Repr

/-- A request to the SPDM responder (R264, R397): the negotiation of version, capabilities and algorithms, CHALLENGE of a
certificate slot, or GET_MEASUREMENTS of an index. -/
inductive SpdmReq where
  | version
  | capabilities
  | algorithms
  | challenge (slot : BitVec 4)
  | measurements (index : BitVec 8)
  deriving DecidableEq, Repr

/-- What a processor's firmware met since its last heartbeat (R168, R169): a word of its HBM data with the bits read wrong,
or a word of its SRAM. -/
inductive FwErr where
  | hbm (word : Nat) (err : BitVec 288)
  | sram (ecc : WordEcc)
  deriving DecidableEq, Repr

/-- Bits of the parameter store that have changed (R170, R295): of a 16-byte group and its check bits, in slot `slot` of the
shadow array, whose group 16 is its header, or in slot i of spread counter n; or of a codeword, data or header, of slot `slot`
of the media-resident extension. -/
inductive PstErr where
  | group (slot g : Nat) (bits : BitVec 144)
  | counter (n i : Nat) (bits : BitVec 144)
  | codeword (slot : Nat) (header : Bool) (bits : Image)
  deriving DecidableEq, Repr

/-- What a loss of power leaves of a counter slot that is being written (R304): unchanged, with bits that read otherwise, or
fully written. -/
inductive CntCut where
  | unchanged
  | failing (bits : BitVec 144)
  | written
  deriving DecidableEq, Repr

/-- The four access paths of R432. -/
inductive Path where
  | host | processor | sideband | debug
  deriving DecidableEq, Repr

/-- What the boot ROM finds in one image slot (R394, R395): the header fields it uses, the outcomes of the checks that read the
flash and the key hashes, which are outside the device, and the SHA-384 of the whole image, header and body (R397). -/
structure FwImage where
  version : BitVec 32
  index : BitVec 2
  secVersion : BitVec 32
  keyIndex : BitVec 2
  keyHashOk : Bool
  signatureOk : Bool
  digestOk : Bool
  whole : BitVec 384
  deriving DecidableEq, Repr

/-- What training finds at one package position (R224, R234, R238): its echo at step 2, absent where the position is
unpopulated, whether steps 3 to 5 and 7 pass, and the responses to MDR of MODE_0, MODE_4 and MODE_5. -/
structure PkgTrain where
  echo : ShortBurst
  later : Bool
  mode0 : ShortBurst
  mode4 : ShortBurst
  mode5 : ShortBurst
  deriving DecidableEq, Repr

/-- What training finds on one channel (R234). -/
structure ChanTrain where
  attempts : Nat
  ok : Bool
  pkgs : List PkgTrain
  deriving DecidableEq, Repr

/-- One sample of the re-anchor (R136): its tag age in ticks and its best ladder rung. -/
structure AnchorSample where
  tagAge : Nat
  bestRung : BitVec 6
  deriving DecidableEq, Repr

/-- One sensor reading in 0.25 °C, signed (R364). -/
structure Reading where
  sensor : Nat
  value : BitVec 16
  deriving DecidableEq, Repr

/-- One 64-bit word of a posted write to the queue BAR, with its byte-parity outcome (R271, R274). -/
structure QWord where
  word : BitVec 64
  parityOk : Bool
  deriving DecidableEq, Repr

/-- Triggers of DORMANT exit that are not commands of their own (R354). -/
inductive WakeTrigger where
  | memRequest | returnToD0 | queueCommit | doorbell | doeOrSideband | horizonRefresh | drainOrWarmRise
  deriving DecidableEq, Repr

/-- Accesses of the fabric debug port (R402). -/
inductive DbgOp where
  | halt (mp : Nat)
  | step (mp : Nat)
  | resume (mp : Nat)
  | readReg (off : Nat)
  | writeReg (off : Nat) (data : BitVec 32)
  | readHostData (line : BitVec 35) (sector : BitVec 2)
  | readSram (array : BitVec 8) (index : BitVec 32)
  | readHbm (word : Nat)
  | writeFwSram (index : Nat) (data : BitVec 64)
  deriving DecidableEq, Repr

/-- An IDE_KM message over a secure session (R398). -/
inductive IdeKm where
  | query
  | keyProg (pcie : Bool) (set : Bool) (tx : Bool) (key : BitVec 256)
  deriving DecidableEq, Repr

end Sys2Proof
end

