-- ==== Sys2Proof/Syntax.lean ====
section
/-! DEFINITION. The commands and events of the SW64 block: one constructor per row of spec/opcode_table.json, in
the table's order, with the operands the outside world supplies. A row that stands for something the device finds
(a burst that arrives, a measurement) carries what was found, since the media packages, the card and the host are
outside the device (R1). -/

namespace Sys2Proof

/-- The rows of the operations and events table. The docstring of each constructor gives the row's rule. -/
inductive Instr where
  /-- MEMRD (R56). -/
  | memrd (hpa : BitVec 52) (ecc : SramEcc) (mapEcc : SramEcc)
  /-- MEMSPECRD (R249). -/
  | memspecrd (hpa : BitVec 52)
  /-- MEMINV (R249). -/
  | meminv (hpa : BitVec 52)
  /-- MEMWR (R81). -/
  | memwr (hpa : BitVec 52) (data : Sector) (poison : Bool) (ecc : SramEcc)
  /-- MEMWRPTL (R250). -/
  | memwrptl (hpa : BitVec 52) (data : Sector) (enables : BitVec 64) (poison : Bool) (ecc : SramEcc)
  /-- OTHER_OPCODE (R249). -/
  | otherOpcode (rwd : Bool)
  /-- MAPPING_READ_RETURN (R49). -/
  | mappingReadReturn (tag : Nat) (err : BitVec 288)
  /-- MAP_ENTRY_RESTORE (R49). -/
  | mapEntryRestore (page : Page)
  /-- SECTOR_RETURN (R59). -/
  | sectorReturn (tag : Nat) (raw : BitVec 576) (inner : BitVec 3) (crc : BitVec 16)
  /-- CODEWORD_RETURN (R60). -/
  | codewordReturn (tag : Nat) (raw : Burst)
  /-- RECONSTRUCTION (R64). -/
  | reconstruction (tag : Nat) (peers : List Burst)
  /-- ABSENT_BURST (R231). -/
  | absentBurst (chan : Nat) (tag : Nat)
  /-- READY_FRAME (R226). -/
  | readyFrame (chan : Nat) (warp : Nat) (frame : BitVec 10) (tprgNs : Nat)
  /-- PROGRAMME_OVERRUN (R231). -/
  | programmeOverrun (chan : Nat) (set : Nat)
  /-- RESET_OVERRUN (R231). -/
  | resetOverrun (chan : Nat) (set : Nat)
  /-- ALERT_N (R232). -/
  | alertN (chan : Nat)
  /-- STS_RESPONSE (R232). -/
  | stsResponse (chan : Nat) (warp : Nat) (resp : ShortBurst) (low : Bool)
  /-- TMP_RESPONSE (R238). -/
  | tmpResponse (chan : Nat) (warp : Nat) (resp : ShortBurst)
  /-- PROGRAMMING_RIGHT (R95). -/
  | programmingRight (set : Nat)
  /-- PROGRAMMING_RIGHT_HOLD_END (R154). -/
  | programmingRightHoldEnd (set : Nat)
  /-- ISSUE_PORT_DECISION (R27). -/
  | issuePortDecision (chan : Nat) (hbm : List (BitVec 288))
  /-- WATCHDOG (R325). -/
  | watchdog (chan : Nat)
  /-- MERGE_HOLD_EXPIRY (R88). -/
  | mergeHoldExpiry (entry : Nat) (held : List HeldEcc)
  /-- READ_MODIFY_WRITE_RETURN (R88). -/
  | readModifyWriteReturn (entry : Nat) (raw : Burst) (peers : List Burst)
  /-- DELTA_AGE_EXPIRY (R92). -/
  | deltaAgeExpiry (stripe : Stripe)
  /-- OLD_PARITY_READ_RETURN (R92). -/
  | oldParityReadReturn (stripe : Stripe) (raw : Burst) (members : List Burst) (ecc : WordEcc)
  /-- CLEANER (R97). -/
  | cleaner (held : List HeldEcc)
  /-- STREAM_END (R85). -/
  | streamEnd (tracker : Nat)
  /-- COPY_WRITE_ACKNOWLEDGED (R50). -/
  | copyWriteAcknowledged (page : Page) (copyB : Bool)
  /-- CHANGE_STRIPE_BUFFER_WRITE (R109). -/
  | changeStripeBufferWrite (ecc : WordEcc)
  /-- CHECKPOINT_STRIPE (R109). -/
  | checkpointStripe
  /-- STRIPE_RELEASE (R51). -/
  | stripeRelease (stripe : Stripe)
  /-- BACKGROUND_WORK (R120). -/
  | backgroundWork (hbm : List (BitVec 288))
  /-- REWRITE_COPY_RETURN (R122). -/
  | rewriteCopyReturn (page : Page) (raw : Burst) (peers : List Burst)
  /-- TILLING_MOVE (R129). -/
  | tillingMove (page : Page)
  /-- HORIZON_TICK (R132). -/
  | horizonTick
  /-- HARROW_READ_RETURN (R141). -/
  | harrowReadReturn (chan : Nat) (raw : Burst) (peers : List Burst)
  /-- HARROW_OVER_LIMIT (R142). -/
  | harrowOverLimit
  /-- REBUILD_CURSOR_WRITE (R148). -/
  | rebuildCursorWrite
  /-- FALLOW_ENTRY (R153). -/
  | fallowEntry
  /-- RCT_AGE_EXPIRY (R174). -/
  | rctAgeExpiry
  /-- REFRESH_SLOT (R200). -/
  | refreshSlot (pc : Nat) (delayNs : Nat)
  /-- ACTIVATION_TABLE_CLEAR (R206). -/
  | activationTableClear
  /-- PACING_END (R208). -/
  | pacingEnd (pc : Nat) (requester : Nat)
  /-- HBM_CA_PARITY (R195). -/
  | hbmCaParity (pc : Nat)
  /-- VDD_AUX_APPLIED (R455). -/
  | vddAuxApplied (sensor31 : BitVec 16)
  /-- RISE_START (R349). -/
  | riseStart (errs : List PstErr)
  /-- RAIL_ON_STEP (R345). -/
  | railOnStep (rail : Nat)
  /-- POWER_GOOD_WINDOW_END (R345). -/
  | powerGoodWindowEnd (rail : Nat) (pg : Bool)
  /-- ISOLATION_RELEASE (R18). -/
  | isolationRelease (straps : BitVec 4) (refclk : Bool)
  /-- HBM_TRAINING (R210). -/
  | hbmTraining (lanes : Nat) (ms : Nat) (bad : Option Nat)
  /-- HBM_FILL (R175). -/
  | hbmFill
  /-- FIRMWARE_VERIFY (R395). -/
  | firmwareVerify (a : Option FwImage) (b : Option FwImage)
  /-- MEDIA_TRAINING (R234). -/
  | mediaTraining (found : List ChanTrain)
  /-- MAPPING_REBUILD (R117). -/
  | mappingRebuild (reads : List (Nat × List Image))
  /-- REPLAY (R117). -/
  | replay (members : List Image) (bad : List (Stripe × Nat))
  /-- REANCHOR (R136). -/
  | reanchor (reads : List (List Image))
  /-- RISE_COMPLETE (R350). -/
  | riseComplete
  /-- PWR_FAIL_N_ASSERTED (R356). -/
  | pwrFailNAsserted
  /-- DRAIN_LOG (R111). -/
  | drainLog (held : List HeldEcc)
  /-- SEAL_RECORD (R110). -/
  | sealRecord (verified : Bool)
  /-- PWR_FAIL_N_DEASSERTED (R357). -/
  | pwrFailNDeasserted
  /-- MR_N (R358): low for 1 ms, or returned high. -/
  | mrN (high : Bool)
  /-- SVC_BTN_PRESS (R359). -/
  | svcBtnPress
  /-- SVC_BTN_RELEASE (R359). -/
  | svcBtnRelease (heldMs : Nat)
  /-- SVC_BTN_HELD_8S (R359). -/
  | svcBtnHeld8s
  /-- PERST_N_ASSERTED (R360). -/
  | perstNAsserted
  /-- PERST_N_DEASSERTED (R351). -/
  | perstNDeasserted
  /-- VDD_AUX_LOST (R362). -/
  | vddAuxLost (vhold : Bool) (cut : CntCut)
  /-- RAIL_FAULT (R346). -/
  | railFault (rail : Nat)
  /-- DRAIN_DEADLINE (R347). -/
  | drainDeadline
  /-- OFF_STEP (R347). -/
  | offStep (rail : Nat)
  /-- RAIL_OFF_CHECK (R347). -/
  | railOffCheck (rail : Nat) (pg : Bool)
  /-- POWER_DOWN_RECORD (R361). -/
  | powerDownRecord
  /-- THERMAL_LATCH_CLEAR (R378). -/
  | thermalLatchClear (sensor31 : BitVec 16)
  /-- D3HOT (R244). -/
  | d3hot
  /-- RETURN_TO_D0 (R354). -/
  | returnToD0
  /-- DORMANT_ENTRY (R352). -/
  | dormantEntry (permits : LinkSub)
  /-- DORMANT_EXIT (R354). -/
  | dormantExit (trigger : WakeTrigger)
  /-- DORMANT_EXIT_COMPLETE (R354). -/
  | dormantExitComplete
  /-- ZONE_UPDATE (R365). -/
  | zoneUpdate (readings : List Reading)
  /-- THERM_TRIP_N (R377). -/
  | thermTripN
  /-- THROTTLE_EVALUATION (R368). -/
  | throttleEvaluation
  /-- PROXY_HOLD_END (R374). -/
  | proxyHoldEnd
  /-- SPEED_MEASUREMENT (R25). -/
  | speedMeasurement (zone : Nat) (factor : BitVec 16)
  /-- VCORE_STEP (R25). -/
  | vcoreStep
  /-- AVS_READBACK (R25). -/
  | avsReadback (mv : BitVec 10)
  /-- HEARTBEAT (R32). -/
  | heartbeat (mp : Nat) (err : Option FwErr)
  /-- HEARTBEAT_LOST (R32). -/
  | heartbeatLost (mp : Nat) (reload : Bool)
  /-- FIRMWARE_RELOAD (R32). -/
  | firmwareReload (mp : Nat) (a : Option FwImage) (b : Option FwImage)
  /-- FAULT_MESSAGE (R319). -/
  | faultMessage (source : BitVec 8) (parityOk : Bool)
  /-- LOG (R328). -/
  | log
  /-- POISON (R321). -/
  | poison
  /-- RETIRE (R321). -/
  | retire
  /-- MSG_DROPPED (R315). -/
  | msgDropped (source : BitVec 8)
  /-- REC_FOLD (R332). -/
  | recFold
  /-- CORE_SAMPLE (R335). -/
  | coreSample
  /-- BANDWIDTH_WINDOW_END (R418). -/
  | bandwidthWindowEnd
  /-- CHANNEL_PUBLISH (R413). -/
  | channelPublish
  /-- LINK_TRAINING (R242): the partner's highest rate, widest width and flit mode (0: it is no CXL host), coded as in
  HIF_LINK_STAT, and the attempts that fail before the link trains. -/
  | linkTraining (rate : BitVec 4) (width : BitVec 5) (flit : BitVec 2) (tries : List LinkTry)
  /-- FLIT_REPLAY (R255). -/
  | flitReplay
  /-- LINK_RECOVERY (R255). -/
  | linkRecovery
  /-- INTEGRITY_CHECK_FAILURE (R256). -/
  | integrityCheckFailure (pcie : Bool) (reads : Nat) (writes : Nat)
  /-- FLR (R262). -/
  | flr
  /-- HOT_RESET (R262). -/
  | hotReset
  /-- REFCLK_LOSS (R450). -/
  | refclkLoss
  /-- GPF_PHASE_1 (R119). -/
  | gpfPhase1
  /-- GPF_PHASE_2 (R119). -/
  | gpfPhase2
  /-- BUS_MASTER_ENABLE (R246). -/
  | busMasterEnable (on : Bool)
  /-- VECTOR_UNMASK (R263). -/
  | vectorUnmask (vector : Nat)
  /-- S2M_CREDIT_RETURN (R252). -/
  | s2mCreditReturn (drs : Nat) (ndr : Nat)
  /-- DECODER_COMMIT (R259). -/
  | decoderCommit (n : Nat) (base : BitVec 52) (size : BitVec 52) (iw : Nat) (ig : Nat) (skip : BitVec 52) (lock : Bool)
  /-- DECODER_COMMIT_CLEAR (R259). -/
  | decoderCommitClear (n : Nat)
  /-- DOE_DISCOVERY (R264). -/
  | doeDiscovery (index : BitVec 8)
  /-- CDAT_TABLE_ACCESS (R265). -/
  | cdatTableAccess
  /-- GET_MEASUREMENTS (R397), or another request of R264 to the SPDM responder. -/
  | getMeasurements (req : SpdmReq)
  /-- GET_CERTIFICATE (R397). -/
  | getCertificate (slot : BitVec 4) (offset : BitVec 16) (length : BitVec 16)
  /-- SET_CERTIFICATE (R397). -/
  | setCertificate (slot : BitVec 4)
  /-- KEY_SET_GO (R398). -/
  | keySetGo (pcie : Bool) (set : Bool) (tx : Bool)
  /-- KEY_SET_STOP (R398). -/
  | keySetStop (pcie : Bool) (set : Bool) (tx : Bool)
  /-- DATA_WORDS (R271). -/
  | dataWords (queue : Nat) (off : BitVec 16) (bytes : Nat) (words : List QWord) (ep : Bool)
  /-- BEGIN (R271). -/
  | begin (queue : Nat) (bytes : Nat) (w : QWord) (ep : Bool)
  /-- END (R273). -/
  | endWord (queue : Nat) (bytes : Nat) (w : QWord) (ep : Bool)
  /-- BEGIN_AND_END (R271). -/
  | beginAndEnd (queue : Nat) (bytes : Nat) (w : QWord) (ep : Bool)
  /-- QUEUE_RESET (R289). -/
  | queueReset (queue : Nat)
  /-- QUEUE_ENABLE (R281). -/
  | queueEnable (queue : Nat) (en : Bool)
  /-- TAKE_UP (R279). -/
  | takeUp (ecc : Option (Nat × Bool))
  /-- NOP (R286). -/
  | nop
  /-- IDENTIFY (R286). -/
  | identify
  /-- GET_TIME (R286). -/
  | getTime
  /-- HLT_SUMMARY (R286). -/
  | hltSummary
  /-- HLT_LOST_LIST (R286). -/
  | hltLostList
  /-- HLT_TEMPS (R379). -/
  | hltTemps
  /-- HLT_UNITS (R286). -/
  | hltUnits
  /-- MM_CACHE_OP (R186). -/
  | mmCacheOp
  /-- CLEAN (R185). -/
  | clean
  /-- INVALIDATE (R185). -/
  | invalidate
  /-- CLEAN_AND_INVALIDATE (R185). -/
  | cleanAndInvalidate
  /-- LOCK (R181). -/
  | lock (raw : Burst) (peers : List Burst)
  /-- UNLOCK_LINE (R182). -/
  | unlockLine
  /-- ZERO_LINE (R185). -/
  | zeroLine
  /-- MM_HBM_HARD_REPAIR (R286). -/
  | mmHbmHardRepair
  /-- MM_HARROW_RESTART (R286). -/
  | mmHarrowRestart
  /-- MM_RETIRE_LIST (R286). -/
  | mmRetireList
  /-- MM_ISOLATE (R286). -/
  | mmIsolate
  /-- PST_READ (R291). -/
  | pstRead (ecc : WordEcc)
  /-- PST_WRITE (R295). -/
  | pstWrite
  /-- PST_COMMIT (R298). -/
  | pstCommit
  /-- CNT_READ (R303). -/
  | cntRead
  /-- CNT_INC (R302). -/
  | cntInc
  /-- CFG_VALIDATE (R307). -/
  | cfgValidate
  /-- REC_SAMPLE_NOW (R338). -/
  | recSampleNow
  /-- REC_READ_SAMPLE (R337). -/
  | recReadSample
  /-- REC_HIST (R333). -/
  | recHist
  /-- REC_CLEAR (R334). -/
  | recClear
  /-- REC_CLEAR_MASK_WRITE (R334). -/
  | recClearMaskWrite (mask : Word)
  /-- SEC_STATE (R286). -/
  | secState
  /-- SEC_KEYSLOT_BIND (R384). -/
  | secKeyslotBind
  /-- FW_STATE (R286). -/
  | fwState
  /-- FW_SELECT (R286). -/
  | fwSelect
  /-- PMU_USER_EN (R423). -/
  | pmuUserEn
  /-- PMU_USER_DIS (R423). -/
  | pmuUserDis
  /-- PMU_SAMPLES (R422). -/
  | pmuSamples
  /-- DBG_CHALLENGE (R400). -/
  | dbgChallenge
  /-- DBG_RESPONSE (R400). -/
  | dbgResponse
  /-- NONCE_EXPIRY (R400). -/
  | nonceExpiry
  /-- DBG_CLOSE (R401). -/
  | dbgClose
  /-- DBG_RETURN (R406). -/
  | dbgReturn
  /-- MODE_GET (R341). -/
  | modeGet
  /-- MODE_DORMANT (R352). -/
  | modeDormant
  /-- MODE_FALLOW_ENTER (R355). -/
  | modeFallowEnter
  /-- MODE_FALLOW_EXIT (R355). -/
  | modeFallowExit
  /-- MODE_DRAIN_OFF (R342). -/
  | modeDrainOff
  /-- IDENTIFY_GENERIC_COMPONENT (R267). -/
  | identifyGenericComponent
  /-- GET_EVENT_RECORDS (R267). -/
  | getEventRecords
  /-- CLEAR_EVENT_RECORDS (R267). -/
  | clearEventRecords
  /-- GET_EVENT_INTERRUPT_POLICY (R263). -/
  | getEventInterruptPolicy
  /-- SET_EVENT_INTERRUPT_POLICY (R263). -/
  | setEventInterruptPolicy
  /-- GET_FW_INFO (R267). -/
  | getFwInfo
  /-- TRANSFER_FW (R267). -/
  | transferFw
  /-- ACTIVATE_FW (R267). -/
  | activateFw
  /-- GET_TIMESTAMP (R267). -/
  | getTimestamp
  /-- SET_TIMESTAMP (R267). -/
  | setTimestamp
  /-- GET_SUPPORTED_LOGS (R267). -/
  | getSupportedLogs
  /-- GET_LOG (R267). -/
  | getLog
  /-- IDENTIFY_MEMORY_DEVICE (R268). -/
  | identifyMemoryDevice
  /-- GET_PARTITION_INFO (R267). -/
  | getPartitionInfo
  /-- SET_PARTITION_INFO (R267). -/
  | setPartitionInfo
  /-- GET_LSA (R267). -/
  | getLsa
  /-- SET_LSA (R267). -/
  | setLsa
  /-- GET_HEALTH_INFO (R156). -/
  | getHealthInfo
  /-- GET_ALERT_CONFIGURATION (R267). -/
  | getAlertConfiguration
  /-- SET_ALERT_CONFIGURATION (R267). -/
  | setAlertConfiguration
  /-- GET_SHUTDOWN_STATE (R267). -/
  | getShutdownState
  /-- SET_SHUTDOWN_STATE (R267). -/
  | setShutdownState
  /-- GET_POISON_LIST (R267). -/
  | getPoisonList
  /-- INJECT_POISON (R267). -/
  | injectPoison
  /-- CLEAR_POISON (R267). -/
  | clearPoison
  /-- GET_SCAN_MEDIA_CAPABILITIES (R267). -/
  | getScanMediaCapabilities
  /-- SCAN_MEDIA (R267). -/
  | scanMedia
  /-- GET_SCAN_MEDIA_RESULTS (R267). -/
  | getScanMediaResults
  /-- SANITIZE (R392). -/
  | sanitize
  /-- SECURE_ERASE (R392). -/
  | secureErase
  /-- ERASE_CURSOR_WRITE (R392). -/
  | eraseCursorWrite
  /-- GET_SECURITY_STATE (R390). -/
  | getSecurityState
  /-- SET_PASSPHRASE (R390). -/
  | setPassphrase
  /-- DISABLE_PASSPHRASE (R390). -/
  | disablePassphrase
  /-- UNLOCK (R390). -/
  | unlock
  /-- PASSPHRASE_DELAY_END (R389). -/
  | passphraseDelayEnd
  /-- FREEZE_SECURITY_STATE (R390). -/
  | freezeSecurityState
  /-- PASSPHRASE_SECURE_ERASE (R390). -/
  | passphraseSecureErase
  /-- CEIL_CTL_CLEAR (R78). -/
  | ceilCtlClear
  /-- REARM (R318). -/
  | rearm
  /-- SNAPSHOT (R416). -/
  | snapshot
  /-- PMU_CLEAR (R424). -/
  | pmuClear
  /-- FREEZE (R415). -/
  | freeze (on : Bool)
  /-- COUNTER_WRITE (R417). -/
  | counterWrite (unit : Nat) (n : Nat) (value : BitVec 48)
  /-- RC_READ (R9). -/
  | rcRead (path : Path) (off : Nat) (size : Nat)
  /-- LOW_WORD_READ (R431). -/
  | lowWordRead (path : Path) (off : Nat)
  /-- REGISTER_WRITE (R430). -/
  | registerWrite (path : Path) (off : Nat) (size : Nat) (data : BitVec 64)
  /-- SIDEBAND_REGISTER_READ (R433). -/
  | sidebandRegisterRead (words : Nat) (off : Nat)
  /-- BLOCK_TIMEOUT (R434). -/
  | blockTimeout (write : Bool) (words : Nat)
  /-- IDCODE (R402). -/
  | idcode
  /-- BYPASS (R402). -/
  | bypass
  /-- SAMPLE_PRELOAD (R402). -/
  | samplePreload
  /-- EXTEST (R403). -/
  | extest
  /-- EXTEST_EXIT (R403). -/
  | extestExit
  /-- DBG_ACCESS (R402). -/
  | dbgAccess (op : DbgOp)
  /-- WRITE_EYE_CHECK (R235). -/
  | writeEyeCheck (chan : Nat) (warp : Nat) (drift : List (BitVec 6))
  /-- TMP_PERIOD (R235). -/
  | tmpPeriod (chan : Nat)
  /-- REFCLK_RETURN (R450). -/
  | refclkReturn
  /-- CREDIT_PACING_INTERVAL (R370). -/
  | creditPacingInterval
  /-- PROGRESS_TICK (R325). -/
  | progressTick (chan : Nat)
  /-- KEY_EX (R397). -/
  | keyEx
  /-- IDE_KM (R398). -/
  | ideKm (msg : IdeKm)
  deriving DecidableEq, Repr

end Sys2Proof
end

