-- ==== Sys2Proof/Decode.lean ====
section
/-! DEFINITION. Decoding of table words. spec/opcode_table.json gives none of its rows any bits: the rows are the
block's commands and events, each with its operands, and no word spells one. -/

namespace Sys2Proof

/-- The command that a word of the table spells: none, since the table numbers no bits. -/
def decodeTableWord (_nbits _w : Nat) : Option Instr := none

end Sys2Proof
end

