-- ==== Sys2Proof/Config.lean ====
section
/-! DEFINITION. What one part fixes, and the free values: constants without a body, so that nothing can be proved
of the value they hold. Each is named in a log entry of notes/assumptions. -/

namespace Sys2Proof.Config

/-- Draw number n of the on-die random-number generator (R53, R54, R180, R199, R392, R400, R419): free. -/
opaque rng : Nat → BitVec 512

/-- The sampling bits of R128, drawn from an LFSR whose polynomial and seed the spec does not give: free. -/
opaque wearSample : Nat → BitVec 17

/-- The device serial number of GLB_DSN (R429, R459): fixed per part, not stated. -/
opaque dsn : BitVec 64

/-- The root key fused at manufacture (R381). -/
opaque rootKey : BitVec 256

/-- The keyed permutation of R199 from word number to position, under the layout key, of a mapping table of n words. -/
opaque layout : BitVec 256 → (n : Nat) → Equiv.Perm (Fin n)

/-- The debug verification key, a point of P-384, whose hash is fused (R381, R400). -/
opaque debugKey : Nat × Nat

/-- The fused SHA-384 hash of the firmware verification key of an index (R381, R395). -/
opaque keyHash : BitVec 2 → BitVec 384

/-- The SPDM device certificate chain bytes written at manufacture (R385). -/
opaque certByte : Nat → BitVec 8

/-- The length of that chain, at most 2,814 (R385). -/
opaque certLen : Nat

/-- The boot ROM version of measurement 1 (R397). -/
opaque bootRomVersion : BitVec 64

/-- The PCI-SIG vendor ID of Thavel Semiconductor (R245), not stated. -/
opaque vendorId : BitVec 16

/-- Revocation fuses of this part (R459: 0 at shipment; a later lot may carry more). -/
def revokedFuses : BitVec 4 := 0

/-- Anti-rollback floor of index i (R459: 0 at shipment). -/
def rollbackFloor (_i : BitVec 2) : Nat := 0

/-- HZN_REF_c.code as fused on THV-SW64-A1 (R459): 4c + 1. -/
def hznRefFuse (c : Nat) : BitVec 6 := BitVec.ofNat 6 (4 * c + 1)

/-- The delays of a package's 16 lanes in 1/64-UI steps, 6 bits each, as measurement n finds them (R234, R235): free. -/
opaque laneDelays : Nat → BitVec 96

/-- A value left undefined by the spec, number n of kind k: free. -/
opaque freeValue : Nat → Nat → BitVec 64

/-- An SPDM or DOE response body whose content the standards give and the spec does not: free. -/
opaque standardBody : Nat → Nat → BitVec 64

end Sys2Proof.Config
end

