-- ==== Sys2Proof/Machine/Aes.lean ====
section
/-! DEFINITION. AES-256 and what the block does with it: the round function of the placement permutation (R53), the XTS mode of
the media (R91), and the key wrap of the key engine (R381). A block is its sixteen bytes, the most significant first. The
cipher is the one of FIPS 197, XTS that of IEEE 1619, and the key wrap that of NIST SP 800-38F (PRESUMED, log entry 8). -/

namespace Sys2Proof.Machine

/-- The substitution box: row r holds the substitutes of the bytes 16 r to 16 r + 15, the first in its low byte. -/
def aesBox : List Nat := [
  0x76ABD7FE2B670130C56F6BF27B777C63, 0xC072A49CAFA2D4ADF04759FA7DC982CA, 0x1531D871F1E5A534CCF73F362693FDB7,
  0x75B227EBE28012079A059618C323C704, 0x842FE329B3D63B52A05A6E1B1A2C8309, 0xCF584C4A39BECB6A5BB1FC20ED00D153,
  0xA89F3C507F02F94585334D43FBAAEFD0, 0xD2F3FF1021DAB6BCF5389D928F40A351, 0x73195D643D7EA7C41744975FEC130CCD,
  0xDB0B5EDE14B8EE4688902A22DC4F8160, 0x79E4959162ACD3C25C2406490A3A32E0, 0x08AE7A65EAF4566CA94ED58D6D37C8E7,
  0x8A8BBD4B1F74DDE8C6B4A61C2E2578BA, 0x9E1DC186B95735610EF6034866B53E70, 0xDF2855CEE9871E9B948ED9691198F8E1,
  0x16BB54B00F2D99416842E6BF0D89A18C]

/-- The inverse of the substitution box, laid out as the box is. -/
def aesBoxInv : List Nat := [
  0xFBD7F3819EA340BF38A53630D56A0952, 0xCBE9DEC444438E3487FF2F9B8239E37C, 0x4EC3FA420B954CEE3D23C2A632947B54,
  0x25D18B6D49A25B76B224D92866A12E08, 0x92B6655DCC5CA4D41698688664F6F872, 0x849D8DA75746155EDAB9EDFD5048706C,
  0x0645B3B80558E4F70AD3BC8C00ABD890, 0x6B8A130103BDAFC1020F3FCA8F1E2CD0, 0x73E6B4F0CECFF297EADC674F4111913A,
  0x6EDF751CE837F9E28535ADE72274AC96, 0x1BBE18AA0E62B76F89C5291D711AF147, 0xF45ACD78FEC0DB9A2079D2C64B3E56FC,
  0x5FEC8027591012B131C7078833A8DD1F, 0xEF9CC9939F7AE52D0D4AB519A97F5160, 0x619953833CBBEBC8B0F52AAE4D3BE0A0,
  0x7D0C2155631469E126D677BA7E042B17]

/-- The entry of a byte in a box. -/
def boxEntry (t : List Nat) (b : BitVec 8) : BitVec 8 := BitVec.ofNat 8 ((t.getD (b.toNat / 16) 0) / 256 ^ (b.toNat % 16))

/-- Byte i of a block. -/
def blockByte (b : BitVec 128) (i : Nat) : BitVec 8 := b.extractLsb' (120 - 8 * i) 8

/-- The first n bytes of a row of bytes, the first of them the highest. -/
def bytesUpTo (f : Nat → BitVec 8) : (n : Nat) → BitVec (8 * n)
  | 0 => 0
  | n + 1 => bytesUpTo f n ++ f n

/-- The block of sixteen bytes. -/
def blockOf (f : Nat → BitVec 8) : BitVec 128 := bytesUpTo f 16

/-- The substitution of every byte, and its inverse. -/
def aesSub (s : BitVec 128) : BitVec 128 := blockOf fun i => boxEntry aesBox (blockByte s i)
def aesSubInv (s : BitVec 128) : BitVec 128 := blockOf fun i => boxEntry aesBoxInv (blockByte s i)

/-- Row r of the state moves r places to the left, and back. -/
def aesShift (s : BitVec 128) : BitVec 128 := blockOf fun i => blockByte s ((i + 4 * (i % 4)) % 16)
def aesShiftInv (s : BitVec 128) : BitVec 128 := blockOf fun i => blockByte s ((i + 12 * (i % 4)) % 16)

/-- Twice a byte in the field of the cipher. -/
def aesDouble (b : BitVec 8) : BitVec 8 := (b <<< 1) ^^^ (if b.msb then 0x1B else 0)

/-- The mixing of every column, by the factors 2, 3, 1 and 1. -/
def aesMix (s : BitVec 128) : BitVec 128 := blockOf fun i =>
  let x := fun k => blockByte s (i / 4 * 4 + (i + k) % 4)
  aesDouble (x 0) ^^^ (aesDouble (x 1) ^^^ x 1) ^^^ x 2 ^^^ x 3

/-- Its inverse, by the factors 14, 11, 13 and 9. -/
def aesMixInv (s : BitVec 128) : BitVec 128 := blockOf fun i =>
  let x := fun k => blockByte s (i / 4 * 4 + (i + k) % 4)
  let a := aesDouble (aesDouble (aesDouble (x 0 ^^^ x 1 ^^^ x 2 ^^^ x 3)))
  a ^^^ aesDouble (aesDouble (x 0 ^^^ x 2)) ^^^ aesDouble (x 0 ^^^ x 1) ^^^ x 1 ^^^ x 2 ^^^ x 3

/-- The substitution of a word of four bytes, in the key schedule. -/
def aesSubWord (w : BitVec 32) : BitVec 32 :=
  let f := fun n => boxEntry aesBox (w.extractLsb' n 8)
  f 24 ++ f 16 ++ f 8 ++ f 0

/-- The next 256 bits of the key schedule, from the last 256 and the round constant. -/
def aesNextKey (rcon : Nat) (k : BitVec 256) : BitVec 256 :=
  let g := fun n => k.extractLsb' (224 - 32 * n) 32
  let w0 := g 0 ^^^ aesSubWord ((g 7).rotateLeft 8) ^^^ (BitVec.ofNat 8 rcon ++ (0 : BitVec 24))
  let w1 := g 1 ^^^ w0
  let w2 := g 2 ^^^ w1
  let w3 := g 3 ^^^ w2
  let w4 := g 4 ^^^ aesSubWord w3
  let w5 := g 5 ^^^ w4
  let w6 := g 6 ^^^ w5
  w0 ++ w1 ++ w2 ++ w3 ++ w4 ++ w5 ++ w6 ++ (g 7 ^^^ w6)

/-- The round keys of n steps of the schedule, two of each; the round constant doubles. -/
def aesSchedule : Nat → Nat → BitVec 256 → List (BitVec 128)
  | 0, _, _ => []
  | n + 1, rcon, k => k.extractLsb' 128 128 :: k.extractLsb' 0 128 :: aesSchedule n (2 * rcon) (aesNextKey rcon k)

/-- Key r of fifteen round keys. -/
def roundKey (ks : List (BitVec 128)) (r : Nat) : BitVec 128 := ks.getD r 0

/-- The rounds of the cipher under given round keys: thirteen with mixing between the first key and a last round without. -/
def aesRounds (ks : List (BitVec 128)) (b : BitVec 128) : BitVec 128 :=
  aesShift (aesSub (((ks.drop 1).take 13).foldl (fun s k => aesMix (aesShift (aesSub s)) ^^^ k) (b ^^^ roundKey ks 0))) ^^^
    roundKey ks 14

/-- The rounds undone. -/
def aesRoundsInv (ks : List (BitVec 128)) (c : BitVec 128) : BitVec 128 :=
  ((ks.drop 1).take 13).foldr (fun k s => aesSubInv (aesShiftInv (aesMixInv (s ^^^ k))))
    (aesSubInv (aesShiftInv (c ^^^ roundKey ks 14))) ^^^ roundKey ks 0

/-- AES-256 of a block, and its inverse. -/
def aes256 (key : BitVec 256) (block : BitVec 128) : BitVec 128 := aesRounds (aesSchedule 8 1 key) block
def aes256Inv (key : BitVec 256) (block : BitVec 128) : BitVec 128 := aesRoundsInv (aesSchedule 8 1 key) block

/-- The round function of the placement permutation (R53): the low 16 bits of AES-256 of the block of the round number in
one byte, the half in two, and zeros (the widths: DESIGN CHOICE, log entry 8). -/
def placeRound (key : BitVec 256) (i : BitVec 2) (half : BitVec 16) : BitVec 16 :=
  (aes256 key ((0 : BitVec 6) ++ i ++ half ++ (0 : BitVec 104))).setWidth 16

/-- A block with its bytes in the other order. -/
def blockFlip (b : BitVec 128) : BitVec 128 := blockOf fun i => blockByte b (15 - i)

/-- α times a tweak (XTS): a number of 128 bits doubled modulo x¹²⁸ + x⁷ + x² + x + 1. -/
def tweakDouble (t : BitVec 128) : BitVec 128 := (t <<< 1) ^^^ (if t.msb then 0x87 else 0)

/-- The tweak of block j of a line: the line address under the second key, times α j times. Its first byte is the lowest. -/
def xtsTweak (key : BitVec 512) (line : BitVec 35) (j : BitVec 4) : BitVec 128 :=
  blockFlip (tweakDouble^[j.toNat] (blockFlip (aes256 (key.extractLsb' 0 256) (blockFlip (line.setWidth 128)))))

/-- AES-256-XTS of one 16-byte block (R91): the two keys of a slot, the line address DPA[42:8] as tweak, block index 0 to 15. -/
def xtsBlock (key : BitVec 512) (line : BitVec 35) (j : BitVec 4) (b : BitVec 128) : BitVec 128 :=
  aes256 (key.extractLsb' 256 256) (b ^^^ xtsTweak key line j) ^^^ xtsTweak key line j

/-- Its inverse. -/
def xtsBlockInv (key : BitVec 512) (line : BitVec 35) (j : BitVec 4) (b : BitVec 128) : BitVec 128 :=
  aes256Inv (key.extractLsb' 256 256) (b ^^^ xtsTweak key line j) ^^^ xtsTweak key line j

/-- Step t of the key wrap (KW): the first semiblock of five goes with the second through the cipher, and the others move up. -/
def wrapStep (kek : BitVec 256) (w : BitVec 320) (t : Nat) : BitVec 320 :=
  let b := aes256 kek (w.extractLsb' 192 128)
  (b.extractLsb' 64 64 ^^^ BitVec.ofNat 64 t) ++ w.extractLsb' 0 192 ++ b.extractLsb' 0 64

/-- Step t undone. -/
def wrapStepInv (kek : BitVec 256) (t : Nat) (w : BitVec 320) : BitVec 320 :=
  aes256Inv kek ((w.extractLsb' 256 64 ^^^ BitVec.ofNat 64 t) ++ w.extractLsb' 0 64) ++ w.extractLsb' 64 192

/-- The key wrap of a 256-bit key in 40 bytes (R381): the integrity check value before the key, through 24 steps. -/
def keyWrap (kek key : BitVec 256) : BitVec 320 :=
  ((List.range 24).map (· + 1)).foldl (wrapStep kek) ((0xA6A6A6A6A6A6A6A6 : BitVec 64) ++ key)

/-- Key unwrap (R381): none where the integrity check fails. -/
def keyUnwrap (kek : BitVec 256) (w : BitVec 320) : Option (BitVec 256) :=
  let x := ((List.range 24).map (· + 1)).foldr (wrapStepInv kek) w
  if x.extractLsb' 256 64 = 0xA6A6A6A6A6A6A6A6 then some (x.extractLsb' 0 256) else none

end Sys2Proof.Machine
end

