-- ==== Sys2Proof/Machine/Bytes.lean ====
section
/-! DEFINITION. Strings of bytes: of numbers, words and sectors. -/

namespace Sys2Proof.Machine

/-- The n low bytes of a number, least significant first. -/
def bytesLe : Nat → Nat → List (BitVec 8)
  | 0, _ => []
  | n + 1, v => BitVec.ofNat 8 v :: bytesLe n (v / 256)

/-- A number's bytes, most significant first. -/
def bytesBe (n v : Nat) : List (BitVec 8) := (bytesLe n v).reverse

/-- A number from bytes, least significant first. -/
def leBytes : List (BitVec 8) → Nat
  | [] => 0
  | b :: bs => b.toNat + 256 * leBytes bs

/-- Pad a byte list with zeros, or cut it, to a length. -/
def padTo (n : Nat) (l : List (BitVec 8)) : List (BitVec 8) := (l ++ List.replicate n 0).take n

/-- Bytes as one word, the first byte most significant. -/
def packBytes (w : Nat) (l : List (BitVec 8)) : BitVec w := BitVec.ofNat w (l.foldl (fun a b => a * 256 + b.toNat) 0)

/-- The bytes of a sector, byte 0 first. -/
def sectorBytes (s : Sector) : List (BitVec 8) := (List.range 64).map fun i => s.extractLsb' (504 - 8 * i) 8

/-- 64-bit words from bytes, each least significant byte first. -/
def wordsOf : Nat → List (BitVec 8) → List (BitVec 64)
  | 0, _ => []
  | n + 1, l => if l = [] then [] else BitVec.ofNat 64 (leBytes (l.take 8)) :: wordsOf n (l.drop 8)

/-- The 8 bytes of a 64-bit word, least significant first. -/
def wordBytes (w : BitVec 64) : List (BitVec 8) := bytesLe 8 w.toNat

end Sys2Proof.Machine
end

