-- ==== Sys2Proof/Machine/Digest.lean ====
section
/-! DEFINITION. SHA-384, the key derivation of the key engine (R381), and ECDSA P-384 verification, which firmware images,
measurements and debug sessions use (R394, R395, R397, R400). They are those of FIPS 180-4, FIPS 198-1, NIST SP 800-108 and
FIPS 186-4 (PRESUMED, log entry 8). Numbers stand most significant byte first. -/

namespace Sys2Proof.Machine

/-- The round constants of SHA-384. -/
def shaConstants : List (BitVec 64) :=
  [0x428A2F98D728AE22, 0x7137449123EF65CD, 0xB5C0FBCFEC4D3B2F, 0xE9B5DBA58189DBBC,
  0x3956C25BF348B538, 0x59F111F1B605D019, 0x923F82A4AF194F9B, 0xAB1C5ED5DA6D8118,
  0xD807AA98A3030242, 0x12835B0145706FBE, 0x243185BE4EE4B28C, 0x550C7DC3D5FFB4E2,
  0x72BE5D74F27B896F, 0x80DEB1FE3B1696B1, 0x9BDC06A725C71235, 0xC19BF174CF692694,
  0xE49B69C19EF14AD2, 0xEFBE4786384F25E3, 0x0FC19DC68B8CD5B5, 0x240CA1CC77AC9C65] ++
  [0x2DE92C6F592B0275, 0x4A7484AA6EA6E483, 0x5CB0A9DCBD41FBD4, 0x76F988DA831153B5,
  0x983E5152EE66DFAB, 0xA831C66D2DB43210, 0xB00327C898FB213F, 0xBF597FC7BEEF0EE4,
  0xC6E00BF33DA88FC2, 0xD5A79147930AA725, 0x06CA6351E003826F, 0x142929670A0E6E70,
  0x27B70A8546D22FFC, 0x2E1B21385C26C926, 0x4D2C6DFC5AC42AED, 0x53380D139D95B3DF,
  0x650A73548BAF63DE, 0x766A0ABB3C77B2A8, 0x81C2C92E47EDAEE6, 0x92722C851482353B] ++
  [0xA2BFE8A14CF10364, 0xA81A664BBC423001, 0xC24B8B70D0F89791, 0xC76C51A30654BE30,
  0xD192E819D6EF5218, 0xD69906245565A910, 0xF40E35855771202A, 0x106AA07032BBD1B8,
  0x19A4C116B8D2D0C8, 0x1E376C085141AB53, 0x2748774CDF8EEB99, 0x34B0BCB5E19B48A8,
  0x391C0CB3C5C95A63, 0x4ED8AA4AE3418ACB, 0x5B9CCA4F7763E373, 0x682E6FF3D6B2B8A3,
  0x748F82EE5DEFB2FC, 0x78A5636F43172F60, 0x84C87814A1F0AB72, 0x8CC702081A6439EC] ++
  [0x90BEFFFA23631E28, 0xA4506CEBDE82BDE9, 0xBEF9A3F7B2C67915, 0xC67178F2E372532B,
  0xCA273ECEEA26619C, 0xD186B8C721C0C207, 0xEADA7DD6CDE0EB1E, 0xF57D4F7FEE6ED178,
  0x06F067AA72176FBA, 0x0A637DC5A2C898A6, 0x113F9804BEF90DAE, 0x1B710B35131C471B,
  0x28DB77F523047D84, 0x32CAAB7B40C72493, 0x3C9EBE0A15C9BEBC, 0x431D67C49C100D4C,
  0x4CC5D4BECB3E42B6, 0x597F299CFC657E2A, 0x5FCB6FAB3AD6FAEC, 0x6C44198C4A475817]

/-- The initial hash value of SHA-384. -/
def shaStart : List (BitVec 64) :=
  [0xCBBB9D5DC1059ED8, 0x629A292A367CD507, 0x9159015A3070DD17, 0x152FECD8F70E5939,
  0x67332667FFC00B31, 0x8EB44A8768581511, 0xDB0C2E0D64F98FA7, 0x47B5481DBEFA4FA4]

/-- The exclusive OR of three rotations to the right. -/
def shaRotations (a b c : Nat) (x : BitVec 64) : BitVec 64 := x.rotateRight a ^^^ x.rotateRight b ^^^ x.rotateRight c

/-- The exclusive OR of two rotations to the right and a shift. -/
def shaMix (a b c : Nat) (x : BitVec 64) : BitVec 64 := x.rotateRight a ^^^ x.rotateRight b ^^^ (x >>> c)

/-- The message schedule, newest word first, extended by n words. -/
def shaExtend : Nat → List (BitVec 64) → List (BitVec 64)
  | 0, w => w
  | n + 1, w => shaExtend n ((shaMix 19 61 6 (w.getD 1 0) + w.getD 6 0 + shaMix 1 8 7 (w.getD 14 0) + w.getD 15 0) :: w)

/-- One round, with a constant and a word of the schedule. -/
def shaRound (s : List (BitVec 64)) (kw : BitVec 64 × BitVec 64) : List (BitVec 64) :=
  match s with
  | [a, b, c, d, e, f, g, h] =>
    let t1 := h + shaRotations 14 18 41 e + ((e &&& f) ^^^ (~~~e &&& g)) + kw.1 + kw.2
    let t2 := shaRotations 28 34 39 a + ((a &&& b) ^^^ (a &&& c) ^^^ (b &&& c))
    [t1 + t2, a, b, c, d + t1, e, f, g]
  | s => s

/-- The hash value after one block of 16 words. -/
def shaBlock (h w : List (BitVec 64)) : List (BitVec 64) :=
  List.zipWith (· + ·) h ((List.zip shaConstants (shaExtend 64 w.reverse).reverse).foldl shaRound h)

/-- The hash value after n blocks of 128 bytes. -/
def shaBlocks : Nat → List (BitVec 8) → List (BitVec 64) → List (BitVec 64)
  | 0, _, h => h
  | n + 1, l, h => shaBlocks n (l.drop 128) (shaBlock h ((List.range 16).map fun i => packBytes 64 ((l.drop (8 * i)).take 8)))

/-- A message padded to whole blocks: a 1 bit, zeros, and its length in bits. -/
def shaPad (l : List (BitVec 8)) : List (BitVec 8) :=
  l ++ 0x80 :: List.replicate ((239 - l.length % 128) % 128) 0 ++ (bytesLe 16 (8 * l.length)).reverse

/-- SHA-384 of a string of bytes. -/
def sha384 (l : List (BitVec 8)) : BitVec 384 :=
  let p := shaPad l
  BitVec.ofNat 384 (((shaBlocks (p.length / 128) p shaStart).take 6).foldl (fun a w => a * 2 ^ 64 + w.toNat) 0)

/-- The bytes of a digest. -/
def digestBytes (x : BitVec 384) : List (BitVec 8) := (List.range 48).map fun i => x.extractLsb' (376 - 8 * i) 8

/-- HMAC-SHA-384 of a message under a key of at most 128 bytes. -/
def hmac384 (key msg : List (BitVec 8)) : BitVec 384 :=
  let k := padTo 128 key
  sha384 (k.map (· ^^^ 0x5C) ++ digestBytes (sha384 (k.map (· ^^^ 0x36) ++ msg)))

/-- Derive bits from a key in counter mode (R381): each round is the HMAC of its number, the label, a zero byte, the context and
the number of bits (the widths of the numbers, four bytes: DESIGN CHOICE, log entry 8). -/
def deriveKey (bits : Nat) (key : BitVec 256) (label context : List (BitVec 8)) : BitVec bits :=
  packBytes bits (((List.range ((bits + 383) / 384)).flatMap fun i => digestBytes (hmac384 (bytesBe 32 key.toNat)
    (bytesBe 4 (i + 1) ++ label ++ 0 :: context ++ bytesBe 4 bits))).take (bits / 8))

/-- The two AES-256 keys of slot k under a media master key (R381): label KS. -/
def mediaSlotKeys (key : BitVec 256) (slot : BitVec 6) : BitVec 512 := deriveKey 512 key [0x4B, 0x53] [slot.setWidth 8]

/-- The device KEK (R381): label KD. -/
def deviceKek : BitVec 256 := deriveKey 256 Config.rootKey [0x4B, 0x44] []

/-- The bytes of a salt and a passphrase, whose first byte is its lowest. -/
def saltPass (salt : BitVec 128) (pass : BitVec 256) : List (BitVec 8) := bytesBe 16 salt.toNat ++ bytesLe 32 pass.toNat

/-- The user KEK of a salt and a passphrase (R381): label KU. -/
def userKekOf (salt : BitVec 128) (pass : BitVec 256) : BitVec 256 :=
  deriveKey 256 Config.rootKey [0x4B, 0x55] (saltPass salt pass)

/-- The verifier of a passphrase (R385): label VU, or VM for the master passphrase. -/
def verifierOf (master : Bool) (salt : BitVec 128) (pass : BitVec 256) : BitVec 256 :=
  deriveKey 256 Config.rootKey [0x56, if master then 0x4D else 0x55] (saltPass salt pass)

/-- The prime of P-384. -/
def p384 : Nat := 2 ^ 384 - 2 ^ 128 - 2 ^ 96 + 2 ^ 32 - 1

/-- The order of the base point of P-384. -/
def order384 : Nat :=
  0xFFFFFFFFFFFFFFFFFFFFFFFFFFFFFFFFFFFFFFFFFFFFFFFFC7634D81F4372DDF581A0DB248B0A77AECEC196ACCC52973

/-- The constant term of the curve P-384. -/
def curveB : Nat := 0xB3312FA7E23EE7E4988E056BE3F82D19181D9C6EFE8141120314088F5013875AC656398D8A2ED19D2A85C8EDD3EC2AEF

/-- A point of the curve; none is the point at infinity. -/
abbrev CurvePoint := Option (Nat × Nat)

/-- The base point of P-384. -/
def base384 : CurvePoint := some
  (0xAA87CA22BE8B05378EB1C71EF320AD746E1D3B628BA79B9859F741E082542A385502F25DBF55296C3A545E3872760AB7,
    0x3617DE4A96262C6F5D9E98BF9292DC29F8F41DBD289A147CE9DA3113B5F0B8C00A60B1CE1D7E819D7A431D7C90EA0E5F)

/-- A power modulo m, from the top bit of an exponent of n bits. -/
def powMod (m x e : Nat) : Nat → Nat
  | 0 => 1
  | n + 1 =>
    let y := powMod m x (e / 2) n
    if e % 2 = 1 then y * y % m * x % m else y * y % m

/-- The inverse modulo a prime of 384 bits. -/
def invMod (m x : Nat) : Nat := powMod m x (m - 2) 384

/-- x − y modulo p384. -/
def subMod (x y : Nat) : Nat := (x % p384 + (p384 - y % p384)) % p384

/-- The third point of the line of slope l through (x, y) and a point of abscissa u, reflected. -/
def chord (l x y u : Nat) : CurvePoint :=
  let v := subMod (subMod (l * l) x) u
  some (v, subMod (l * subMod x v) y)

/-- The sum of two points of the curve. -/
def addPoint (a b : CurvePoint) : CurvePoint :=
  match a, b with
  | none, q => q
  | p, none => p
  | some (x, y), some (u, v) =>
    if x ≠ u then chord (subMod v y * invMod p384 (subMod u x) % p384) x y u
    else if (y + v) % p384 = 0 then none
    else chord (subMod (3 * x * x) 3 * invMod p384 (2 * y % p384) % p384) x y u

/-- A multiple of a point, by a factor of n bits. -/
def mulPoint (q : CurvePoint) (k : Nat) : Nat → CurvePoint
  | 0 => none
  | n + 1 =>
    let r := mulPoint q (k / 2) n
    if k % 2 = 1 then addPoint (addPoint r r) q else addPoint r r

/-- Whether coordinates name a point of P-384. -/
def onCurve (x y : Nat) : Bool :=
  decide (x < p384) && decide (y < p384) && y * y % p384 = (subMod (x * x * x) (3 * x) + curveB) % p384

/-- Whether (r, s) is an ECDSA P-384 signature, under the key (x, y), over a message. -/
def ecdsaOk (x y r s : Nat) (msg : List (BitVec 8)) : Bool :=
  if onCurve x y && decide (0 < r ∧ r < order384 ∧ 0 < s ∧ s < order384) then
    let w := invMod order384 s
    match addPoint (mulPoint base384 ((sha384 msg).toNat * w % order384) 384) (mulPoint (some (x, y)) (r * w % order384) 384) with
    | some q => q.1 % order384 = r
    | none => false
  else false

/-- Whether a debug response verifies (R400): its 96 bytes are r and s, over the nonce, the serial number, GLB_ID and the code of
the security state, under the key whose hash is fused. -/
def debugSigOk (params : List (BitVec 64)) (nonce : BitVec 192) (dsn : BitVec 64) (glbId : BitVec 32) (state : BitVec 8) : Bool :=
  let sig := params.flatMap wordBytes
  let num := fun (l : List (BitVec 8)) => (packBytes 384 l).toNat
  ecdsaOk Config.debugKey.1 Config.debugKey.2 (num (sig.take 48)) (num ((sig.drop 48).take 48))
    (bytesLe 24 nonce.toNat ++ bytesLe 8 dsn.toNat ++ bytesLe 4 glbId.toNat ++ [state])

end Sys2Proof.Machine
end

