-- ==== Sys2Proof/Machine/Store.lean ====
section
/-! DEFINITION. Sparse maps in one canonical form: keys strictly rising, and no entry equal to what an unlisted
key reads as. Every array of the SW64 (register contents, cache ways, mapping mirrors, counters in HBM, store
slots) is held in one of these, so that equal contents are equal data. -/

namespace Sys2Proof.Machine

/-- A sparse map from Nat keys; an unlisted key reads as the default given to each operation. -/
abbrev SMap (α : Type) := List (Nat × α)

variable {α : Type}

/-- The value at a key; `d` when the key is unlisted. -/
def smGet (d : α) : SMap α → Nat → α
  | [], _ => d
  | (k, v) :: m, a => if a = k then v else smGet d m a

/-- Remove a key. -/
def smErase : SMap α → Nat → SMap α
  | [], _ => []
  | (k, v) :: m, a => if a = k then smErase m a else (k, v) :: smErase m a

/-- Put a value at a key, keeping the keys rising. -/
def smPut : SMap α → Nat → α → SMap α
  | [], a, v => [(a, v)]
  | (k, w) :: m, a, v =>
    if a < k then (a, v) :: (k, w) :: m
    else if a = k then (a, v) :: m
    else (k, w) :: smPut m a v

/-- Write a value: writing the default removes the entry. -/
def smSet [DecidableEq α] (d : α) (m : SMap α) (a : Nat) (v : α) : SMap α :=
  if v = d then smErase m a else smPut m a v

/-- Change the value at a key. -/
def smMod [DecidableEq α] (d : α) (m : SMap α) (a : Nat) (f : α → α) : SMap α :=
  smSet d m a (f (smGet d m a))

/-- Every key of the map lies above `lo`, rising, and no value is the default. -/
def smWfFrom [DecidableEq α] (d : α) : Option Nat → SMap α → Bool
  | _, [] => true
  | lo, (k, v) :: m =>
    (match lo with | none => true | some l => decide (l < k)) && decide (v ≠ d) && smWfFrom d (some k) m

/-- The canonical form. -/
def smWf [DecidableEq α] (d : α) (m : SMap α) : Bool := smWfFrom d none m

/-- The greatest of a map's values, 0 when it is empty. -/
def smMax (m : SMap Nat) : Nat := m.foldl (fun a e => max a e.2) 0

/-- Add one, saturating at a maximum. -/
def satInc (maxV n : Nat) : Nat := if n < maxV then n + 1 else maxV

/-- Saturate at a maximum. -/
def sat (maxV n : Nat) : Nat := min maxV n

/-- Elapsed ns from one timebase value to a later one (R17), modulo 2^64. -/
def elapsed (since now : Stamp) : Nat := (now - since).toNat

/-- Replace the elements that satisfy `p`. -/
def mapIf (p : α → Bool) (f : α → α) (l : List α) : List α := l.map fun x => if p x then f x else x

/-- Replace the element at an index. -/
def setAt : List α → Nat → α → List α
  | [], _, _ => []
  | _ :: l, 0, v => v :: l
  | x :: l, n + 1, v => x :: setAt l n v

/-- Change the element at an index. -/
def modAt (l : List α) (n : Nat) (f : α → α) : List α :=
  match l[n]? with | none => l | some x => setAt l n (f x)

/-- Add an element to a collection without repeats. -/
def addOnce [DecidableEq α] (x : α) (l : List α) : List α := if x ∈ l then l else l ++ [x]

end Sys2Proof.Machine
end

