-- ==== Sys2Proof/Machine/Types.lean ====
section
/-! DEFINITION. The named things of the SW64 that its state is made of: modes, routes, fault messages, merge-buffer
entries, programmes, media operations, packets, records. Plain data only. -/

namespace Sys2Proof.Machine

/-- Operating modes (R341). -/
inductive Mode where
  | off | rise | serve | dormant | drain | fallow
  deriving DecidableEq, Repr

/-- Security states (R387). -/
inductive SecSt where
  | disabled | unlocked | locked | frozen | exhausted
  deriving DecidableEq, Repr

/-- Debug states (R399). -/
inductive DbgSt where
  | sealed | opened | returned
  deriving DecidableEq, Repr

/-- Routes of a host read (R62, R421). -/
inductive Route where
  | cache | unmapped | direct | busy | hot | lost | notAccepted
  deriving DecidableEq, Repr

/-- What a read tag stands for: a host read, the sector read of a partial write (R250), a rebuild (R148), or the
reconstruction of a member that a harrow read could not decode (R141). -/
inductive RdKind where
  | host
  | spec
  | partialWr (data : Sector) (enables : BitVec 64) (poison : Bool)
  | rebuild (set : Nat) (row : Nat) (chan : Nat)
  | patrol (stripe : Stripe) (chan : Nat)
  deriving DecidableEq, Repr

/-- Where a read stands (R56). `map second` waits for a mirror copy; `line` waits at a line in FILL or
behind an earlier partial write of the same 64-byte line (R66, R254); `done` has been answered, its fetched codeword
still on its way (R166). -/
inductive RdPhase where
  | map (copyB : Bool) (second : Bool)
  | line
  | media
  | done
  deriving DecidableEq, Repr

/-- A read accepted and not yet answered, with the stamps of R420. -/
structure Read where
  tag : Nat
  line : SecAddr
  kind : RdKind
  slot : BitVec 6
  arrived : Stamp
  ceiling : Bool
  phase : RdPhase
  entry : BitVec 64
  route : Route
  alloc : Bool
  escalated : Bool
  cwOut : Bool
  peersOut : Bool
  speculative : Bool
  fault : Bool
  tagged : Bool
  accept : Stamp
  translate : Option Stamp
  issue : Option Stamp
  ret : Option Stamp
  decode : Option Stamp
  recon : Option Stamp
  deriving DecidableEq, Repr

/-- A response on the S2M channels (R249). -/
inductive Resp where
  | memData (line : SecAddr) (data : Sector) (poison : Bool)
  | cmp (line : SecAddr)
  deriving DecidableEq, Repr

/-- An accepted request and its answer once formed; answers of one 64-byte line leave in order (R254).
`serve` is true for a request that arrived in SERVE, `reject` for one answered under R253. -/
structure Pend where
  tag : Nat
  line : SecAddr
  write : Bool
  part : Bool
  serve : Bool
  tagged : Bool
  reject : Bool
  arrived : Stamp
  ans : Option Resp
  void : Bool := false
  whole : Option (Sector × Bool) := none
  deriving DecidableEq, Repr

/-- The CXL RAS capability (R248, R255): error status and masks. -/
structure Ras where
  unc : BitVec 32 := 0
  uncMask : BitVec 32 := 0
  uncSev : BitVec 32 := 0
  cor : BitVec 32 := 0
  corMask : BitVec 32 := 0
  deriving DecidableEq, Repr

/-- A request that arrived in DORMANT on a held credit and waits for the exit (R253). -/
inductive HeldReq where
  | rd (hpa : BitVec 52)
  | spec (hpa : BitVec 52)
  | inv (hpa : BitVec 52)
  | wr (hpa : BitVec 52) (data : Sector) (poison : Bool)
  | wrPtl (hpa : BitVec 52) (data : Sector) (enables : BitVec 64) (poison : Bool)
  deriving DecidableEq, Repr

/-- One way of the line cache (R177), with its four plaintext sectors, the sectors being fetched, and the time its
oldest dirty sector was written (R97). -/
structure Way where
  tag : BitVec 22 := 0
  valid : Bool := false
  fill : BitVec 4 := 0
  sv : BitVec 4 := 0
  sd : BitVec 4 := 0
  poison : BitVec 4 := 0
  lock : Bool := false
  owner : BitVec 3 := 0
  slot : BitVec 6 := 0
  since : Stamp := 0
  d0 : Sector := 0
  d1 : Sector := 0
  d2 : Sector := 0
  d3 : Sector := 0
  deriving DecidableEq, Repr

/-- A maintenance request (R186) and where it came from. `reading` while a lock waits for its codeword; `waitEntries` the
merge-buffer entries a durable request waits for; `outs` the lines whose copy-out follows their step, and whether each is
then made INVALID (R187). -/
structure Mnt where
  op : BitVec 3
  cls : BitVec 3
  durable : Bool
  start : LineAddr
  count : Nat
  done : Nat
  acted : Nat
  dirty : Bool
  lockLimit : Bool
  waitEntries : List Nat
  outs : List (LineAddr × Bool)
  reading : Bool
  fromCmd : Bool
  deriving DecidableEq, Repr

/-- A stream tracker of the sequential-store detector (R85). `curLate` and `nextLate`: a write beyond the line after it came
while the current line, or the next one, was begun and not complete. -/
structure Tracker where
  id : Nat
  cur : LineAddr
  curMask : BitVec 4
  nextMask : BitVec 4
  count : Nat
  noAlloc : Bool
  last : Stamp
  curLate : Bool
  nextLate : Bool
  deriving DecidableEq, Repr

/-- States of a merge-buffer entry (R87). -/
inductive MState where
  | assembling | sealedImg | programming | verified
  deriving DecidableEq, Repr

/-- A merge-buffer entry (R87): one codeword slot's pending contents. `host` marks the sectors that hold values of
the persistence domain; `image` is the sealed image, `old` the old image its delta is formed from. `whole` marks an entry of
a whole-page write; `waits` one whose degraded-stripe write waits its turn (R89, R92, R148, R464); `pend` one whose image
its page's rewrite is to take as new content (R134, R143, R145). -/
structure MEntry where
  id : Nat
  line : LineAddr
  slot : BitVec 6
  st : MState
  sv : BitVec 4
  host : BitVec 4
  poison : BitVec 4
  d0 : Sector
  d1 : Sector
  d2 : Sector
  d3 : Sector
  image : Image
  old : Option Image
  noOld : Bool
  created : Stamp
  sealedAt : Stamp
  reading : Bool
  whole : Bool
  launched : Bool
  delta : Option Nat
  chg : Option Nat
  dataOk : Bool
  parOk : Bool
  waits : Bool
  pend : Bool
  deriving DecidableEq, Repr

/-- A parity-delta buffer entry with its intent record (R92, R93); `entry` is its number in the buffer, 0 to 6,143 (R461). -/
structure Delta where
  id : Nat
  stripe : Stripe
  delta : Image
  contrib : BitVec 16
  opened : Stamp
  closed : Bool
  reading : Bool
  recompute : Bool
  entry : Nat
  deriving DecidableEq, Repr

/-- What a programme carries (R463). -/
inductive ProgKind where
  | data (entry : Nat)
  | parity (delta : Nat)
  | first (page : Page) (pos : Nat)
  | rewrite (page : Page) (pos : Nat)
  | inPlace (page : Page) (pos : Nat)
  | full (page : Page) (pos : Nat)
  | journal (seq : Nat) (pos : Nat)
  | store (slot : Nat) (part : Nat)
  | rebuild (set : Nat) (row : Nat) (chan : Nat)
  | overwrite
  deriving DecidableEq, Repr

/-- Where a programme stands: waiting for the right, registered at the port with the right (R63), granted, or
granted and being abandoned by a partition reset (R65); `worn`: failed for good, its image kept for reconstructions of
its row until its page has moved (R64, R143). -/
inductive ProgSt where
  | pending | hasRight | granted | resetting | overrun | worn
  deriving DecidableEq, Repr

/-- A programme of one codeword slot. `abandoned` while its slot holds indeterminate content (R65); `begun` from its first
grant on; `dataEnd` is the time of its last data beat in units of 1/48 ns (R62); `mark` is the number the next media operation had when
the programming right arrived (R63); `told` once a ready frame 0b11 has come for it (R231). -/
structure Prog where
  id : Nat
  kind : ProgKind
  chan : Nat
  set : Nat
  row : Nat
  image : Image
  st : ProgSt
  retried : Bool
  abandoned : Bool
  begun : Bool
  granted : Stamp
  dataEnd : Nat
  mark : Nat
  told : Bool := false
  deriving DecidableEq, Repr

/-- What a media operation is for (R463). -/
inductive MopKind where
  | sector (tag : Nat) (sec : Nat)
  | codeword (tag : Nat)
  | peer (tag : Nat) (host : Bool)
  | reset (prog : Nat)
  | rmw (entry : Nat)
  | oldParity (delta : Nat)
  | copy (page : Page)
  | dropped
  | other
  | status (warp : Nat)
  | temperature (warp : Nat)
  | train (warp : Nat) (mode : Nat) (drift : List (BitVec 6))
  | mdw (warp : Nat) (reg : Nat) (value : BitVec 8)
  | harrow (stripe : Stripe) (member : Nat) (owner : Option Nat)
  | check (stripe : Stripe)
  | scan (line : LineAddr)
  deriving DecidableEq, Repr

/-- What a background read of a member came to: its codeword; its reconstruction, whose peers are to be read; nothing. -/
inductive Back where
  | got (image : Image)
  | peers
  | lost
  deriving DecidableEq, Repr

/-- A media operation held in a channel engine, in order of arrival; `req` is its requester at the channel issue
port (0 to 4 in the ring order of R29, 5 idle-only); `dropped` is a read under way that nobody waits for any more, `other`
the read of a lock, `check` one of the parity check (R118); a harrow read carries the member it reads and the page that owned
its stripe; `absent` once its burst did not come (R231). -/
structure Mop where
  id : Nat
  chan : Nat
  set : Nat
  row : Nat
  req : Nat
  kind : MopKind
  code : BitVec 6
  issued : Option Stamp
  absent : Bool := false
  deriving DecidableEq, Repr

/-- A fault message (R310). -/
structure Msg where
  source : BitVec 8
  kind : BitVec 6
  severity : BitVec 2
  address : BitVec 40
  aux : BitVec 8
  deriving DecidableEq, Repr

/-- A local first-error set (R318). -/
structure FirstErr where
  address : BitVec 40
  master : BitVec 8
  access : BitVec 4
  kind : BitVec 6
  ts : Stamp
  deriving DecidableEq, Repr

/-- The counting state of one source (R319). -/
structure CntWin where
  openW : Bool := false
  start : Stamp := 0
  count : Nat := 0
  marked : Bool := false
  deriving DecidableEq, Repr

/-- A message accepted by the collector with its stamp and classification. -/
structure Accepted where
  msg : Msg
  stamp : Stamp
  severe : Bool
  deriving DecidableEq, Repr

/-- One histogram of the event recorder (R331). -/
structure Hist where
  b : SMap Nat := []
  mn : Option Int := none
  mx : Option Int := none
  total : Nat := 0
  deriving DecidableEq, Repr

/-- A CXL event record (R328): type, the message in its host view, stamp, severe bit, a count carried, the CXL timestamp,
the transaction type, and the device health information at the time of the event. -/
structure EvRec where
  handle : Nat
  fmt : BitVec 2
  msg : Msg
  dpa : SecAddr
  stamp : Stamp
  severe : Bool
  suppressed : Nat
  timestamp : BitVec 64
  text : BitVec 8
  trans : BitVec 8 := 0
  health : List (BitVec 8) := []
  deriving DecidableEq, Repr

/-- One CXL event log (R267). -/
structure EvLog where
  recs : List EvRec := []
  overflow : Nat := 0
  first : BitVec 64 := 0
  last : BitVec 64 := 0
  policy : BitVec 2 := 0
  deriving DecidableEq, Repr

/-- One physical slot of the parameter store (R292, R293): its 256 data bytes, the first most significant, the fields of its
header, and the check bits of R170, those of group g (16: the header) in bits 16g + 15 to 16g. -/
structure Slot where
  page : BitVec 32 := 0
  seq : BitVec 64 := 0
  data : BitVec 2048 := 0
  crc : BitVec 16 := 0
  format : BitVec 8 := 0
  mark : BitVec 8 := 0
  checks : BitVec 272 := 0
  deriving DecidableEq, Repr

/-- One slot of a spread counter: the fields of its group, and its check bits (R301, R170). -/
structure CntSlot where
  value : BitVec 48 := 0
  seq : BitVec 32 := 0
  number : BitVec 8 := 0
  zero : BitVec 8 := 0
  crc : BitVec 16 := 0
  format : BitVec 8 := 0
  mark : BitVec 8 := 0
  check : BitVec 16 := 0
  deriving DecidableEq, Repr

/-- A record of a mapping-journal change stripe (R107, R144): page change or media record. -/
inductive ChgRec where
  | entry (no : Nat) (page : Page) (value : BitVec 64)
  | media (no : Nat) (stripe : Stripe) (kind : BitVec 2) (chan : BitVec 5)
  deriving DecidableEq, Repr

/-- A sector record of a drain (R107 type 3). -/
structure DrainSector where
  addr : SecAddr
  poison : Bool
  slot : BitVec 6
  data : Sector
  deriving DecidableEq, Repr

/-- The records of a journal stripe, by type (R107). -/
inductive JBody where
  | change (recs : List ChgRec)
  | checkpoint (first : Nat) (entries : List (BitVec 64))
  | sectors (drain : Nat) (recs : List DrainSector)
  | intents (drain : Nat) (stripes : List Stripe)
  | sealRec (drain : Nat) (stripes : Nat) (durationUs : Nat) (cause : Nat)
  | replayed (drain : Nat)
  deriving DecidableEq, Repr

/-- A journal stripe (R106): sequence number, place in the journal range (R44), body, verified. -/
structure JStripe where
  seq : Nat
  loc : Nat
  body : JBody
  ok : Bool
  deriving DecidableEq, Repr

/-- A line of the mapping cache (R50): its entry, and the changes whose copy writes are outstanding, oldest first, each with
its number and value; `ackA` and `ackB` are the acknowledgements of the oldest one's two writes. -/
structure MapLine where
  page : Nat
  entry : BitVec 64
  ackA : Bool
  ackB : Bool
  chgs : List (Nat × BitVec 64)
  deriving DecidableEq, Repr

/-- Whether a line of the mapping cache is pinned: a change of it is not yet in both copies (R50). -/
def MapLine.pinned (m : MapLine) : Bool := !m.chgs.isEmpty

/-- A stripe removed from a page and waiting under R51. -/
structure Waiting where
  stripe : Stripe
  since : Stamp
  chg : Nat
  retire : Option (BitVec 5)
  deriving DecidableEq, Repr

/-- Background work of R120. -/
inductive WorkKind where
  | rebuild
  | relocate (page : Page)
  | retire (page : Page) (chan : BitVec 5)
  | epoch (page : Page)
  | disturb (page : Page) (seg : Nat)
  | refresh (page : Page)
  | reanchor (page : Page)
  | till (page : Page) (hot : Bool)
  | firstMap (page : Page)
  | mergeHeld
  | parityCheck
  | metadata (stripe : Stripe)
  | poisonLost (page : Page)
  | bitmapWord (word : Nat)
  | stateWord (word : Nat)
  deriving DecidableEq, Repr

/-- A queued piece of background work with its priority (R120); `fails` and `inPlace` are the failed destinations so far
and the form of a rewrite that is tried again (R125). -/
structure Work where
  prio : Nat
  kind : WorkKind
  fails : Nat := 0
  inPlace : Bool := false
  deriving DecidableEq, Repr

/-- A page rewrite in progress (R122, R123, R127) or a first mapping (R47); `parked`: a first mapping that waits for a free
stripe (R125). -/
structure Rewrite where
  page : Page
  src : Stripe
  dst : Stripe
  inPlace : Bool
  first : Bool
  why : WorkKind
  copied : BitVec 16
  dirty : BitVec 16
  pass : Nat
  images : List Image
  verified : Nat
  parityOut : Bool
  fails : Nat
  horizon : BitVec 8
  failChan : BitVec 5
  retireSrc : Bool
  parked : Bool := false
  deriving DecidableEq, Repr

/-- A location of the recurring-correction table (R171). -/
inductive RctLoc where
  | media (stripe : Stripe) (chan : Nat)
  | hbm (pc : Nat) (bank : Nat) (row : Nat)
  | sram (array : Nat) (word : Nat)
  deriving DecidableEq, Repr

/-- An entry of the recurring-correction table (R171); `cols` the columns of an HBM row whose words were corrected (R172). -/
structure Rct where
  loc : RctLoc
  count : Nat
  rewritten : Bool
  last : Stamp
  pending : Bool
  cols : List Nat := []
  deriving DecidableEq, Repr

/-- A row recorded for HBM repair (R215, R216): 0 pending, 1 soft, 2 remapped, 3 not repaired; `hard` once its hard repair
is commanded; `spare` the spare row it is redirected to. -/
structure HbmRow where
  pc : Nat
  bank : Nat
  row : Nat
  how : Nat
  hard : Bool
  spare : Nat
  deriving DecidableEq, Repr

/-- The structures of the HBM beside the mapping table (R198). -/
inductive HStr where
  | wear | state | heat | bitmap | disturb | firmware
  deriving DecidableEq, Repr

/-- The region of HBM that word w of a pseudo-channel lies in (R198, log entry 45). -/
inductive HbmPlace where
  | mapping
  | spareRow
  | struct (s : HStr) (word : Nat)
  deriving DecidableEq, Repr

/-- What an entry of a pseudo-channel queue is for (R203): a host mapping read, a counter update of the host path, an access
of the background engines (2) or of firmware (3), a write of a page's entry in a mirror copy (R50), a refresh command. -/
inductive HbmUse where
  | hostRead (tag : Nat)
  | counter
  | back (requester : Nat)
  | mapWrite (page : Nat) (copyB : Bool)
  | refresh
  deriving DecidableEq, Repr

/-- An access at a pseudo-channel (R202): n entries of one word. `issued` once its command has issued. -/
structure HbmEnt where
  pc : Nat
  bank : Nat
  row : Nat
  col : Nat
  use : HbmUse
  n : Nat
  issued : Bool
  deriving DecidableEq, Repr

/-- The own part of a refresh window (R201): when its command became due, the ns it takes at least until it may issue, and when
it issued. -/
structure RefWin where
  pc : Nat
  bank : Nat
  due : Stamp
  delay : Nat
  issued : Option Stamp
  deriving DecidableEq, Repr

/-- A paced requester (R208): the row whose count reached the threshold, and the last admission. -/
structure Paced where
  pc : Nat
  req : Nat
  bank : Nat
  row : Nat
  last : Option Stamp
  deriving DecidableEq, Repr

/-- A count of an activation table (R206, R208). -/
structure Act where
  pc : Nat
  bank : Nat
  row : Nat
  count : Nat
  deriving DecidableEq, Repr

/-- A reservation of the DQ calendar (R229): first unit, unit after the last, in units of 1/48 ns; and whether the SW64
drives it. -/
structure DqSlot where
  start : Nat
  stop : Nat
  write : Bool
  deriving DecidableEq, Repr

/-- One media channel (R240) with its packages. `present` marks the positions found, `used` those the device uses (R4);
`cal` is the DQ calendar (R229), `passed` the requesters passed over at the issue port, in order; `recover` the sets whose
partition is recovering from an overrun (R75); `tmpOver` the flags of each package's last TMP response (R238); `ck`
whether CK runs (R236); `eye` the write delays of the lanes by 16 × warp + lane, `rdl` the tracked read delays by
package (R235). -/
structure Chan where
  isolated : Bool := false
  trained : Bool := false
  present : BitVec 4 := 0
  used : BitVec 4 := 0
  pkgIso : BitVec 4 := 0
  stuck : Bool := false
  attempts : Nat := 0
  rl : List Nat := [0, 0, 0, 0]
  trd : List Nat := [0, 0, 0, 0]
  mode4 : List Nat := [0, 0, 0, 0]
  mode5 : List Nat := [0, 0, 0, 0]
  rdCrc : Nat := 0
  wrCrc : Nat := 0
  alerts : Nat := 0
  caParity : Nat := 0
  overruns : Nat := 0
  absent : Nat := 0
  lastWin : Nat := 4
  passed : List Nat := []
  cal : List DqSlot := []
  recover : List Nat := []
  tmpOver : List (BitVec 2) := [0, 0, 0, 0]
  ck : Bool := false
  standby : Bool := false
  alertLow : Bool := false
  stsRound : Nat := 0
  tick : Stamp := 0
  tmpFails : List Nat := [0, 0, 0, 0]
  eye : SMap (BitVec 6) := []
  rdl : List (BitVec 96) := [0, 0, 0, 0]
  deriving DecidableEq, Repr

/-- The bad-packet record's entry of a queue (R276). -/
structure BadPkt where
  status : Nat
  opcode : BitVec 16
  tag : BitVec 16
  quiet : Bool
  words : Nat
  deriving DecidableEq, Repr

/-- One command queue (R270, R289). Pointers are 11 bits. -/
structure Queue where
  wwp : BitVec 11 := 0
  mark : BitVec 11 := 0
  cwp : BitVec 11 := 0
  crp : BitVec 11 := 0
  sram : SMap (BitVec 64) := []
  isOpen : Bool := false
  header : BitVec 64 := 0
  have_ : Nat := 0
  overrun : Bool := false
  lastBad : Nat := 0
  dropped : Nat := 0
  bad : List BadPkt := []
  tail : Nat := 0
  phase : Bool := true
  deriving DecidableEq, Repr

/-- A command taken up by MP_1 (R279, R287). `queue` is none for the mailbox. -/
structure Cmd where
  queue : Option Nat
  opcode : BitVec 16
  tag : BitVec 16
  quiet : Bool
  params : List (BitVec 64)
  deriving DecidableEq, Repr

/-- An HDM decoder (R258, R259); `start` is where its DPA range starts, fixed at its commit. -/
structure Decoder where
  base : BitVec 52 := 0
  size : BitVec 52 := 0
  iw : Nat := 1
  ig : Nat := 256
  skip : BitVec 52 := 0
  start : Nat := 0
  lock : Bool := false
  committed : Bool := false
  err : Bool := false
  deriving DecidableEq, Repr

/-- A sensor (R364, R373). -/
structure Sensor where
  seen : Bool := false
  value : BitVec 16 := 0
  high : BitVec 16 := 0
  broken : Bool := false
  run : Nat := 0
  refs : List (Nat × BitVec 16) := []
  disagree : Nat := 0
  proxyOfs : Option (BitVec 16) := none
  deriving DecidableEq, Repr

/-- A thermal zone (R365). -/
structure Zone where
  valid : Bool := false
  proxy : Bool := false
  value : BitVec 16 := 0
  deriving DecidableEq, Repr

/-- The record of page 16 and its companions (R385). -/
structure SecRec where
  userSet : Bool := false
  masterSet : Bool := false
  eraseInProgress : Bool := false
  eraseCommitted : Bool := false
  eraseKind : BitVec 2 := 0
  cursor : Nat := 0
  userSalt : BitVec 128 := 0
  userVer : BitVec 256 := 0
  masterSalt : BitVec 128 := 0
  masterVer : BitVec 256 := 0
  wrapped : Option (BitVec 320) := none
  wrapUser : Bool := false
  placeWrapped : Option (BitVec 320) := none
  placeGen : Nat := 0
  bind : List (BitVec 6) := [0, 1, 2, 3]
  dbgReturned : Bool := false
  deriving DecidableEq, Repr

/-- A write of pages of the parameter store in progress on the media (R295, R296): the pages left, the step of the
first one, who is told at the end: 0 nobody, 1 the command taken up by MP_1, 2 the standard mailbox command, and the
results of that completion; `cut`: nothing after the header programme under way is issued (R297). -/
structure PageWrite where
  pages : List (Nat × BitVec 2048)
  step : Nat
  who : Nat
  rs : List (BitVec 64)
  cut : Bool
  deriving DecidableEq, Repr

/-- The power-down record of page 47 (R361). -/
structure PdRec where
  mode : BitVec 3
  cause : BitVec 8
  faulty : BitVec 12
  auxLost : Bool
  deadline : Bool
  restart : Bool
  attempts : Nat
  deriving DecidableEq, Repr

/-- The device records of pages 32 to 47 (R291); `pdNew`: the power-down record has been written since the last RISE that
completed (R361). -/
structure DevRec where
  population : Option (Nat × List (BitVec 4)) := none
  isoChan : BitVec 17 := 0
  isoPkg : List (BitVec 4) := List.replicate 17 0
  journalHead : Option Nat := none
  cursors : SMap Nat := []
  repairs : List HbmRow := []
  fwSelect : Bool := false
  hostDirty : Bool := false
  powerDown : Option PdRec := none
  pdNew : Bool := false
  deriving DecidableEq, Repr

/-- A tagging sample (R421): eight words. -/
abbrev Sample := List (BitVec 64)

/-- A record of the poison list (R267). -/
structure PoisonRec where
  line : SecAddr
  injected : Bool
  deriving DecidableEq, Repr

/-- A background operation of the mailbox (R266). -/
structure BgOp where
  opcode : BitVec 16
  percent : Nat
  start : LineAddr
  next : LineAddr
  endLine : LineAddr
  deriving DecidableEq, Repr

/-- A core sample held in the ring (R335, R336): the fields read back by RISE and by REC_READ_SAMPLE; `drain`: the number of the drain
that wrote it (R107, R324). -/
structure CoreSample where
  seq : Nat
  words : List (BitVec 64)
  horizon : BitVec 8
  isoChan : BitVec 17
  isoPkg : List (BitVec 4)
  cursors : SMap Nat
  logPending : Nat
  drain : Option Nat
  deriving DecidableEq, Repr

/-- What leaves the block on its pins, links and host-memory writes: the model's own trace of outputs. -/
inductive Out where
  | resp (tag : Nat) (r : Resp)
  | credit (req : Nat) (rwd : Nat)
  | hostWrite (addr : BitVec 64) (words : List (BitVec 64))
  | msix (vector : Nat)
  | mediaCmd (chan : Nat) (warp : Nat) (word : BitVec 40)
  | prgData (chan : Nat) (slots : List (List (BitVec 16)))
  | chanPins (chan : Nat) (parked : Bool)
  | psEn (mask : BitVec 12)
  | thermTrip (low : Bool)
  | avs (mv : Nat)
  | mailbox (ret : Nat) (payload : List (BitVec 64))
  | doe (body : List (BitVec 64))
  | sideband (completion : Nat) (words : List Word)
  | readData (words : List Word)
  | jtag (word : BitVec 64)
  | aer
  | aerLink
  | gpfAck (phase : Nat)
  | doorbellClear
  | mdw (chan : Nat) (warp : Nat) (reg : Nat) (value : BitVec 8)
  deriving DecidableEq, Repr

/-- A posted write the SW64 holds while Bus Master Enable is clear (R246). -/
inductive Held where
  | entry (addr : BitVec 64) (words : List (BitVec 64))
  | message (vector : Nat)
  deriving DecidableEq, Repr

/-- An access-path latch of a register's high word (R431). -/
structure Latch where
  path : Path
  off : Nat
  high : Word
  deriving DecidableEq, Repr

end Sys2Proof.Machine
end

