-- ==== Sys2Proof/Machine/Groups.lean ====
section
/-! DEFINITION. The 16-byte groups of the parameter store and their code (R170): the slots of its pages (R293) and of the
spread counters (R301). A group is 144 bits, byte 0 of its data most significant, its check bits in the 16 lowest. -/

namespace Sys2Proof.Machine

/-- The remainder of a bit string, taken from bit n − 1 down, by a generator without its leading term. -/
def polyRem {w r : Nat} (g : BitVec r) (v : BitVec w) : Nat → BitVec r → BitVec r
  | 0, acc => acc
  | n + 1, acc =>
    let top := acc.msb
    let sh := acc <<< 1
    let fb := Bool.xor top (v.getLsbD n)
    polyRem g v n (if fb then sh ^^^ g else sh)

/-- CRC-16 of R225 over a bit string, most significant bit first. -/
def crc16 {w : Nat} (v : BitVec w) : BitVec 16 := polyRem (0x8BB7 : BitVec 16) v w 0

/-- The parameter-store group code (R170): 16 check bits below the product 0x16F63 of the minimal polynomials of
α and α³ over GF(2⁸). -/
def pstCheck (d : BitVec 128) : BitVec 16 := polyRem (0x6F63 : BitVec 16) d 128 0

/-- The decode of a group (R170): at most two bits are corrected; none where no pattern of at most two bits explains the
syndrome. -/
def pstDecode (e : BitVec 144) : Option (BitVec 144) :=
  let rem := fun (v : BitVec 144) => pstCheck (v.extractLsb' 16 128) ^^^ v.extractLsb' 0 16
  let col := fun (n : Nat) => rem (BitVec.ofNat 144 (2 ^ n))
  let r := rem e
  if r = 0 then some e
  else match (List.range 144).find? fun i => col i = r with
    | some i => some (e ^^^ BitVec.ofNat 144 (2 ^ i))
    | none =>
      let cols := (List.range 144).map fun i => (i, col i)
      (cols.findSome? fun x => (cols.find? fun y => x.1 < y.1 && x.2 ^^^ y.2 = r).map fun y => (x.1, y.1)).map
        fun x => e ^^^ BitVec.ofNat 144 (2 ^ x.1) ^^^ BitVec.ofNat 144 (2 ^ x.2)

/-- The bytes of a page. -/
def pageBytes (v : BitVec 2048) : List (BitVec 8) := (List.range 256).map fun i => v.extractLsb' (2040 - 8 * i) 8

/-- The header bytes of a slot (R293). -/
def headerBytes (s : Slot) : List (BitVec 8) :=
  bytesLe 4 s.page.toNat ++ bytesLe 8 s.seq.toNat ++ bytesLe 2 s.crc.toNat ++ [s.format, s.mark]

/-- A group of a slot as it is stored (R292): 0 to 15 of its data, 16 its header. -/
def slotGroup (s : Slot) (g : Nat) : BitVec 144 :=
  (if g < 16 then s.data.extractLsb' (1920 - 128 * g) 128 else packBytes 128 (headerBytes s)) ++ s.checks.extractLsb' (16 * g) 16

/-- A slot with the fields of a header (R293). -/
def withHeader (l : List (BitVec 8)) (s : Slot) : Slot :=
  let field := fun (at_ n : Nat) => leBytes ((l.drop at_).take n)
  { s with page := BitVec.ofNat 32 (field 0 4), seq := BitVec.ofNat 64 (field 4 8), crc := BitVec.ofNat 16 (field 12 2)
           format := l.getD 14 0, mark := l.getD 15 0 }

/-- The 16 bytes of a group, its check bits left out. -/
def groupBytes (w : BitVec 144) : List (BitVec 8) := (List.range 16).map fun i => w.extractLsb' (136 - 8 * i) 8

/-- A group of a slot takes a value. -/
def putGroup (g : Nat) (w : BitVec 144) (s : Slot) : Slot :=
  let x := w ^^^ slotGroup s g
  let s1 := { s with checks := s.checks ^^^ ((x.extractLsb' 0 16).setWidth 272 <<< (16 * g)) }
  if g < 16 then { s1 with data := s.data ^^^ ((x.extractLsb' 16 128).setWidth 2048 <<< (1920 - 128 * g)) }
  else withHeader (groupBytes w) s1

/-- A slot with valid check bits (R170). -/
def sealSlot (s : Slot) : Slot :=
  { s with checks := (List.range 17).foldl (fun a g =>
      a ||| ((pstCheck ((slotGroup s g).extractLsb' 16 128)).setWidth 272 <<< (16 * g))) 0 }

/-- A slot of the shadow array as it reads, every group decoded; none when one does not decode (R170, R295). -/
def readGroups (s : Slot) : Option Slot :=
  if s = {} || sealSlot s = s then some s
  else (List.range 17).foldl (fun a g => a.bind fun x => (pstDecode (slotGroup s g)).map fun w => putGroup g w x) (some s)

/-- Whether a slot is valid for a page, as it reads (R295). -/
def slotValid (page : Nat) (s : Slot) : Bool := s.mark = 0x5A && s.page.toNat = page && s.crc = crc16 s.data

/-- Whether a slot's header is zero: it has never been written (R295). -/
def slotBlank (s : Slot) : Bool := s.mark = 0 && s.seq = 0 && s.page = 0 && s.crc = 0 && s.format = 0

/-- A counter slot's bytes 0 to 11, over which its CRC-16 runs (R301). -/
def countBody (s : CntSlot) : List (BitVec 8) := bytesLe 6 s.value.toNat ++ bytesLe 4 s.seq.toNat ++ [s.number, s.zero]

/-- The CRC-16 of a counter slot (R301). -/
def countCrc (s : CntSlot) : BitVec 16 := crc16 (packBytes 96 (countBody s))

/-- A counter slot's data bits (R301). -/
def countData (s : CntSlot) : BitVec 128 := packBytes 128 (countBody s ++ bytesLe 2 s.crc.toNat ++ [s.format, s.mark])

/-- The group of a counter slot as it is stored (R301). -/
def countGroup (s : CntSlot) : BitVec 144 := countData s ++ s.check

/-- The counter slot of a group (R301). -/
def countOf (w : BitVec 144) : CntSlot :=
  let l := groupBytes w
  let field := fun (at_ n : Nat) => leBytes ((l.drop at_).take n)
  { value := BitVec.ofNat 48 (field 0 6), seq := BitVec.ofNat 32 (field 6 4), number := l.getD 10 0, zero := l.getD 11 0
    crc := BitVec.ofNat 16 (field 12 2), format := l.getD 14 0, mark := l.getD 15 0, check := w.extractLsb' 0 16 }

/-- The slot that a write of counter n makes (R301, R302). -/
def countSlot (n v q : Nat) : CntSlot :=
  let s : CntSlot := { value := BitVec.ofNat 48 v, seq := BitVec.ofNat 32 q, number := BitVec.ofNat 8 n, format := 0x02, mark := 0x5A }
  let s1 := { s with crc := countCrc s }
  { s1 with check := pstCheck (countData s1) }

/-- A counter slot as it reads; none when its group does not decode (R303). -/
def readCount (s : CntSlot) : Option CntSlot :=
  if s = {} then some s
  else if pstCheck (countData s) = s.check then some s
  else (pstDecode (countGroup s)).map countOf

/-- Whether a slot is valid for counter n, as it reads (R303). -/
def countValid (n : Nat) (s : CntSlot) : Bool := s.mark = 0x5A && s.number.toNat = n && s.crc = countCrc s

end Sys2Proof.Machine
end

