-- ==== Sys2Proof/Machine/State.lean ====
section
/-! DEFINITION. The state of the SW64 block, held as plain data, block by block, and its value when VDD_AUX has
just been applied. `ctl` holds the control fields no datapath command may change, `dp` everything else, `pending`
the queue of commands. Every field's rule and reset value are listed in INVENTORY.md. -/

namespace Sys2Proof.Machine

/-- Reasons a step stops with a fault. No command of the SW64 raises one: the spec gives every command an effect. -/
inductive Fault where
  /-- Raised by no command. Safe: it removes no behaviour. -/
  | none_
  deriving DecidableEq, Repr

/-- Reasons a step is refused. -/
inductive Refusal where
  /-- Raised only by an arm of `exec` whose meaning is not written. Safe: nothing can be proved of what follows. -/
  | notModelled (mnemonic : String)
  deriving DecidableEq, Repr

/-- Control state: the register file of software-loaded fields, the configuration lock (R10, R437), the RETURNED
fuse (R399) and the spread counters (R301). `cr` is keyed by control-BAR offset, PMU registers at 0x200_0000 plus
their PMU offset; an unlisted register holds its reset value. `cnt` is keyed by counter × 64 + slot. -/
structure Ctl where
  cr : SMap Word
  cfgLocked : Bool
  writesOpen : Bool
  returnedFuse : Bool
  cnt : SMap CntSlot
  cntDamaged : Word
  deriving DecidableEq, Repr

/-- GLB window (R2, R429) and the straps (R454). -/
structure Glb where
  config : Nat
  riseStep : Nat
  accTimeout : Nat
  accSize : Nat
  accHeld : Nat
  accReserved : Nat
  straps : BitVec 4
  deriving DecidableEq, Repr

/-- The supervisor island (R341 to R363): mode, rails, latches, inputs, power-down record in the making, and mode
control's requests. `aux` is VDD_AUX present; `enabled` has a bit for each rail whose power-good window has ended
(R345), `abortRow` counts aborted power-ups in a row; `startCause` is the cause the next RISE will carry (R341). `dormReq` holds the cause of a DORMANT request that
waits (R352); `entering`, `waking` and `warm` mark transitions in progress, `fallowing` a FALLOW exit that waits for
0.70 V (R355); `drainAfterWake` a DRAIN trigger in DORMANT (R354). `downActive` is the power-down sequence, `downMode`
the mode it began in. `isoDrain` is a DRAIN request that the isolation cells hold, `isoRails` the rails whose POWER_GOOD_LOST they hold (R18). `mrLow`: MR_N is low (R349). `endAt` is when DRAIN, or
the power-down sequence without one, last began (R359). `exitCause` is the cause that ends DORMANT (R341). `clock` is the supervisor's own time in ns, which runs whenever VDD_AUX is present (R14). -/
structure Sup where
  mode : Mode
  cause : BitVec 8
  aux : Bool
  restart : Bool
  startCause : BitVec 8
  psEn : BitVec 12
  pg : BitVec 12
  enabled : BitVec 12
  railsUp : Bool
  upActive : Bool
  downActive : Bool
  downMode : Mode
  downCause : BitVec 8
  faulty : BitVec 12
  deadline : Bool
  recordDue : Bool
  isoReleased : Bool
  isoDrain : Option (BitVec 8)
  isoRails : BitVec 12
  mrLow : Bool
  endAt : Stamp
  offLatch : Bool
  thermLatch : Bool
  s31Broken : Bool
  thermEvent : Bool
  thermAuxOnly : Bool
  railLatch : Bool
  perstFell : Bool
  pwrFell : Bool
  pwrFailN : Bool
  pwrHigh : Stamp
  perstN : Bool
  offSince : Stamp
  attempts : Nat
  abortRow : Nat
  btnDead : Bool
  railFaults : Nat
  mrCount : Nat
  btnIgnored : Nat
  pwrFails : Nat
  pdValid : Bool
  pdAux : Bool
  pdDeadline : Bool
  pdCause : BitVec 8
  pdAttempts : Nat
  pdFaulty : BitVec 12
  dormReq : Option (BitVec 8)
  entering : Bool
  waking : Bool
  exitCause : BitVec 8
  back : Mode
  drainAfterWake : Option (BitVec 8)
  warm : Bool
  fallowing : Bool
  drainAt : Stamp
  drainCause : BitVec 3
  drainSeq : Option Nat
  drainStripes : Nat
  refclk : Bool
  thermTripLow : Bool
  clock : Stamp
  deriving DecidableEq, Repr

/-- VDD_CORE control and the speed monitors (R23 to R25). Voltages in mV. -/
structure Fab where
  vread : Nat
  setPoint : Nat
  target : Nat
  cause : BitVec 4
  speed : List (Option (BitVec 16))
  deriving DecidableEq, Repr

/-- Thermal logic (R364 to R380). `lows` holds the levels computed since the last rise of the throttle level,
`trace` the recent values of Tc for the slope of R376, `above` the thresholds now exceeded, one bit per aux code. -/
structure Thm where
  sensors : SMap Sensor
  zones : List Zone
  tc : BitVec 16
  trace : List (Stamp × BitVec 16)
  above : BitVec 8
  vTarget : Nat
  cut : Nat
  lows : List (Stamp × Nat × Nat)
  hold : Option Stamp
  guard : Bool
  mediaAbove : List Nat
  deriving DecidableEq, Repr

/-- Fault collector and message network (R310 to R340). `sticky` and `severe` are the full copies, `stickyHv` and
`severeHv` the second copies of R330; `logQ` the records that MP_3 is to write, with the health information at the time of the
event (R328); `lastIn` the input that the arbiter granted last (R316). -/
structure Flt where
  msgLost : Bool
  netParity : Bool
  withheld : Nat
  received : Nat
  seq : Word
  sticky : SMap Word
  severe : SMap Word
  stickyHv : SMap Word
  severeHv : SMap Word
  wins : SMap CntWin
  fe : SMap (Option FirstErr)
  outq : SMap (List Msg)
  inq : List Msg
  dropped : SMap Nat
  wdog : BitVec 17
  recent : List Accepted
  logQ : List (Accepted × List (BitVec 8))
  poisonQ : List Accepted
  retireQ : List Accepted
  last : List (BitVec 8 × BitVec 6 × Stamp × Nat)
  pendingAtDrain : Option Nat
  lastIn : Nat
  deriving DecidableEq, Repr

/-- Event recorder (R331 to R340). -/
structure Rec where
  seq : Word
  live : SMap Hist
  staging : SMap Hist
  clear : Word
  foldAt : Stamp
  nextSeq : Nat
  ring : SMap (Option CoreSample)
  corrected : Nat
  corrSecond : Nat
  deriving DecidableEq, Repr

/-- Parameter store (R290 to R309): slots of the shadow array and of the extension, working copy, pages changed and
not yet stored, the two record blocks kept as structures, and the digest of the configuration image applied (R397). `mediaBad`:
the bits of the extension's codewords that read wrong, keyed by 2 × slot, one more for a header. `prev`: by page, the records before
its last write and the sequence number of the copy that holds them. `again`: pages whose read needed a correction (R295). The store
of deferred pages: the pages left, the start of the present one, whether PST_COMMIT waits for it. `cntPend`: the counter of a
CNT_INC whose slot is being written, since when, and whether it is to be acknowledged (R302). -/
structure Pst where
  slots : SMap Slot
  work : SMap (BitVec 2048)
  changed : List Nat
  writes : List PageWrite
  sec : SecRec
  dev : DevRec
  cfgState : BitVec 2
  cfgReason : BitVec 6
  cfgBad : BitVec 8
  cfgRecords : BitVec 8
  cfgDigest : BitVec 384
  corrected : Nat
  damagedCount : Nat
  undecodable : List Nat
  mediaBad : SMap Image
  prev : SMap (Option (BitVec 64 × SecRec × DevRec))
  again : List Nat
  storing : List Nat
  storeAt : Stamp
  storeCmd : Bool
  cntPend : Option (Nat × Stamp × Bool)
  deriving DecidableEq, Repr

/-- Host interface (R241 to R269). Credits held by the host `hr`, `hw`; `unreturned` freed entries waiting under
pacing (R370); `gpf` the arrival of a phase 2 of Global Persistent Flush not yet acknowledged (R119); `resps` responses
waiting for an S2M credit. `l1`: L1 initiated in DORMANT; `sub`: in L1.1 (1) or L1.2 (2) (R241, R244). `bars`: the base
addresses, with their type bits (R247). `ras`: the CXL RAS capability (R255). `clkReq` and `peWake`: CLKREQ_N and PE_WAKE_N
asserted (R241). IDE key sets: keyed by stream, direction and set. -/
structure Hif where
  memActive : Bool
  memInfo : Bool
  ideSecure : Bool
  pcieSecure : Bool
  ideFailed : Bool
  flit : BitVec 2
  rate : BitVec 4
  width : BitVec 5
  ltssm : BitVec 3
  downgrades : Nat
  recovery : Nat
  replay : Nat
  hr : Nat
  hw : Nat
  withheld : Bool
  unreturned : Nat
  returned : Nat
  badOpcode : Nat
  drainRej : Nat
  undecoded : Nat
  refused : Nat
  stallMax : Nat
  stallCount : Nat
  drs : Nat
  ndr : Nat
  resps : List (Stamp × Nat × Resp)
  decoders : List Decoder
  busMaster : Bool
  vecMask : BitVec 96
  vecPend : BitVec 96
  msixTable : SMap Word
  heldWrites : List Held
  d3 : Bool
  l1 : Bool
  sub : BitVec 2
  bars : List (BitVec 64)
  ras : Ras
  clkReq : Bool
  peWake : Bool
  ideKeys : SMap (Option (BitVec 256))
  ideActive : BitVec 8
  sessions : Nat
  refusedAt : Option Stamp
  refusedNew : Nat
  gpf : Option Stamp
  tsSet : Option (BitVec 64 × Stamp)
  mediaError : Bool
  deriving DecidableEq, Repr

/-- Ceiling counters (R76 to R79). -/
structure Ceil where
  breach : Nat
  faultReads : Nat
  maxNs : Nat
  lastValid : Bool
  lastNs : Nat
  lastTs : Stamp
  deriving DecidableEq, Repr

/-- The acceptance unit and read path: accepted requests in order, reads in progress, requests held in DORMANT with
their arrival. `lateSince` is that arrival while such a request is handled after the wake (R354), none otherwise. -/
structure Acc where
  nextTag : Nat
  pend : List Pend
  reads : List Read
  held : List (Stamp × HeldReq)
  lateSince : Option Stamp
  deriving DecidableEq, Repr

/-- Line cache, maintenance engine and sequential-store detector (R176 to R193, R85). `flush` is the cleaning of an entry to
DORMANT (R352), `gpfClean` that after a Global Persistent Flush (R119). -/
structure Lc where
  ways : SMap Way
  out : List Nat
  lfsr : List (BitVec 32)
  queue : List Mnt
  cur : Option Mnt
  outcome : BitVec 2
  lines : Nat
  trackers : List Tracker
  flush : Bool
  gpfClean : Bool
  deriving DecidableEq, Repr

/-- Merge buffer, parity-delta buffer, programmes and the shuttle (R87 to R96). `right` is the channel at which a
set's programming right is; `holdEnd` the sets whose holder has finished and waits for the 500 ns of R154. -/
structure Mrg where
  entries : List MEntry
  nextId : Nat
  out : List Nat
  deltas : List Delta
  progs : List Prog
  right : SMap Nat
  holdUntil : SMap Stamp
  deriving DecidableEq, Repr

/-- Mapping journal (R106 to R109, R117). `stripes` is in order of number; `open_` and `full` are the two change-stripe
buffers, `bufNo` the number of the one that `open_` is, `late` the records that wait for room in them; `plan` the stripes of a drain still to be written, once phase B has
logged the change buffers (R111). `counted` is what a RISE not yet complete has classified (R351), `dirtyNo` the value of the
dirty-shutdown counter once it has counted it (R304), `kept` the DRN_LAST that a warm RISE keeps (R116). -/
structure Jrn where
  seq : Nat
  head : Nat
  stripes : List JStripe
  open_ : List ChgRec
  full : List ChgRec
  bufNo : Nat
  late : List ChgRec
  plan : Option (List JBody)
  nextChg : Nat
  ckptNext : Nat
  ckptDone : Nat
  owed : Nat
  media : List (Stripe × BitVec 2 × BitVec 5)
  lastValid : Bool
  lastClean : Bool
  lastCause : BitVec 3
  lastUs : Nat
  lastStripes : Nat
  counted : Option Nat
  dirtyNo : Nat
  kept : Option (Bool × BitVec 3 × Nat × Nat)
  deriving DecidableEq, Repr

/-- Translation: the two mirrors, the mapping cache, lost entries, the allocator (R45 to R54). `failed` holds the
failed members of a stripe, by stripe and channel, beyond the one its state byte names (R144, R152); `stranded` the stripes
that lost entries named (R49); `bitmap` whether the free-stripe bitmap has been rebuilt at this RISE (R52); `unsure` and
`unsureState` the words of the bitmap and of the stripe-state array that are to be recomputed (R168). -/
structure Map where
  copyA : SMap (BitVec 64)
  copyB : SMap (BitVec 64)
  cache : List MapLine
  lost : List Nat
  cursor : BitVec 31
  heldDst : List Nat
  waiting : List Waiting
  state : SMap (BitVec 8)
  failed : List (Nat × Nat)
  stranded : List Nat
  bitmap : Bool
  unsure : List Nat
  unsureState : List Nat
  genKnown : Nat
  deriving DecidableEq, Repr

/-- Media health (R120 to R158). `checkNext` is the stripe the parity check has reached (R118), `lapSaid` whether the present
harrow lap has been reported (R142), `rebNext` the earliest time the rebuild may start its next row (R148), `latePages` the pages reported at 168 hours (R135). -/
structure Mh where
  work : List Work
  rewrites : List Rewrite
  rebActive : Bool
  rebChan : Nat
  rebWarps : BitVec 4
  rebMore : List (Nat × BitVec 4)
  rebNext : Stamp
  cursors : SMap Nat
  unbuilt : Bool
  wear : SMap Nat
  heat : SMap Nat
  disturb : SMap Nat
  overrun : List Nat
  moves : Nat
  moveAt : List Stamp
  segs : Nat
  now : BitVec 8
  reanchor : Bool
  anchorRef : BitVec 6
  boundary : BitVec 8
  gap : Nat
  deadline : Bool
  hrwNext : SMap Nat
  hrwDone : BitVec 17
  lapStart : Stamp
  overLimit : Bool
  lastLap : Nat
  lostLines : List SecAddr
  lostStripes : List Nat
  parityCheck : Bool
  checkNext : Nat
  lapSaid : Bool
  latePages : List Nat
  lapDormant : Nat
  dormantAt : Stamp
  metaUsed : List Nat
  deriving DecidableEq, Repr

/-- Correction counts, the recurring-correction table and the decode counters (R166 to R175). -/
structure Cod where
  rct : List Rct
  evictions : Nat
  rewrites : Nat
  retirements : Nat
  repairs : Nat
  out : List Nat
  persistent : Nat
  volatile : Nat
  deriving DecidableEq, Repr

/-- DRAM subsystem (R194 to R217). `order` is the sampled address order; `slot` the rotation slot of each
pseudo-channel, begun at `slotAt`; `wins` the own parts of refresh windows (R201); `rfm` the requested RFMs, each with the time of its request; `paced` the
paced requesters; `queue` the entries of the pseudo-channel queues and the reads whose data is out, `wait` those at the entry
arbiters, whose last winners `lastWin` holds (R202, R203); `touched` the words being read, in order, whose check
bits come with the next command that gives some (R168). -/
structure Hbm where
  trainFail : Bool
  filled : Bool
  state : BitVec 2
  badChan : BitVec 5
  lanes : Nat
  trainMs : Nat
  order : BitVec 2
  slot : SMap Nat
  hostAct : List Act
  bgAct : List Act
  rfm : List (Nat × Nat × Stamp)
  rfmCount : Nat
  paced : List Paced
  pacedCount : Nat
  slotAt : SMap Stamp
  wins : List RefWin
  queue : List HbmEnt
  wait : List HbmEnt
  lastWin : SMap Nat
  touched : List (HStr × Nat)
  second : Nat
  maxDelay : Nat
  rows : List HbmRow
  layoutKey : BitVec 256
  deriving DecidableEq, Repr

/-- The 64 command queues, MP_1's ring, and the processors (R270 to R289, R30 to R32). `mps`: 0 running, 1 held
(not released), 2 halted by debug, 3 restarting, 4 stopped until the next RISE. `fwSram` holds the words of the firmware
SRAM that debug has written over the image (R402). -/
structure Que where
  q : SMap Queue
  ring : Nat
  cur : Option Cmd
  delayed : Option (Cmd × Nat × List (BitVec 64))
  mboxCmd : BitVec 16
  mboxLen : Nat
  mboxIn : SMap Word
  mboxOut : List (BitVec 64)
  mboxRet : BitVec 16
  mboxBusy : Bool
  mboxIrq : Bool
  bgIrq : Bool
  bg : Option BgOp
  bgStatus : BitVec 64
  mps : List Nat
  beats : List Stamp
  fwSram : SMap (Option (BitVec 64))
  deriving DecidableEq, Repr

/-- CXL event logs, poison list, alerts (R267, R328). -/
structure Logs where
  info : EvLog
  warn : EvLog
  fail : EvLog
  fatal : EvLog
  nextHandle : Nat
  poison : List PoisonRec
  poisonOver : Option (BitVec 64)
  scan : List SecAddr
  alerts : List (BitVec 16)
  alertOn : BitVec 8
  written : Nat
  deriving DecidableEq, Repr

/-- Security and debug (R381 to R409). -/
structure Sec where
  st : SecSt
  userLeft : Nat
  masterLeft : Nat
  mediaKey : Option (BitVec 256)
  userKek : Option (BitVec 256)
  placeKey : Option (BitVec 256)
  bind : List (BitVec 6)
  open_ : Bool
  nonce : Option (BitVec 192 × Stamp)
  authFailAt : Option Stamp
  extest : Bool
  extestRefused : Bool
  denied : Bool
  authFails : Nat
  sessions : Nat
  erase : Bool
  eraseCommitted : Bool
  eraseKind : BitVec 2
  eraseRows : SMap Nat
  running : BitVec 2
  bootKey : BitVec 2
  aFail : Bool
  bFail : Bool
  runImage : Option FwImage
  imgA : Option FwImage
  imgB : Option FwImage
  retStep : Nat
  xfer : Option (Bool × List (BitVec 64))
  heldSectors : List DrainSector
  firstRise : Bool
  deriving DecidableEq, Repr

/-- Performance monitor (R410 to R424). `cnt`, `stag` and `shd` are keyed by unit × 8 + n, and so are `oth`, `othStag` and `othShd`: what
the other channel units have counted of an outcome event that a channel counter selects (R330). -/
structure Pmu where
  userEn : Bool
  time : BitVec 64
  cnt : SMap (BitVec 48)
  stag : SMap Nat
  ovf : SMap (BitVec 8)
  shd : SMap (BitVec 48)
  shdTime : BitVec 64
  shdOvf : SMap (BitVec 8)
  oth : SMap Nat
  othStag : SMap Nat
  othShd : SMap Nat
  snapSeq : BitVec 31
  snapTime : Stamp
  bytes : SMap Nat
  bw : SMap Nat
  bwSeq : Word
  bwWindow : Nat
  chBytes : SMap Nat
  countdown : Nat
  lfsr : BitVec 32
  ring : SMap Sample
  wr : BitVec 8
  rd : BitVec 8
  dropped : Nat
  skipped : Nat
  thrSent : Bool
  deriving DecidableEq, Repr

/-- The datapath: every block but the protected control fields. `free` counts the free values consumed, `latches`
holds the high words latched on each access path (R431). -/
structure Dp where
  now : Stamp
  free : Nat
  glb : Glb
  sup : Sup
  fab : Fab
  thm : Thm
  flt : Flt
  rec_ : Rec
  pst : Pst
  hif : Hif
  ceil : Ceil
  acc : Acc
  lc : Lc
  mrg : Mrg
  jrn : Jrn
  map : Map
  mh : Mh
  cod : Cod
  hbm : Hbm
  chans : List Chan
  mops : List Mop
  nextMop : Nat
  que : Que
  logs : Logs
  sec : Sec
  pmu : Pmu
  latches : List Latch
  out : List Out
  deriving DecidableEq, Repr

/-- The block: control state, datapath, and the commands waiting, first in, first out. -/
structure State where
  ctl : Ctl
  dp : Dp
  pending : List Instr
  deriving DecidableEq, Repr

/-- Control state when VDD_AUX is applied: every register at its reset value (R436), no lock, factory counters
(R301: slot 0 of every counter holds value 0, sequence number 0). -/
def Ctl.reset : Ctl :=
  { cr := [], cfgLocked := false, writesOpen := false, returnedFuse := false,
    cnt := (List.range 32).map fun c => (c * 64, countSlot c 0 0), cntDamaged := 0 }

def Glb.reset : Glb :=
  { config := 0, riseStep := 0, accTimeout := 0, accSize := 0, accHeld := 0, accReserved := 0, straps := 0 }

def Sup.reset : Sup :=
  { mode := .off, cause := 0, aux := true, restart := false, startCause := 0, psEn := 0, pg := 0, enabled := 0, railsUp := false,
    upActive := false, downActive := false, downMode := .off, downCause := 0, faulty := 0, deadline := false,
    recordDue := false, isoReleased := false, isoDrain := none, isoRails := 0, mrLow := false, endAt := 0, offLatch := false, thermLatch := false, s31Broken := false,
    thermEvent := false, thermAuxOnly := false, railLatch := false, perstFell := false, pwrFell := false,
    pwrFailN := false, pwrHigh := 0, perstN := false, offSince := 0, attempts := 0, abortRow := 0,
    btnDead := false, railFaults := 0, mrCount := 0, btnIgnored := 0, pwrFails := 0, pdValid := false,
    pdAux := false, pdDeadline := false, pdCause := 0, pdAttempts := 0, pdFaulty := 0, dormReq := none,
    entering := false, waking := false, exitCause := 0, back := .serve, drainAfterWake := none, warm := false,
    fallowing := false, drainAt := 0, drainCause := 0, drainSeq := none, drainStripes := 0,
    refclk := true, thermTripLow := false,
    clock := 0 }

def Fab.reset : Fab := { vread := 0, setPoint := 800, target := 800, cause := 3, speed := List.replicate 8 none }

def Thm.reset : Thm :=
  { sensors := [], zones := List.replicate 11 {}, tc := 0, trace := [], above := 0, vTarget := 800, cut := 0,
    lows := [], hold := none, guard := false, mediaAbove := [] }

def Flt.reset : Flt :=
  { msgLost := false, netParity := false, withheld := 0, received := 0, seq := 0, sticky := [], severe := [],
    stickyHv := [], severeHv := [], wins := [], fe := [], outq := [], inq := [], dropped := [], wdog := 0, recent := [],
    logQ := [], poisonQ := [], retireQ := [], last := [], pendingAtDrain := none, lastIn := 3 }

def Rec.reset : Rec :=
  { seq := 0, live := [], staging := [], clear := 0, foldAt := 0, nextSeq := 1, ring := [], corrected := 0,
    corrSecond := 0 }

def Pst.reset : Pst :=
  { slots := [], work := [], changed := [], writes := [], sec := {}, dev := {}, cfgState := 0, cfgReason := 0,
    cfgBad := 0xFF, cfgRecords := 0, cfgDigest := 0, corrected := 0, damagedCount := 0, undecodable := [],
    mediaBad := [], prev := [], again := [], storing := [], storeAt := 0, storeCmd := false, cntPend := none }

def Hif.reset : Hif :=
  { memActive := false, memInfo := false, ideSecure := false, pcieSecure := false, ideFailed := false, flit := 0,
    rate := 0, width := 0, ltssm := 0, downgrades := 0, recovery := 0, replay := 0, hr := 0, hw := 0,
    withheld := false, unreturned := 0, returned := 0, badOpcode := 0, drainRej := 0, undecoded := 0, refused := 0,
    stallMax := 0, stallCount := 0, drs := 0, ndr := 0, resps := [], decoders := List.replicate 4 {},
    busMaster := false, vecMask := BitVec.allOnes 96, vecPend := 0, msixTable := [], heldWrites := [], d3 := false,
    l1 := false, sub := 0, bars := [4, 4, 4], ras := {}, clkReq := true, peWake := false, ideKeys := [], ideActive := 0, sessions := 0, refusedAt := none, refusedNew := 0, gpf := none, tsSet := none,
    mediaError := false }

def Ceil.reset : Ceil :=
  { breach := 0, faultReads := 0, maxNs := 0, lastValid := false, lastNs := 0, lastTs := 0 }

def Acc.reset : Acc := { nextTag := 0, pend := [], reads := [], held := [], lateSince := none }

def Lc.reset : Lc :=
  { ways := [], out := [], lfsr := List.replicate 16 1, queue := [], cur := none, outcome := 0, lines := 0,
    trackers := [], flush := false, gpfClean := false }

def Mrg.reset : Mrg :=
  { entries := [], nextId := 0, out := [], deltas := [], progs := [], right := [], holdUntil := [] }

def Jrn.reset : Jrn :=
  { seq := 0, head := 0, stripes := [], open_ := [], full := [], bufNo := 0, late := [], plan := none, nextChg := 1, ckptNext := 0, ckptDone := 0,
    owed := 0, media := [], lastValid := false, lastClean := false, lastCause := 0, lastUs := 0, lastStripes := 0,
    counted := none, dirtyNo := 0, kept := none }

def Map.reset : Map :=
  { copyA := [], copyB := [], cache := [], lost := [], cursor := 0, heldDst := [], waiting := [],
    state := [], failed := [], stranded := [], bitmap := false, unsure := [], unsureState := [], genKnown := 0 }

def Mh.reset : Mh :=
  { work := [], rewrites := [], rebActive := false, rebChan := 0x1F, rebWarps := 0, rebMore := [], rebNext := 0, cursors := [], unbuilt := false,
    wear := [], heat := [], disturb := [], overrun := [], moves := 0, moveAt := [], segs := 0, now := 0,
    reanchor := false, anchorRef := 0, boundary := 0, gap := 0, deadline := false, hrwNext := [], hrwDone := 0,
    lapStart := 0, overLimit := false, lastLap := 0, lostLines := [], lostStripes := [],
    parityCheck := false, checkNext := 0, lapSaid := false, latePages := [], lapDormant := 0,
    dormantAt := 0, metaUsed := [] }

def Cod.reset : Cod :=
  { rct := [], evictions := 0, rewrites := 0, retirements := 0, repairs := 0, out := [0, 0, 0, 0], persistent := 0,
    volatile := 0 }

def Hbm.reset : Hbm :=
  { trainFail := false, filled := false, state := 0, badChan := 0x1F, lanes := 0, trainMs := 0, order := 0,
    slot := [], hostAct := [], bgAct := [], rfm := [], rfmCount := 0, paced := [], pacedCount := 0, slotAt := [],
    wins := [], queue := [], wait := [], lastWin := [], touched := [], second := 0,
    maxDelay := 0, rows := [], layoutKey := 0 }

def Que.reset : Que :=
  { q := [], ring := 0, cur := none, delayed := none, mboxCmd := 0, mboxLen := 0, mboxIn := [], mboxOut := [],
    mboxRet := 0, mboxBusy := false, mboxIrq := false, bgIrq := false, bg := none, bgStatus := 0,
    mps := [1, 1, 1, 1], beats := [0, 0, 0, 0], fwSram := [] }

def Logs.reset : Logs :=
  { info := {}, warn := {}, fail := {}, fatal := {}, nextHandle := 1, poison := [], poisonOver := none, scan := [],
    alerts := List.replicate 5 0, alertOn := 0, written := 0 }

def Sec.reset : Sec :=
  { st := .disabled, userLeft := 5, masterLeft := 5, mediaKey := none, userKek := none, placeKey := none,
    bind := [0, 1, 2, 3], open_ := false, nonce := none, authFailAt := none, extest := false,
    extestRefused := false, denied := false, authFails := 0, sessions := 0, erase := false, eraseCommitted := false,
    eraseKind := 0, eraseRows := [], running := 0, bootKey := 0, aFail := false, bFail := false, runImage := none,
    imgA := none, imgB := none, retStep := 0, xfer := none, heldSectors := [], firstRise := true }

def Pmu.reset : Pmu :=
  { userEn := false, time := 0, cnt := [], stag := [], ovf := [], shd := [], shdTime := 0, shdOvf := [], oth := [], othStag := [], othShd := [],
    snapSeq := 0, snapTime := 0, bytes := [], bw := [], bwSeq := 0, bwWindow := 3, chBytes := [], countdown := 0,
    lfsr := 1, ring := [], wr := 0, rd := 0, dropped := 0, skipped := 0, thrSent := false }

def Dp.reset : Dp :=
  { now := 0, free := 0, glb := Glb.reset, sup := Sup.reset, fab := Fab.reset, thm := Thm.reset, flt := Flt.reset,
    rec_ := Rec.reset, pst := Pst.reset, hif := Hif.reset, ceil := Ceil.reset, acc := Acc.reset, lc := Lc.reset,
    mrg := Mrg.reset, jrn := Jrn.reset, map := Map.reset, mh := Mh.reset, cod := Cod.reset, hbm := Hbm.reset,
    chans := List.replicate 17 {}, mops := [], nextMop := 0, que := Que.reset, logs := Logs.reset,
    sec := Sec.reset, pmu := Pmu.reset, latches := [], out := [] }

/-- The machine right after reset: VDD_AUX just applied to a factory-fresh part, in OFF, no command waiting. -/
def State.reset : State := { ctl := Ctl.reset, dp := Dp.reset, pending := [] }

end Sys2Proof.Machine
end

