-- ==== Sys2Proof/Machine/Geometry.lean ====
section
/-! DEFINITION. Media geometry, address decomposition, roles of rows and the mapping entry (R33 to R47). -/

namespace Sys2Proof.Machine

/-- Number of channels (R33). -/
def nChan : Nat := 17

/-- Host pages of a configuration with n packages per channel (R42). -/
def hostPages (n : Nat) : Nat := 402653184 * n

/-- Host capacity in bytes (R42). -/
def hostBytes (n : Nat) : Nat := hostPages n * 4096

/-- Number of stripe sets (R35). -/
def stripeSets (n : Nat) : Nat := 32 * n

/-- Stripes of the general pool (R42). -/
def generalPool (n : Nat) : Nat := 486539264 * n

/-- Reserve stripes (R42). -/
def reserveStripes (n : Nat) : Nat := 33554432 * n

/-- Headroom stripes (R42). -/
def headroom (n : Nat) : Nat := 83886080 * n

/-- Metadata stripes (R42). -/
def metaStripes (n : Nat) : Nat := 16777216 * n

/-- First metadata index of the mapping journal (R44). -/
def journalBase : Nat := 278528

/-- Journal stripes of a configuration (R44). -/
def journalStripes (n : Nat) : Nat := metaStripes n - journalBase

/-- Page of a line (R36). -/
def linePage (l : LineAddr) : Page := l.extractLsb' 4 31

/-- Data position of a line (R36). -/
def linePos (l : LineAddr) : Nat := (l.extractLsb' 0 4).toNat

/-- Line of a 64-byte address (R36). -/
def secLine (a : SecAddr) : LineAddr := a.extractLsb' 2 35

/-- Sector of a 64-byte address (R36). -/
def secIdx (a : SecAddr) : Nat := (a.extractLsb' 0 2).toNat

/-- The line at data position j of a page (R36). -/
def pageLine (p : Page) (j : Nat) : LineAddr := p ++ BitVec.ofNat 4 j

/-- Sector k of a line as a 64-byte address (R36). -/
def lineSec (l : LineAddr) (k : Nat) : SecAddr := l ++ BitVec.ofNat 2 k

/-- The 64-byte address of a DPA given as a number (R36). -/
def dpaSec (dpa : Nat) : SecAddr := BitVec.ofNat 37 (dpa / 64)

/-- The DPA of a 64-byte address. -/
def secDpa (a : SecAddr) : Nat := a.toNat * 64

/-- Stripe set of a stripe number (R37). -/
def stripeSet (s : Stripe) : Nat := (s.extractLsb' 24 7).toNat

/-- Warp of a stripe number (R37). -/
def stripeWarp (s : Stripe) : Nat := (s.extractLsb' 29 2).toNat

/-- Row of a stripe number (R37). -/
def stripeRow (s : Stripe) : Nat := (s.extractLsb' 0 24).toNat

/-- Stripe number of a set and row (R37, R43). -/
def mkStripe (set row : Nat) : Stripe := BitVec.ofNat 31 (set * 2 ^ 24 + row % 2 ^ 24)

/-- Warp of a stripe set (R35). -/
def setWarp (set : Nat) : Nat := set / 32

/-- Parity channel of a row (R38). -/
def parityChan (row : Nat) : Nat := row % 17

/-- Channel of data position j (R38). -/
def posChan (row j : Nat) : Nat := (j + parityChan row + 1) % 17

/-- Data position held by channel c; 16 stands for the parity codeword (R38). -/
def chanPos (row c : Nat) : Nat := (c + 17 - parityChan row + 16) % 17

/-- Roles of a stripe (R41). -/
inductive Role where
  | reserve | metadata | general
  deriving DecidableEq, Repr

/-- Role of a row (R41). -/
def rowRole (row : Nat) : Role :=
  if row % 16 = 15 then .reserve else if row % 32 = 14 then .metadata else .general

/-- Reserve stripe x among S stripe sets (R43). -/
def reserveStripe (S x : Nat) : Stripe := mkStripe (x % S) (16 * (x / S) + 15)

/-- Metadata stripe m among S stripe sets (R43). -/
def metaStripe (S m : Nat) : Stripe := mkStripe (m % S) (32 * (m / S) + 14)

/-- Metadata index of a metadata stripe (R43). -/
def metaIndex (S : Nat) (s : Stripe) : Nat := stripeSet s + S * (stripeRow s / 32)

/-- Whether the warp of a stripe exists (R37). -/
def stripeExists (n : Nat) (s : Stripe) : Bool := stripeWarp s < n

/-- Valid bit of a mapping entry (R45). -/
def entryValid (e : BitVec 64) : Bool := e.getLsbD 63

/-- Stripe of a mapping entry (R45). -/
def entryStripe (e : BitVec 64) : Stripe := e.extractLsb' 32 31

/-- Base horizon of a mapping entry (R45). -/
def entryBase (e : BitVec 64) : BitVec 8 := e.extractLsb' 24 8

/-- Recent horizon of a mapping entry (R45). -/
def entryRecent (e : BitVec 64) : BitVec 8 := e.extractLsb' 16 8

/-- Recent mask of a mapping entry (R45). -/
def entryMask (e : BitVec 64) : BitVec 16 := e.extractLsb' 0 16

/-- A valid mapping entry (R45). -/
def mkEntry (s : Stripe) (base recent : BitVec 8) (mask : BitVec 16) : BitVec 64 :=
  (1#1 ++ s ++ base ++ recent ++ mask : BitVec 64)

/-- Horizon of data position j (R46). -/
def entryHorizon (e : BitVec 64) (j : Nat) : BitVec 8 :=
  if (entryMask e).getLsbD j then entryRecent e else entryBase e

/-- Age of a codeword in ticks (R46). -/
def ageOf (now h : BitVec 8) : Nat := (now - h).toNat

/-- The two 64-byte halves an address splits into when it is reported: DPA[42:6] (R313). -/
def pageSec (p : Page) : SecAddr := p ++ (0 : BitVec 6)

/-- Set bit n of a vector. -/
def setBit {w : Nat} (v : BitVec w) (n : Nat) : BitVec w := v ||| (BitVec.ofNat w (2 ^ n))

/-- Clear bit n of a vector. -/
def clrBit {w : Nat} (v : BitVec w) (n : Nat) : BitVec w := v &&& ~~~(BitVec.ofNat w (2 ^ n))

/-- Number of bits set. -/
def popCount {w : Nat} (v : BitVec w) : Nat := ((List.range w).filter fun i => v.getLsbD i).length

/-- A Bool as a 1-bit field value. -/
def b2n (b : Bool) : Nat := if b then 1 else 0

end Sys2Proof.Machine
end

