-- ==== Sys2Proof/Machine/Codes.lean ====
section
/-! DEFINITION. The codes of the SW64 (R40, R159 to R170, R225, R306): layout of a codeword, the label, CRC-24 and
BCH of the outer code with its decoder, stripe parity, the HBM symbol code, the parameter-store group code, the
burst CRC-16 and the image CRC-32. An image is the 288 bytes of R159 in codeword order, byte 0 in its most
significant byte: D[0..255], M[0..7], O[0..20], O[21..23]. -/

namespace Sys2Proof.Machine

/-- The 256 data bytes of an image (R159). -/
def imgData (i : Image) : BitVec 2048 := i.extractLsb' 256 2048

/-- The metadata word bytes M[0..7] (R159): slice_0 is in the top 16 bits. -/
def imgMeta (i : Image) : BitVec 64 := i.extractLsb' 192 64

/-- The BCH check bits O[0..20] (R159). -/
def imgBch (i : Image) : BitVec 168 := i.extractLsb' 24 168

/-- The CRC-24 O[21..23] (R159). -/
def imgCrc (i : Image) : BitVec 24 := i.extractLsb' 0 24

/-- Slice k of the metadata (R159, R160). -/
def imgSlice (i : Image) (k : Nat) : BitVec 16 := (imgMeta i).extractLsb' (48 - 16 * k) 16

/-- Poison bit k (R160). -/
def imgPoison (i : Image) (k : Nat) : Bool := (imgSlice i k).getLsbD 15

/-- The 64 ciphertext bytes of sector k (R159). -/
def imgSector (i : Image) (k : Nat) : Sector := (imgData i).extractLsb' (1536 - 512 * k) 512

/-- Sector k as a 72-byte burst carries it (R159): 64 data bytes, the slice, six outer-code bytes. -/
def imgBurst (i : Image) (k : Nat) : BitVec 576 :=
  imgSector i k ++ imgSlice i k ++ ((imgBch i ++ imgCrc i : BitVec 192).extractLsb' (144 - 48 * k) 48)

/-- The ciphertext of a 72-byte sector. -/
def burstData (b : BitVec 576) : Sector := b.extractLsb' 64 512

/-- The metadata slice of a 72-byte sector. -/
def burstSlice (b : BitVec 576) : BitVec 16 := b.extractLsb' 48 16

/-- The label of a codeword, the 15 low bits of each slice (R161): area, position, format and tag. -/
structure Label where
  slot : BitVec 6
  area : BitVec 1
  position : BitVec 4
  format : BitVec 4
  tag : BitVec 31
  deriving DecidableEq, Repr

/-- Label of data position j of host page P under key slot k (R161). -/
def hostLabel (k : BitVec 6) (p : Page) (j : Nat) : Label := ⟨k, 0, BitVec.ofNat 4 j, 1, p⟩

/-- Label of data position j of metadata stripe m (R161). -/
def metaLabel (m j : Nat) : Label := ⟨0, 1, BitVec.ofNat 4 j, 1, BitVec.ofNat 31 m⟩

/-- Label of a parity codeword (R161). -/
def parityLabel : Label := ⟨0, 0, 0, 0, 0⟩

/-- The metadata bytes M[0..7] of a label and four poison bits (R160). -/
def metaWord (l : Label) (poison : BitVec 4) : BitVec 64 :=
  (poison.extractLsb' 0 1 ++ l.slot ++ l.area ++ l.position ++ l.format) ++
  (poison.extractLsb' 1 1 ++ l.tag.extractLsb' 0 15) ++
  (poison.extractLsb' 2 1 ++ l.tag.extractLsb' 15 15) ++
  (poison.extractLsb' 3 1 ++ l.tag.extractLsb' 30 1 ++ (0 : BitVec 14))

/-- The metadata bytes of an image with the poison bits cleared: the 60 label bits (R160). -/
def imgLabelBits (i : Image) : BitVec 64 := imgMeta i &&& 0x7FFF7FFF7FFF7FFF

/-- The four poison bits of an image. -/
def imgPoisons (i : Image) : BitVec 4 :=
  BitVec.ofNat 4 ((List.range 4).foldl (fun a k => a + if imgPoison i k then 2 ^ k else 0) 0)

/-- CRC-24 of R163 over D and M, most significant bit first, initial value 0, no final exclusive-OR. -/
def crc24 (m : BitVec 2112) : BitVec 24 := polyRem (0x864CFB : BitVec 24) m 2112 0

/-- The BCH generator of R163 below its leading term x^168: the least common multiple of the minimal polynomials of
α, α³, …, α²⁷ over GF(2¹²). -/
def bchGen : BitVec 168 := 0x607ae937a4d231523d4546ef8e19619e3344f9c37f

/-- BCH check bits of a message (R163, systematic). -/
def bchCheck (m : BitVec 2136) : BitVec 168 := polyRem bchGen m 2136 0

/-- Seal a codeword: data and metadata with CRC-24 and check bits (R163). -/
def outerEncode (d : BitVec 2048) (m : BitVec 64) : Image :=
  let crc := crc24 (d ++ m)
  d ++ m ++ bchCheck (d ++ m ++ crc) ++ crc

/-- The received word in the order of the BCH coefficients (R163): message D, M, CRC, then the check bits. -/
def toPoly (i : Image) : BitVec 2304 := imgData i ++ imgMeta i ++ imgCrc i ++ imgBch i

/-- The image of a word in the order of the BCH coefficients. -/
def ofPoly (p : BitVec 2304) : Image :=
  p.extractLsb' 192 2112 ++ p.extractLsb' 0 168 ++ p.extractLsb' 168 24

/-- The remainder of a received word by the generator: zero exactly when all 28 syndromes are zero. -/
def bchRemainder (i : Image) : BitVec 168 := bchCheck ((toPoly i).extractLsb' 168 2136) ^^^ imgBch i

/-- Multiply by x in GF(2¹²), polynomial x¹² + x⁶ + x⁴ + x + 1 (R163). -/
def gfX (a : BitVec 12) : BitVec 12 := if a.msb then (a <<< 1) ^^^ 0x053 else a <<< 1

/-- Product in GF(2¹²), over the bits of b from n − 1 down. -/
def gfMulAux (a b : BitVec 12) : Nat → BitVec 12 → BitVec 12
  | 0, acc => acc
  | n + 1, acc => gfMulAux a b n (if b.getLsbD n then gfX acc ^^^ a else gfX acc)

/-- Product in GF(2¹²). -/
def gfMul (a b : BitVec 12) : BitVec 12 := gfMulAux a b 12 0

/-- Power in GF(2¹²) by repeated squaring, 12 bits of exponent. -/
def gfPowAux (a : BitVec 12) (e : Nat) : Nat → BitVec 12 → BitVec 12
  | 0, acc => acc
  | n + 1, acc =>
    let sq := gfMul acc acc
    gfPowAux a e n (if e.testBit n then gfMul sq a else sq)

/-- Power in GF(2¹²); exponents below 4,096. -/
def gfPow (a : BitVec 12) (e : Nat) : BitVec 12 := gfPowAux a e 12 1

/-- Inverse in GF(2¹²): a^4094. -/
def gfInv (a : BitVec 12) : BitVec 12 := gfPow a 4094

/-- The primitive element α. -/
def gfAlpha : BitVec 12 := 2

/-- Evaluate a binary polynomial given by its bits below n at x (Horner). -/
def evalBits {w : Nat} (v : BitVec w) (x : BitVec 12) : Nat → BitVec 12 → BitVec 12
  | 0, acc => acc
  | n + 1, acc =>
    let m := gfMul acc x
    evalBits v x n (if v.getLsbD n then m ^^^ 1 else m)

/-- Syndrome i of a received word, from its remainder by the generator (the generator vanishes at α^i for
1 ≤ i ≤ 28). -/
def syndrome (r : BitVec 168) (i : Nat) : BitVec 12 := evalBits r (gfPow gfAlpha i) 168 0

/-- Evaluate a polynomial, lowest coefficient first. -/
def gfEval : List (BitVec 12) → BitVec 12 → BitVec 12
  | [], _ => 0
  | c :: cs, x => c ^^^ gfMul x (gfEval cs x)

/-- Sum of two polynomials, lowest coefficient first. -/
def gfAdd : List (BitVec 12) → List (BitVec 12) → List (BitVec 12)
  | [], b => b
  | a, [] => a
  | x :: a, y :: b => (x ^^^ y) :: gfAdd a b

/-- The Berlekamp–Massey state: locator, previous locator, its length, gap, last discrepancy. -/
structure BmState where
  c : List (BitVec 12)
  b : List (BitVec 12)
  l : Nat
  m : Nat
  d : BitVec 12
  deriving DecidableEq, Repr

/-- One round of Berlekamp–Massey at syndrome number n (counted from 0). -/
def bmRound (syn : List (BitVec 12)) (st : BmState) (n : Nat) : BmState :=
  let disc := (List.range (st.l + 1)).foldl
    (fun a i => a ^^^ gfMul (st.c.getD i 0) (syn.getD (n - i) 0)) 0
  if disc = 0 then { st with m := st.m + 1 }
  else
    let k := gfMul disc (gfInv st.d)
    let c' := gfAdd st.c (List.replicate st.m 0 ++ st.b.map (gfMul k))
    if 2 * st.l ≤ n then { c := c', b := st.c, l := n + 1 - st.l, m := 1, d := disc }
    else { st with c := c', m := st.m + 1 }

/-- The error locator of 28 syndromes, and its length. -/
def bmLocator (syn : List (BitVec 12)) : BmState :=
  (List.range 28).foldl (bmRound syn) { c := [1], b := [1], l := 0, m := 1, d := 1 }

/-- The coefficients x^e of the shortened length at which the locator has a root α^(−e), e from n − 1 down. -/
def chien (c : List (BitVec 12)) : Nat → List Nat → List Nat
  | 0, acc => acc
  | n + 1, acc => chien c n (if gfEval c (gfPow gfAlpha ((4095 - n) % 4095)) = 0 then n :: acc else acc)

/-- Classes of an outer decode (R164). -/
inductive OutClass where
  | clean
  | corrected (n : Nat)
  | failed
  | misplaced
  deriving DecidableEq, Repr

/-- An outer decode's class and the word it delivers. -/
structure Decoded where
  cls : OutClass
  image : Image
  deriving DecidableEq, Repr

/-- Whether the CRC-24 of an image passes. -/
def crcPasses (i : Image) : Bool := crc24 (i.extractLsb' 192 2112) = imgCrc i

/-- The BCH part of a decode: the corrected word and the number of corrected bits, none when no locator of degree
14 or less has all its roots within the shortened length (R164). -/
def bchDecode (i : Image) : Option (Image × Nat) :=
  let r := bchRemainder i
  if r = 0 then some (i, 0)
  else
    let bm := bmLocator ((List.range 28).map fun k => syndrome r (k + 1))
    let roots := chien bm.c 2304 []
    if bm.l ≤ 14 ∧ roots.length = bm.l then
      some (ofPoly (roots.foldl (fun p e => p ^^^ BitVec.ofNat 2304 (2 ^ e)) (toPoly i)), bm.l)
    else none

/-- Outer decode against an expected label (R164). -/
def outerDecode (i : Image) (want : Label) : Decoded :=
  match bchDecode i with
  | none => ⟨.failed, i⟩
  | some (w, n) =>
    if crcPasses w = false then ⟨.failed, w⟩
    else if imgLabelBits w ≠ metaWord want 0 then ⟨.misplaced, w⟩
    else ⟨if n = 0 then .clean else .corrected n, w⟩

/-- Whether a decode delivers its data: CLEAN or CORRECTED (R164). -/
def OutClass.good : OutClass → Bool
  | .clean => true
  | .corrected _ => true
  | .failed => false
  | .misplaced => false

/-- Exclusive-OR of images: the parity codeword of 16 members, or the member missing from the 16 others (R40). -/
def xorImages (l : List Image) : Image := l.foldl (fun a b => a ^^^ b) 0

/-- Class numbers of COD_OUT_k (R175, registers). -/
def OutClass.num : OutClass → Nat
  | .clean => 0
  | .corrected _ => 1
  | .failed => 2
  | .misplaced => 3

/-- Block b (0 to 15) of a 256-byte line within sector b div 4 (R91). -/
def secBlock (d : Sector) (b : Nat) : BitVec 128 := d.extractLsb' (384 - 128 * (b % 4)) 128

/-- AES-256-XTS of one sector under a slot's keys, with the line address as tweak (R91). -/
def xtsSector (key : BitVec 512) (line : LineAddr) (k : Nat) (d : Sector) : Sector :=
  let e := fun b => xtsBlock key line (BitVec.ofNat 4 (4 * k + b)) (secBlock d b)
  e 0 ++ e 1 ++ e 2 ++ e 3

/-- Decryption of one sector (R91). -/
def xtsSectorInv (key : BitVec 512) (line : LineAddr) (k : Nat) (d : Sector) : Sector :=
  let e := fun b => xtsBlockInv key line (BitVec.ofNat 4 (4 * k + b)) (secBlock d b)
  e 0 ++ e 1 ++ e 2 ++ e 3

/-- Multiply by x in GF(2⁸), polynomial x⁸ + x⁴ + x³ + x² + 1 (R167, R170). -/
def gf8X (a : BitVec 8) : BitVec 8 := if a.msb then (a <<< 1) ^^^ 0x1D else a <<< 1

/-- The address symbol of R167: exclusive-OR of the bytes of pseudo-channel, bank and row, and column. The rule gives no
widths; they are packed as 5, 11, 16 and 16 bits (DESIGN CHOICE, log entry 136). -/
def hbmVas (pc bank row col : Nat) : BitVec 8 :=
  let v : BitVec 48 := BitVec.ofNat 5 pc ++ BitVec.ofNat 11 bank ++ BitVec.ofNat 16 row ++ BitVec.ofNat 16 col
  v.extractLsb' 0 8 ^^^ v.extractLsb' 8 8 ^^^ v.extractLsb' 16 8 ^^^ v.extractLsb' 24 8 ^^^ v.extractLsb' 32 8 ^^^
    v.extractLsb' 40 8

/-- One step of the division by the generator (x + 1)(x + α)(x + α²) of R167, its coefficients of x², x and 1: 7, 14 and 8. -/
def hbmStep (reg : BitVec 8 × BitVec 8 × BitVec 8) (s : BitVec 8) : BitVec 8 × BitVec 8 × BitVec 8 :=
  let fb := s ^^^ reg.1
  let f2 := gf8X fb
  let f4 := gf8X f2
  let f8 := gf8X f4
  (reg.2.1 ^^^ fb ^^^ f2 ^^^ f4, reg.2.2 ^^^ f2 ^^^ f4 ^^^ f8, f8)

/-- The 32 data bytes of an access, byte 0 in the lowest bits. -/
def hbmBytes (d : BitVec 256) : List (BitVec 8) := (List.range 32).map fun k => d.extractLsb' (8 * k) 8

/-- The check symbols S0 to S2 of a 32-byte HBM access (R167): data bytes, format byte S3 = 0, address symbol. -/
def hbmCheck (d : BitVec 256) (vas : BitVec 8) : BitVec 8 × BitVec 8 × BitVec 8 :=
  (hbmBytes d ++ [0, vas]).foldl hbmStep (0, 0, 0)

/-- What the stack holds of an access (R167): the data bytes, then S3, S0, S1 and S2 above them. -/
def hbmEncode (d : BitVec 256) (vas : BitVec 8) : BitVec 288 :=
  let s := hbmCheck d vas
  s.2.2 ++ s.2.1 ++ s.1 ++ (0 : BitVec 8) ++ d

/-- The 37 symbols of an access read back (R167), with the address symbol computed at the read. R167 lists the symbols and gives no order
of coefficients: the model takes the first of the list, data byte 0, as the highest (DESIGN CHOICE, log entry 136). -/
def hbmSymbols (w : BitVec 288) (vas : BitVec 8) : List (BitVec 8) :=
  hbmBytes (w.extractLsb' 0 256) ++
    [w.extractLsb' 256 8, vas, w.extractLsb' 264 8, w.extractLsb' 272 8, w.extractLsb' 280 8]

/-- The value of a list of symbols, highest coefficient first, at α^k. -/
def hbmSyndrome (k : Nat) (l : List (BitVec 8)) : BitVec 8 := l.foldl (fun a s => gf8X^[k] a ^^^ s) 0

/-- The decode of an access (R167): a single wrong symbol is corrected; one located at the address symbol, coefficient 3, is
uncorrectable like every other pattern. -/
def hbmDecode (w : BitVec 288) (vas : BitVec 8) : HbmEcc × BitVec 256 :=
  let l := hbmSymbols w vas
  let e := hbmSyndrome 0 l
  let s1 := hbmSyndrome 1 l
  let s2 := hbmSyndrome 2 l
  let data := w.extractLsb' 0 256
  if e = 0 ∧ s1 = 0 ∧ s2 = 0 then (.good, data)
  else match (List.range 37).find? fun i => e ≠ 0 && gf8X^[i] e = s1 && gf8X^[i] s1 = s2 with
    | some i =>
      if i = 3 then (.uncorrectable, data)
      else (.corrected, if i < 5 then data else data ^^^ (e.setWidth 256 <<< (8 * (36 - i))))
    | none => (.uncorrectable, data)

/-- A read of data that was written with its check symbols, some bits of which read wrong (R167). -/
def hbmRead (d : BitVec 256) (vas : BitVec 8) (err : BitVec 288) : HbmEcc × BitVec 256 :=
  if err = 0 then (.good, d) else hbmDecode (hbmEncode d vas ^^^ err) vas

/-- Beat b of a slot that carries a 72-byte sector, beats 0 to 35 (R224): the byte with the higher offset on DQ[15:8]. -/
def slotBeat (b : BitVec 576) (n : Nat) : BitVec 16 := b.extractLsb' (560 - 16 * n) 8 ++ b.extractLsb' (568 - 16 * n) 8

/-- Beats 0 to 36 of a slot (R224): the sector, then the inner-status code, which is 0 in a write burst. -/
def slotBody (b : BitVec 576) (status : BitVec 3) : List (BitVec 16) :=
  (List.range 36).map (slotBeat b) ++ [status.zeroExtend 16]

/-- CRC-16 over beats, in order, DQ[15] of each first (R225). -/
def beatsCrc (l : List (BitVec 16)) : BitVec 16 := l.foldl (fun a x => polyRem (0x8BB7 : BitVec 16) x 16 a) 0

/-- Beat n of a short slot, beats 0 to 7 (R224): its 16 bytes by pairs, the byte with the higher offset on DQ[15:8]. -/
def shortBeat (b : BitVec 128) (n : Nat) : BitVec 16 := b.extractLsb' (112 - 16 * n) 8 ++ b.extractLsb' (120 - 16 * n) 8

/-- Whether a short slot came and its beats 8 and 9 are right: 0, and the CRC-16 over beats 0 to 8 (R224, R225). -/
def shortOk (x : ShortBurst) : Bool :=
  !x.absent && x.zero = 0 && x.crc = beatsCrc ((List.range 8).map (shortBeat x.bytes) ++ [x.zero])

/-- The CRC-16 of a slot, its beat 37 (R224, R225). -/
def slotCrc (b : BitVec 576) (status : BitVec 3) : BitVec 16 := beatsCrc (slotBody b status)

/-- The write burst of a codeword (R224): four slots of 38 driven beats, sector 0 first. -/
def writeBurst (i : Image) : List (List (BitVec 16)) :=
  (List.range 4).map fun k => slotBody (imgBurst i k) 0 ++ [slotCrc (imgBurst i k) 0]

/-- How many of the four slots of a codeword read fail their CRC-16 (R224, R225). -/
def badSlots (b : Burst) : Nat :=
  ((List.range 4).filter fun k =>
    slotCrc (imgBurst b.image k) (b.inner.extractLsb' (3 * k) 3) ≠ b.crc.extractLsb' (16 * k) 16).length

/-- One byte of the bit-reflected CRC-32 of R306, bits from the lowest. -/
def crc32Byte (c : BitVec 32) (b : BitVec 8) : BitVec 32 :=
  (List.range 8).foldl
    (fun a _ => if a.getLsbD 0 then (a >>> 1) ^^^ 0xEDB88320 else a >>> 1) (c ^^^ b.zeroExtend 32)

/-- CRC-32 of R306: generator 0x04C11DB7 reflected, initial value and final exclusive-OR all ones. -/
def crc32 (bytes : List (BitVec 8)) : BitVec 32 := ~~~(bytes.foldl crc32Byte 0xFFFFFFFF)

end Sys2Proof.Machine
end

