-- ==== Sys2Proof/Machine/Regs.lean ====
section
/-! DEFINITION. The register index (R427, R410, R424): every register of the 14 windows and of the PMU BAR with its
offset, instances, words and fields, as the register tables of the spec give them. PMU registers stand at
0x200_0000 plus their PMU offset, above the 32 MiB control BAR. -/

namespace Sys2Proof.Machine

/-- Access codes of R9. -/
inductive AccCode where
  | ro | rw | w1c | w1s | rc | wo | rwl
  deriving DecidableEq, Repr

/-- A field: bits, access code, reset value. -/
structure Fld where
  msb : Nat
  lsb : Nat
  acc : AccCode
  rst : Nat
  deriving DecidableEq, Repr

/-- The registers. -/
inductive RegName where
  /-- GLB_ID (R2). -/
  | glbId
  /-- GLB_STATUS (R429). -/
  | glbStatus
  /-- GLB_DSN (R429). -/
  | glbDsn
  /-- GLB_ACC_ERR (R429). -/
  | glbAccErr
  /-- GLB_SCRATCH_i (R429). -/
  | glbScratch
  /-- SUP_STAT (R363). -/
  | supStat
  /-- SUP_CTL (R363). -/
  | supCtl
  /-- SUP_PDREC (R363). -/
  | supPdrec
  /-- SUP_EVT (R363). -/
  | supEvt
  /-- SUP_RAIL_i (R363). -/
  | supRail
  /-- THM_CTL (R380). -/
  | thmCtl
  /-- THM_STAT (R380). -/
  | thmStat
  /-- THM_ZONE_z (R380). -/
  | thmZone
  /-- THM_SENS_BAD_i (R380). -/
  | thmSensBad
  /-- THM_BOARD (R380). -/
  | thmBoard
  /-- FLT_STAT (R339). -/
  | fltStat
  /-- FLT_RECEIVED (R339). -/
  | fltReceived
  /-- FLT_RECENT_SEQ (R339). -/
  | fltRecentSeq
  /-- FLT_STICKY_i (R339). -/
  | fltSticky
  /-- FLT_SEVERE_i (R339). -/
  | fltSevere
  /-- FLT_REACT_c (R339). -/
  | fltReact
  /-- FLT_CNT_CFG_s (R339). -/
  | fltCntCfg
  /-- FLT_FE_SEL (R339). -/
  | fltFeSel
  /-- FLT_FE_ADDR (R339). -/
  | fltFeAddr
  /-- FLT_FE_INFO (R339). -/
  | fltFeInfo
  /-- FLT_FE_TS (R339). -/
  | fltFeTs
  /-- FLT_WDOG (R339). -/
  | fltWdog
  /-- FLT_RECENT_i (R339). -/
  | fltRecent
  /-- REC_CTL (R340). -/
  | recCtl
  /-- REC_SEQ (R340). -/
  | recSeq
  /-- REC_CLEAR (R340). -/
  | recClear
  /-- REC_SAMPLE_STAT (R340). -/
  | recSampleStat
  /-- REC_H_h_BKT_b (R340). -/
  | recBkt
  /-- REC_H_h_EXT (R340). -/
  | recExt
  /-- PST_STAT (R309). -/
  | pstStat
  /-- PST_CFG_STAT (R309). -/
  | pstCfgStat
  /-- PST_ERR (R309). -/
  | pstErr
  /-- PST_CNT_DAMAGED (R309). -/
  | pstCntDamaged
  /-- SEC_STATE (R409). -/
  | secState
  /-- SEC_ERASE (R409). -/
  | secErase
  /-- SEC_BIND (R409). -/
  | secBind
  /-- SEC_BOOT (R409). -/
  | secBoot
  /-- SEC_DBG (R409). -/
  | secDbg
  /-- HIF_LINK_STAT (R269). -/
  | hifLinkStat
  /-- HIF_LINK_EVT (R269). -/
  | hifLinkEvt
  /-- HIF_CREDIT (R269). -/
  | hifCredit
  /-- HIF_MEM_REJECT (R269). -/
  | hifMemReject
  /-- HIF_S2M_STALL (R269). -/
  | hifS2mStall
  /-- CEIL_CTL (R78). -/
  | ceilCtl
  /-- CEIL_BREACH (R78). -/
  | ceilBreach
  /-- CEIL_FAULT_READS (R78). -/
  | ceilFaultReads
  /-- CEIL_MAX (R78). -/
  | ceilMax
  /-- CEIL_LAST (R78). -/
  | ceilLast
  /-- CEIL_LAST_TS (R78). -/
  | ceilLastTs
  /-- FAB_VCORE (R22). -/
  | fabVcore
  /-- FAB_SPEED_k (R22). -/
  | fabSpeed
  /-- LC_GEOM (R193). -/
  | lcGeom
  /-- LC_WAYMASK_c (R193). -/
  | lcWaymask
  /-- LC_LOCK_CTL (R193). -/
  | lcLockCtl
  /-- LC_MNT_STAT (R193). -/
  | lcMntStat
  /-- LC_COUNT_k (R193). -/
  | lcCount
  /-- PD_CTL (R100). -/
  | pdCtl
  /-- PD_OCC (R101). -/
  | pdOcc
  /-- PD_RES (R102). -/
  | pdRes
  /-- DET_CTL (R86). -/
  | detCtl
  /-- MRG_CTL (R90). -/
  | mrgCtl
  /-- MRG_STAT (R193). -/
  | mrgStat
  /-- DRN_CTL (R115). -/
  | drnCtl
  /-- DRN_LAST (R116). -/
  | drnLast
  /-- MAP_GEOM (R55). -/
  | mapGeom
  /-- MAP_PAGES_MAPPED (R55). -/
  | mapPagesMapped
  /-- MAP_FREE_GENERAL (R55). -/
  | mapFreeGeneral
  /-- MAP_PLACE_KEY (R55). -/
  | mapPlaceKey
  /-- MH_CTL (R158). -/
  | mhCtl
  /-- TIL_CTL (R158). -/
  | tilCtl
  /-- TIL_STAT (R158). -/
  | tilStat
  /-- TIL_MOVES (R158). -/
  | tilMoves
  /-- HZN_CTL (R158). -/
  | hznCtl
  /-- HZN_STAT (R158). -/
  | hznStat
  /-- HZN_GAP (R158). -/
  | hznGap
  /-- HZN_PEND (R158). -/
  | hznPend
  /-- HZN_REF_c (R158). -/
  | hznRef
  /-- DST_CTL (R158). -/
  | dstCtl
  /-- DST_STAT (R158). -/
  | dstStat
  /-- HRW_CTL (R158). -/
  | hrwCtl
  /-- HRW_LAP (R158). -/
  | hrwLap
  /-- MH_RETIRED (R158). -/
  | mhRetired
  /-- MH_DEGRADED (R158). -/
  | mhDegraded
  /-- MH_LOST (R158). -/
  | mhLost
  /-- REB_STAT (R158). -/
  | rebStat
  /-- COD_RCT_CTL (R175). -/
  | codRctCtl
  /-- COD_RCT_STAT (R175). -/
  | codRctStat
  /-- COD_RCT_ACT (R175). -/
  | codRctAct
  /-- COD_OUT_k (R175). -/
  | codOut
  /-- HBM_CTL (R217). -/
  | hbmCtl
  /-- HBM_STAT (R217). -/
  | hbmStat
  /-- HBM_ACT_CTL (R217). -/
  | hbmActCtl
  /-- HBM_ACT_STAT (R217). -/
  | hbmActStat
  /-- HBM_RFSH_STAT (R217). -/
  | hbmRfshStat
  /-- HBM_REPAIR (R217). -/
  | hbmRepair
  /-- MC_k_CTL (R240). -/
  | mcCtl
  /-- MC_k_STAT (R240). -/
  | mcStat
  /-- MC_k_RL_w (R240). -/
  | mcRl
  /-- MC_k_LINK (R240). -/
  | mcLink
  /-- MC_k_EVENTS (R240). -/
  | mcEvents
  /-- QUE_k_CTL (R289). -/
  | queCtl
  /-- QUE_k_COUNT (R289). -/
  | queCount
  /-- QUE_k_CRB (R289). -/
  | queCrb
  /-- QUE_k_CRS (R289). -/
  | queCrs
  /-- QUE_k_CRH (R289). -/
  | queCrh
  /-- QUE_k_CRT (R289). -/
  | queCrt
  /-- PMU_CTL (R424). -/
  | pmuCtl
  /-- PMU_TIME (R424). -/
  | pmuTime
  /-- PMU_SNAP_STAT (R424). -/
  | pmuSnapStat
  /-- PMU_SNAP_TIME (R424). -/
  | pmuSnapTime
  /-- PMU_OVF_u (R424). -/
  | pmuOvf
  /-- PMU_EVT_u_n (R424). -/
  | pmuEvt
  /-- PMU_CNT_u_n (R424). -/
  | pmuCnt
  /-- PMU_SHD_u_n (R424). -/
  | pmuShd
  /-- PMU_SHD_TIME (R424). -/
  | pmuShdTime
  /-- PMU_SHD_OVF_u (R424). -/
  | pmuShdOvf
  /-- PMU_BW_CTL (R424). -/
  | pmuBwCtl
  /-- PMU_BW_SEQ (R424). -/
  | pmuBwSeq
  /-- PMU_BW_p (R424). -/
  | pmuBw
  /-- PMU_TAG_CTL (R424). -/
  | pmuTagCtl
  /-- PMU_TAG_IDX (R424). -/
  | pmuTagIdx
  deriving DecidableEq, Repr

/-- A register: its offset from the control BAR base, the stride and count of each index, its words, its fields. -/
structure RegDef where
  name : RegName
  off : Nat
  dims : List (Nat × Nat)
  words : Nat
  flds : List Fld
  deriving DecidableEq, Repr

/-- The GLB window. -/
def regsGlb : List RegDef := [
  ⟨.glbId, 0x0, [], 1, [⟨31, 16, .ro, 0x64⟩, ⟨15, 8, .ro, 0xa1⟩, ⟨7, 4, .ro, 0⟩]⟩,
  ⟨.glbStatus, 0x4, [], 1, [⟨31, 31, .ro, 0⟩, ⟨30, 30, .ro, 0⟩, ⟨23, 20, .ro, 0⟩, ⟨15, 0, .ro, 1⟩]⟩,
  ⟨.glbDsn, 0x8, [], 2, [⟨63, 0, .ro, 0⟩]⟩,
  ⟨.glbAccErr, 0x10, [], 1, [⟨31, 24, .rc, 0⟩, ⟨23, 16, .rc, 0⟩, ⟨15, 8, .rc, 0⟩, ⟨7, 0, .rc, 0⟩]⟩,
  ⟨.glbScratch, 0x40, [(0x4, 4)], 1, [⟨31, 0, .rw, 0⟩]⟩]

/-- The SUP window. -/
def regsSup : List RegDef := [
  ⟨.supStat, 0x10000, [], 1, [⟨31, 29, .ro, 1⟩, ⟨23, 16, .ro, 0⟩, ⟨15, 15, .ro, 0⟩, ⟨11, 0, .ro, 0⟩]⟩,
  ⟨.supCtl, 0x10004, [], 1, [⟨7, 0, .rwl, 0x32⟩]⟩,
  ⟨.supPdrec, 0x10010, [], 1, [⟨31, 31, .ro, 0⟩, ⟨30, 30, .ro, 0⟩, ⟨29, 29, .ro, 0⟩, ⟨23, 16, .ro, 0⟩, ⟨15, 12, .ro, 0⟩, ⟨11, 0, .ro, 0⟩]⟩,
  ⟨.supEvt, 0x10014, [], 1, [⟨31, 24, .ro, 0⟩, ⟨23, 16, .ro, 0⟩, ⟨15, 8, .ro, 0⟩, ⟨7, 0, .ro, 0⟩]⟩,
  ⟨.supRail, 0x10100, [(0x4, 12)], 1, [⟨31, 31, .rwl, 1⟩, ⟨23, 16, .rwl, 8⟩, ⟨15, 8, .rwl, 0⟩, ⟨7, 0, .rwl, 0⟩]⟩]

/-- The THM window. -/
def regsThm : List RegDef := [
  ⟨.thmCtl, 0x20000, [], 1, [⟨15, 12, .rwl, 0xa⟩, ⟨11, 8, .rwl, 2⟩, ⟨6, 0, .rwl, 0xa⟩]⟩,
  ⟨.thmStat, 0x20004, [], 1, [⟨31, 30, .ro, 0⟩, ⟨29, 29, .ro, 0⟩, ⟨28, 28, .ro, 0⟩, ⟨27, 21, .ro, 0⟩, ⟨15, 0, .ro, 0⟩]⟩,
  ⟨.thmZone, 0x20100, [(0x4, 11)], 1, [⟨31, 31, .ro, 0⟩, ⟨30, 30, .ro, 0⟩, ⟨15, 0, .ro, 0⟩]⟩,
  ⟨.thmSensBad, 0x20200, [(0x4, 4)], 1, [⟨31, 0, .ro, 0⟩]⟩,
  ⟨.thmBoard, 0x20300, [], 1, [⟨31, 31, .rwl, 0⟩, ⟨6, 0, .rwl, 0x48⟩]⟩]

/-- The FLT window. -/
def regsFlt : List RegDef := [
  ⟨.fltStat, 0x30000, [], 1, [⟨31, 31, .w1c, 0⟩, ⟨30, 30, .w1c, 0⟩, ⟨23, 16, .ro, 0⟩, ⟨9, 0, .ro, 0⟩]⟩,
  ⟨.fltReceived, 0x30004, [], 1, [⟨31, 0, .ro, 0⟩]⟩,
  ⟨.fltRecentSeq, 0x30008, [], 1, [⟨31, 0, .ro, 0⟩]⟩,
  ⟨.fltSticky, 0x30100, [(0x4, 8)], 1, [⟨31, 0, .w1c, 0⟩]⟩,
  ⟨.fltSevere, 0x30120, [(0x4, 8)], 1, [⟨31, 0, .w1c, 0⟩]⟩,
  ⟨.fltReact, 0x30200, [(0x4, 16)], 1, [⟨22, 16, .rw, 0⟩, ⟨6, 0, .rw, 0⟩]⟩,
  ⟨.fltCntCfg, 0x30400, [(0x4, 256)], 1, [⟨31, 16, .rw, 0⟩, ⟨4, 0, .rw, 0⟩]⟩,
  ⟨.fltFeSel, 0x30800, [], 1, [⟨8, 8, .wo, 0⟩, ⟨7, 0, .rw, 0⟩]⟩,
  ⟨.fltFeAddr, 0x30808, [], 2, [⟨39, 0, .ro, 0⟩]⟩,
  ⟨.fltFeInfo, 0x30810, [], 1, [⟨31, 31, .ro, 0⟩, ⟨25, 20, .ro, 0⟩, ⟨19, 16, .ro, 0⟩, ⟨15, 8, .ro, 0⟩]⟩,
  ⟨.fltFeTs, 0x30818, [], 2, [⟨63, 0, .ro, 0⟩]⟩,
  ⟨.fltWdog, 0x30900, [], 1, [⟨16, 0, .ro, 0⟩]⟩,
  ⟨.fltRecent, 0x31000, [(0x10, 64)], 4, [⟨127, 127, .ro, 0⟩, ⟨126, 64, .ro, 0⟩, ⟨63, 0, .ro, 0⟩]⟩]

/-- The REC window. -/
def regsRec : List RegDef := [
  ⟨.recCtl, 0x40000, [], 1, [⟨31, 24, .rw, 0xa⟩, ⟨23, 16, .rw, 0xa⟩]⟩,
  ⟨.recSeq, 0x40004, [], 1, [⟨31, 0, .ro, 0⟩]⟩,
  ⟨.recClear, 0x40008, [], 1, [⟨31, 0, .wo, 0⟩]⟩,
  ⟨.recSampleStat, 0x40010, [], 1, [⟨31, 31, .ro, 0⟩, ⟨20, 16, .ro, 0⟩, ⟨15, 0, .ro, 0⟩]⟩,
  ⟨.recBkt, 0x41000, [(0x200, 32), (0x8, 32)], 2, [⟨63, 0, .ro, 0⟩]⟩,
  ⟨.recExt, 0x41100, [(0x200, 32)], 4, [⟨127, 64, .ro, 0⟩, ⟨63, 32, .ro, 0⟩, ⟨31, 0, .ro, 0xffffffff⟩]⟩]

/-- The PST window. -/
def regsPst : List RegDef := [
  ⟨.pstStat, 0x50000, [], 1, [⟨31, 31, .ro, 0⟩, ⟨30, 30, .ro, 0⟩, ⟨26, 17, .ro, 0⟩, ⟨16, 0, .ro, 0⟩]⟩,
  ⟨.pstCfgStat, 0x50004, [], 1, [⟨31, 30, .ro, 0⟩, ⟨29, 24, .ro, 0⟩, ⟨23, 16, .ro, 0xff⟩, ⟨7, 0, .ro, 0⟩]⟩,
  ⟨.pstErr, 0x50008, [], 1, [⟨31, 16, .ro, 0⟩, ⟨15, 8, .ro, 0⟩]⟩,
  ⟨.pstCntDamaged, 0x5000c, [], 1, [⟨31, 0, .w1c, 0⟩]⟩]

/-- The SEC window. -/
def regsSec : List RegDef := [
  ⟨.secState, 0x60000, [], 1, [⟨31, 31, .ro, 0⟩, ⟨23, 16, .ro, 5⟩, ⟨15, 8, .ro, 5⟩, ⟨7, 7, .ro, 0⟩, ⟨6, 6, .ro, 0⟩, ⟨5, 4, .ro, 0⟩, ⟨2, 0, .ro, 0⟩]⟩,
  ⟨.secErase, 0x60004, [], 1, [⟨31, 31, .ro, 0⟩, ⟨30, 30, .ro, 0⟩, ⟨29, 28, .ro, 0⟩, ⟨9, 0, .ro, 0⟩]⟩,
  ⟨.secBind, 0x60008, [], 1, [⟨29, 24, .ro, 3⟩, ⟨21, 16, .ro, 2⟩, ⟨13, 8, .ro, 1⟩, ⟨5, 0, .ro, 0⟩]⟩,
  ⟨.secBoot, 0x60010, [], 1, [⟨19, 16, .ro, 0⟩, ⟨9, 8, .ro, 0⟩, ⟨5, 5, .ro, 0⟩, ⟨4, 4, .ro, 0⟩, ⟨3, 2, .ro, 0⟩, ⟨1, 0, .ro, 0⟩]⟩,
  ⟨.secDbg, 0x60020, [], 1, [⟨31, 31, .ro, 0⟩, ⟨30, 30, .ro, 0⟩, ⟨29, 29, .ro, 0⟩, ⟨28, 28, .ro, 0⟩, ⟨27, 27, .ro, 0⟩, ⟨15, 8, .ro, 0⟩, ⟨7, 0, .ro, 0⟩]⟩]

/-- The HIF window. -/
def regsHif : List RegDef := [
  ⟨.hifLinkStat, 0x80000, [], 1, [⟨31, 31, .ro, 0⟩, ⟨30, 30, .ro, 0⟩, ⟨29, 28, .ro, 0⟩, ⟨27, 24, .ro, 0⟩, ⟨20, 16, .ro, 0⟩, ⟨2, 0, .ro, 0⟩]⟩,
  ⟨.hifLinkEvt, 0x80004, [], 1, [⟨31, 24, .ro, 0⟩, ⟨23, 12, .ro, 0⟩, ⟨11, 0, .ro, 0⟩]⟩,
  ⟨.hifCredit, 0x80100, [], 1, [⟨31, 31, .ro, 0⟩, ⟨30, 30, .ro, 0⟩, ⟨29, 20, .ro, 0⟩, ⟨19, 10, .ro, 0⟩, ⟨9, 0, .ro, 0⟩]⟩,
  ⟨.hifMemReject, 0x80200, [], 1, [⟨31, 24, .rc, 0⟩, ⟨23, 16, .rc, 0⟩, ⟨15, 8, .rc, 0⟩, ⟨7, 0, .rc, 0⟩]⟩,
  ⟨.hifS2mStall, 0x80208, [], 1, [⟨31, 16, .ro, 0⟩, ⟨15, 0, .ro, 0⟩]⟩,
  ⟨.ceilCtl, 0x80e00, [], 1, [⟨0, 0, .wo, 0⟩]⟩,
  ⟨.ceilBreach, 0x80e04, [], 1, [⟨31, 0, .ro, 0⟩]⟩,
  ⟨.ceilFaultReads, 0x80e08, [], 1, [⟨31, 0, .ro, 0⟩]⟩,
  ⟨.ceilMax, 0x80e0c, [], 1, [⟨15, 0, .ro, 0⟩]⟩,
  ⟨.ceilLast, 0x80e10, [], 1, [⟨31, 31, .ro, 0⟩, ⟨15, 0, .ro, 0⟩]⟩,
  ⟨.ceilLastTs, 0x80e18, [], 2, [⟨63, 32, .ro, 0⟩, ⟨31, 0, .ro, 0⟩]⟩]

/-- The FAB window. -/
def regsFab : List RegDef := [
  ⟨.fabVcore, 0xa0000, [], 1, [⟨29, 20, .ro, 0⟩, ⟨19, 16, .ro, 3⟩, ⟨9, 0, .rwl, 0x320⟩]⟩,
  ⟨.fabSpeed, 0xa0100, [(0x4, 8)], 1, [⟨31, 31, .ro, 0⟩, ⟨15, 0, .ro, 0⟩]⟩]

/-- The CCH window. -/
def regsCch : List RegDef := [
  ⟨.lcGeom, 0xc0000, [], 1, [⟨28, 24, .ro, 0x10⟩, ⟨20, 16, .ro, 0x10⟩, ⟨15, 0, .ro, 0x2800⟩]⟩,
  ⟨.lcWaymask, 0xc0010, [(0x4, 6)], 1, [⟨15, 0, .rw, 0⟩]⟩,
  ⟨.lcLockCtl, 0xc0030, [], 1, [⟨3, 0, .rwl, 0xc⟩]⟩,
  ⟨.lcMntStat, 0xc0100, [], 1, [⟨31, 31, .ro, 0⟩, ⟨30, 26, .ro, 0⟩, ⟨25, 24, .ro, 0⟩, ⟨23, 0, .ro, 0⟩]⟩,
  ⟨.lcCount, 0xc0200, [(0x4, 4)], 1, [⟨17, 0, .ro, 0⟩]⟩,
  ⟨.pdCtl, 0xc0800, [], 1, [⟨23, 16, .rw, 0x32⟩, ⟨15, 8, .rw, 0xa⟩, ⟨5, 0, .rwl, 0x18⟩]⟩,
  ⟨.pdOcc, 0xc0804, [], 1, [⟨31, 31, .ro, 0⟩, ⟨30, 30, .ro, 0⟩, ⟨29, 29, .ro, 0⟩, ⟨19, 0, .ro, 0⟩]⟩,
  ⟨.pdRes, 0xc0808, [], 1, [⟨28, 16, .ro, 0⟩, ⟨11, 0, .ro, 0xc00⟩]⟩,
  ⟨.detCtl, 0xc0810, [], 1, [⟨20, 16, .ro, 0x10⟩, ⟨13, 8, .rw, 8⟩, ⟨0, 0, .rw, 1⟩]⟩,
  ⟨.mrgCtl, 0xc0820, [], 1, [⟨13, 8, .rw, 4⟩, ⟨6, 0, .rw, 0x10⟩]⟩,
  ⟨.mrgStat, 0xc0824, [], 1, [⟨27, 16, .ro, 0⟩, ⟨11, 0, .ro, 0⟩]⟩,
  ⟨.drnCtl, 0xc0840, [], 1, [⟨2, 0, .rwl, 3⟩]⟩,
  ⟨.drnLast, 0xc0844, [], 1, [⟨31, 31, .ro, 0⟩, ⟨30, 30, .ro, 0⟩, ⟨29, 27, .ro, 0⟩, ⟨26, 14, .ro, 0⟩, ⟨13, 0, .ro, 0⟩]⟩]

/-- The MAP window. -/
def regsMap : List RegDef := [
  ⟨.mapGeom, 0xe0000, [], 1, [⟨23, 16, .ro, 0⟩, ⟨11, 8, .ro, 0⟩, ⟨7, 0, .ro, 0x11⟩]⟩,
  ⟨.mapPagesMapped, 0xe0010, [], 1, [⟨30, 0, .ro, 0⟩]⟩,
  ⟨.mapFreeGeneral, 0xe0014, [], 1, [⟨30, 0, .ro, 0⟩]⟩,
  ⟨.mapPlaceKey, 0xe0020, [], 1, [⟨31, 31, .ro, 0⟩, ⟨15, 0, .ro, 0⟩]⟩,
  ⟨.mhCtl, 0xe0100, [], 1, [⟨31, 31, .rw, 0⟩, ⟨30, 24, .rw, 0x19⟩, ⟨23, 0, .rw, 0⟩]⟩,
  ⟨.tilCtl, 0xe0200, [], 1, [⟨31, 31, .rw, 1⟩, ⟨30, 24, .rw, 8⟩, ⟨23, 16, .rw, 0x20⟩, ⟨15, 0, .rw, 0x100⟩]⟩,
  ⟨.tilStat, 0xe0204, [], 1, [⟨31, 16, .ro, 0⟩, ⟨15, 0, .ro, 0⟩]⟩,
  ⟨.tilMoves, 0xe0208, [], 1, [⟨31, 0, .ro, 0⟩]⟩,
  ⟨.hznCtl, 0xe0300, [], 1, [⟨15, 8, .rw, 0x90⟩, ⟨7, 0, .rwl, 0x3c⟩]⟩,
  ⟨.hznStat, 0xe0304, [], 1, [⟨31, 31, .ro, 0⟩, ⟨21, 16, .ro, 0⟩, ⟨15, 8, .ro, 0⟩, ⟨7, 0, .ro, 0⟩]⟩,
  ⟨.hznGap, 0xe0308, [], 1, [⟨15, 0, .ro, 0⟩]⟩,
  ⟨.hznPend, 0xe030c, [], 1, [⟨30, 0, .ro, 0⟩]⟩,
  ⟨.hznRef, 0xe0340, [(0x4, 16)], 1, [⟨5, 0, .rwl, 0⟩]⟩,
  ⟨.dstCtl, 0xe0400, [], 1, [⟨23, 0, .rw, 0x1e8480⟩]⟩,
  ⟨.dstStat, 0xe0404, [], 1, [⟨31, 0, .ro, 0⟩]⟩,
  ⟨.hrwCtl, 0xe0500, [], 1, [⟨31, 31, .rw, 1⟩, ⟨23, 16, .rw, 6⟩, ⟨15, 8, .rw, 0x48⟩, ⟨7, 0, .rw, 0x18⟩]⟩,
  ⟨.hrwLap, 0xe0504, [], 1, [⟨31, 31, .ro, 0⟩, ⟨25, 16, .ro, 0⟩, ⟨15, 0, .ro, 0⟩]⟩,
  ⟨.mhRetired, 0xe0610, [], 1, [⟨30, 0, .ro, 0⟩]⟩,
  ⟨.mhDegraded, 0xe0614, [], 1, [⟨30, 0, .ro, 0⟩]⟩,
  ⟨.mhLost, 0xe0618, [], 1, [⟨30, 0, .ro, 0⟩]⟩,
  ⟨.rebStat, 0xe0620, [], 1, [⟨31, 31, .ro, 0⟩, ⟨25, 16, .ro, 0⟩, ⟨12, 8, .ro, 0x1f⟩, ⟨3, 0, .ro, 0⟩]⟩,
  ⟨.codRctCtl, 0xe0700, [], 1, [⟨31, 31, .rw, 1⟩, ⟨15, 8, .rw, 0xa8⟩, ⟨7, 0, .rw, 8⟩]⟩,
  ⟨.codRctStat, 0xe0704, [], 1, [⟨24, 16, .ro, 0⟩, ⟨15, 0, .ro, 0⟩]⟩,
  ⟨.codRctAct, 0xe0708, [], 1, [⟨31, 16, .ro, 0⟩, ⟨15, 8, .ro, 0⟩, ⟨7, 0, .ro, 0⟩]⟩,
  ⟨.codOut, 0xe0710, [(0x4, 4)], 1, [⟨31, 0, .ro, 0⟩]⟩]

/-- The HBM window. -/
def regsHbm : List RegDef := [
  ⟨.hbmCtl, 0x100000, [], 1, [⟨1, 0, .rwl, 0⟩]⟩,
  ⟨.hbmStat, 0x100004, [], 1, [⟨31, 31, .ro, 0⟩, ⟨30, 30, .ro, 0⟩, ⟨29, 28, .ro, 0⟩, ⟨20, 16, .ro, 0x1f⟩, ⟨15, 8, .ro, 0⟩, ⟨7, 0, .ro, 0⟩]⟩,
  ⟨.hbmActCtl, 0x100010, [], 1, [⟨31, 20, .rwl, 0x800⟩, ⟨19, 10, .rw, 0x200⟩, ⟨9, 4, .rw, 1⟩, ⟨3, 0, .rw, 4⟩]⟩,
  ⟨.hbmActStat, 0x100014, [], 1, [⟨31, 12, .ro, 0⟩, ⟨11, 0, .ro, 0⟩]⟩,
  ⟨.hbmRfshStat, 0x100018, [], 1, [⟨31, 16, .ro, 0⟩, ⟨7, 0, .ro, 0⟩]⟩,
  ⟨.hbmRepair, 0x100020, [], 1, [⟨31, 24, .ro, 0⟩, ⟨23, 16, .ro, 0⟩, ⟨15, 8, .ro, 0⟩, ⟨7, 0, .ro, 0⟩]⟩]

/-- The MCH window. -/
def regsMch : List RegDef := [
  ⟨.mcCtl, 0x200000, [(0x10000, 17)], 1, [⟨23, 16, .rw, 0xa⟩, ⟨15, 8, .rw, 0xa⟩, ⟨0, 0, .rw, 1⟩]⟩,
  ⟨.mcStat, 0x200004, [(0x10000, 17)], 1, [⟨31, 31, .ro, 0⟩, ⟨30, 30, .ro, 0⟩, ⟨29, 26, .ro, 0⟩, ⟨25, 22, .ro, 0⟩, ⟨21, 21, .ro, 0⟩, ⟨20, 18, .ro, 0⟩]⟩,
  ⟨.mcRl, 0x200010, [(0x10000, 17), (0x4, 4)], 1, [⟨15, 8, .ro, 0⟩, ⟨7, 0, .ro, 0⟩]⟩,
  ⟨.mcLink, 0x200020, [(0x10000, 17)], 1, [⟨31, 16, .ro, 0⟩, ⟨15, 0, .ro, 0⟩]⟩,
  ⟨.mcEvents, 0x200024, [(0x10000, 17)], 1, [⟨31, 24, .ro, 0⟩, ⟨23, 16, .ro, 0⟩, ⟨15, 8, .ro, 0⟩, ⟨7, 0, .ro, 0⟩]⟩]

/-- The CMQ window. -/
def regsCmq : List RegDef := [
  ⟨.queCtl, 0x400000, [(0x1000, 64)], 1, [⟨1, 1, .wo, 0⟩, ⟨0, 0, .rw, 0⟩]⟩,
  ⟨.queCount, 0x400004, [(0x1000, 64)], 1, [⟨31, 31, .w1c, 0⟩, ⟨30, 30, .ro, 0⟩, ⟨29, 27, .ro, 0⟩, ⟨26, 24, .ro, 0⟩, ⟨10, 0, .ro, 0⟩]⟩,
  ⟨.queCrb, 0x400010, [(0x1000, 64)], 2, [⟨63, 8, .rw, 0⟩]⟩,
  ⟨.queCrs, 0x400018, [(0x1000, 64)], 1, [⟨3, 0, .rw, 8⟩]⟩,
  ⟨.queCrh, 0x40001c, [(0x1000, 64)], 1, [⟨11, 0, .rw, 0⟩]⟩,
  ⟨.queCrt, 0x400020, [(0x1000, 64)], 1, [⟨12, 12, .ro, 1⟩, ⟨11, 0, .ro, 0⟩]⟩]

/-- The PMU window. -/
def regsPmu : List RegDef := [
  ⟨.pmuCtl, 0x2000000, [], 1, [⟨31, 31, .ro, 0⟩, ⟨2, 2, .wo, 0⟩, ⟨1, 1, .wo, 0⟩, ⟨0, 0, .rw, 0⟩]⟩,
  ⟨.pmuTime, 0x2000008, [], 2, [⟨63, 0, .ro, 0⟩]⟩,
  ⟨.pmuSnapStat, 0x2000010, [], 1, [⟨31, 31, .ro, 0⟩, ⟨30, 0, .ro, 0⟩]⟩,
  ⟨.pmuSnapTime, 0x2000018, [], 2, [⟨63, 0, .ro, 0⟩]⟩,
  ⟨.pmuOvf, 0x2000100, [(0x4, 24)], 1, [⟨7, 0, .w1c, 0⟩]⟩,
  ⟨.pmuEvt, 0x2000400, [(0x20, 24), (0x4, 8)], 1, [⟨31, 31, .rw, 0⟩, ⟨30, 30, .rw, 0⟩, ⟨7, 0, .rw, 0⟩]⟩,
  ⟨.pmuCnt, 0x2001000, [(0x40, 24), (0x8, 8)], 2, [⟨47, 0, .rw, 0⟩]⟩,
  ⟨.pmuShd, 0x2002000, [(0x40, 24), (0x8, 8)], 2, [⟨63, 0, .ro, 0⟩]⟩,
  ⟨.pmuShdTime, 0x2002800, [], 2, [⟨63, 0, .ro, 0⟩]⟩,
  ⟨.pmuShdOvf, 0x2002900, [(0x4, 24)], 1, [⟨63, 0, .ro, 0⟩]⟩,
  ⟨.pmuBwCtl, 0x2003000, [], 1, [⟨2, 0, .rw, 3⟩]⟩,
  ⟨.pmuBwSeq, 0x2003004, [], 1, [⟨31, 0, .ro, 0⟩]⟩,
  ⟨.pmuBw, 0x2003100, [(0x4, 27)], 1, [⟨31, 0, .ro, 0⟩]⟩,
  ⟨.pmuTagCtl, 0x2003800, [], 1, [⟨31, 31, .rw, 0⟩, ⟨30, 30, .rw, 1⟩, ⟨29, 29, .rw, 0⟩, ⟨27, 20, .rw, 0x80⟩, ⟨19, 0, .rw, 0x2710⟩]⟩,
  ⟨.pmuTagIdx, 0x2003804, [], 1, [⟨31, 24, .ro, 0⟩, ⟨23, 16, .rw, 0⟩, ⟨15, 8, .rc, 0⟩, ⟨7, 0, .rc, 0⟩]⟩]

/-- Every register of the SW64's own map. -/
def regTable : List RegDef :=
  regsGlb ++ regsSup ++ regsThm ++ regsFlt ++ regsRec ++ regsPst ++ regsSec ++ regsHif ++ regsFab ++ regsCch ++ regsMap ++ regsHbm ++ regsMch ++ regsCmq ++ regsPmu

end Sys2Proof.Machine
end

