-- ==== Sys2Proof/Machine/RegBase.lean ====
section
/-! DEFINITION. Finding a register in the map (R427, R428), reset words (R9, R436) and reading the control register
file. A register's software-loaded fields live in `Ctl.cr` under its offset; an unlisted word holds its reset
value. -/

namespace Sys2Proof.Machine

/-- A register word found at an offset: its definition, its one or two instance indices, and which word of it. -/
structure RegHit where
  reg : RegDef
  i : Nat
  j : Nat
  word : Nat
  deriving DecidableEq, Repr

/-- The register word at an offset of one definition (R428). -/
def hitDef (r : RegDef) (off : Nat) : Option RegHit :=
  if off < r.off ∨ off % 4 ≠ 0 then none
  else
    let x := off - r.off
    let (i, ni, x1) := match r.dims with
      | [] => (0, 1, x)
      | (st, n) :: _ => (x / st, n, x % st)
    let (j, nj, x2) := match r.dims with
      | _ :: (st, n) :: _ => (x1 / st, n, x1 % st)
      | _ => (0, 1, x1)
    if i < ni ∧ j < nj ∧ x2 / 4 < r.words then some ⟨r, i, j, x2 / 4⟩ else none

/-- The register word at a control-BAR offset (R247), PMU registers above 0x200_0000 (R427). -/
def findReg (off : Nat) : Option RegHit := regTable.findSome? fun r => hitDef r off

/-- Reset value of LC_WAYMASK_c (R179). -/
def waymaskReset (c : Nat) : Nat := [0xFFFF, 0xFFFF, 0, 0, 0, 3].getD c 0

/-- Reset value of SUP_RAIL_i (R344, R363): used, 2 ms window, delays in units of 0.25 ms. -/
def railReset (i : Nat) : Nat := 0x80080000 + (22 - 2 * i) * 256 + 2 * i

/-- Reset value of FLT_REACT_c (R322). -/
def reactReset (c : Nat) : Nat :=
  [0x10000, 0x30001, 0x30001, 0x130001, 0x10000, 0xB0001, 0xB0001, 0x10001, 0x30001, 0x30003, 0x30001].getD c 0

/-- Reset value of FLT_CNT_CFG_s (R320). -/
def cntCfgReset (s : Nat) : Nat :=
  if s ≤ 0x10 then 4 * 65536 + 12
  else if 0x20 ≤ s ∧ s ≤ 0x3F then 4 * 65536 + 20
  else if s = 0x40 then 16 * 65536 + 9
  else if 0x60 ≤ s ∧ s ≤ 0x63 then 3 * 65536 + 20
  else 8 * 65536 + 20

/-- The reset word of the fields of one register word. -/
def fieldsReset (r : RegDef) (word : Nat) : Nat :=
  (r.flds.foldl (fun a f => a + f.rst * 2 ^ f.lsb) 0) / 2 ^ (32 * word) % 2 ^ 32

/-- The reset value of a register word (R436). -/
def hitReset (h : RegHit) : Word :=
  BitVec.ofNat 32 <| match h.reg.name with
    | .lcWaymask => waymaskReset h.i
    | .supRail => railReset h.i
    | .fltReact => reactReset h.i
    | .fltCntCfg => cntCfgReset h.i
    | .hznRef => (Config.hznRefFuse h.i).toNat
    | _ => fieldsReset h.reg h.word

/-- The reset value of the word at an offset; 0 at a reserved offset (R11). -/
def resetWord (off : Nat) : Word := ((findReg off).map hitReset).getD 0

/-- The stored word at an offset. -/
def crGet (c : Ctl) (off : Nat) : Word := smGet (resetWord off) c.cr off

/-- Store a word: the reset value removes the entry. -/
def crSet (c : Ctl) (off : Nat) (v : Word) : Ctl := { c with cr := smSet (resetWord off) c.cr off v }

/-- Bits [lo + n − 1 : lo] of a word, as a number. -/
def bits (w : Word) (lo n : Nat) : Nat := w.toNat / 2 ^ lo % 2 ^ n

/-- A field of a stored register. -/
def rg (c : Ctl) (off lo n : Nat) : Nat := bits (crGet c off) lo n

/-- A one-bit field of a stored register. -/
def rb (c : Ctl) (off lo : Nat) : Bool := (crGet c off).getLsbD lo

end Sys2Proof.Machine
end

