-- ==== Sys2Proof/Machine/Ops.lean ====
section
/-! DEFINITION. The shared operations of the block: how a command's effect becomes a step, outputs, interrupts,
performance counts, fault messages, the poison list, recorder histograms and the recurring-correction table. -/

namespace Sys2Proof.Machine

/-- A command that cannot change the control fields: its effect on the datapath. -/
def onDp (f : Ctl → Dp → Dp) (s : State) : Host.Outcome State Fault Refusal :=
  .next { s with dp := f s.ctl s.dp }

/-- A command that may change the control fields as well. -/
def onBoth (f : Ctl → Dp → Ctl × Dp) (s : State) : Host.Outcome State Fault Refusal :=
  .next { s with ctl := (f s.ctl s.dp).1, dp := (f s.ctl s.dp).2 }

/-- A change of the datapath taken only when a condition holds. -/
def Dp.when (b : Bool) (f : Dp → Dp) (d : Dp) : Dp := if b then f d else d

/-- Drive something out of the block. -/
def emit (o : Out) (d : Dp) : Dp := { d with out := d.out ++ [o] }

/-- The next free value of the random-number generator (R53). -/
def rngNow (d : Dp) : BitVec 512 := Config.rng d.free

/-- Consume one free value. -/
def bump (d : Dp) : Dp := { d with free := d.free + 1 }

/-- The 32-bit LFSR x³² + x²² + x² + x + 1 (R180), one advance (log entry 22: shift direction). -/
def lfsr32 (x : BitVec 32) : BitVec 32 :=
  let fb := ((x.getLsbD 31).xor (x.getLsbD 21)).xor ((x.getLsbD 1).xor (x.getLsbD 0))
  (x <<< 1) ||| (if fb then 1 else 0)

/-- A seed for an LFSR: never 0 (R180). -/
def nonzero32 (x : BitVec 32) : BitVec 32 := if x = 0 then 1 else x

/-- Whether the link is up (R269: rate 0 is link down). -/
def linkUp (d : Dp) : Bool := d.hif.rate ≠ 0

/-- Service modes in which the persistence domain lives: reads are served in both, writes in SERVE alone (R8). -/
def serving (d : Dp) : Bool := (d.sup.mode = .serve ∨ d.sup.mode = .fallow) ∧ d.sup.downActive = false

/-- The modes from which DRAIN may begin (R342). -/
def awake (d : Dp) : Bool :=
  (d.sup.mode = .serve ∨ d.sup.mode = .fallow ∨ d.sup.mode = .dormant) ∧ d.sup.downActive = false

/-- Configuration found at RISE: packages per channel, 0 while none is judged (R2, R4). -/
def cfgN (d : Dp) : Nat := d.glb.config

/-- An MSI-X message: pending while its vector is masked (R263), held while Bus Master Enable is clear (R246). -/
def msix (v : Nat) (d : Dp) : Dp :=
  if d.hif.vecMask.getLsbD v then { d with hif := { d.hif with vecPend := setBit d.hif.vecPend v } }
  else if d.hif.busMaster then emit (.msix v) d
  else { d with hif := { d.hif with heldWrites := d.hif.heldWrites ++ [.message v] } }

/-- A posted write to host memory, held while Bus Master Enable is clear (R246). -/
def hostWrite (addr : BitVec 64) (words : List (BitVec 64)) (d : Dp) : Dp :=
  if d.hif.busMaster then emit (.hostWrite addr words) d
  else { d with hif := { d.hif with heldWrites := d.hif.heldWrites ++ [.entry addr words] } }

/-- Offset of PMU_EVT_u_n in the register file (R424). -/
def evtOff (u n : Nat) : Nat := 0x2000400 + u * 0x20 + n * 4

/-- Whether the monitor is frozen (R415). -/
def pmuFrozen (c : Ctl) : Bool := rb c 0x2000000 0

/-- Add k events to a counter, with its wrap (R411). -/
def pmuAdd (c : Ctl) (u n k : Nat) (d : Dp) : Dp :=
  let key := u * 8 + n
  let v := smGet 0 d.pmu.cnt key
  let d1 := { d with pmu := { d.pmu with cnt := smSet 0 d.pmu.cnt key (v + BitVec.ofNat 48 k) } }
  if v.toNat + k < 2 ^ 48 then d1
  else
    let o := smGet 0 d.pmu.ovf u
    let d2 := { d1 with pmu := { d1.pmu with ovf := smSet 0 d1.pmu.ovf u (setBit o n) } }
    if rb c (evtOff u n) 30 ∧ o.getLsbD n = false then msix 71 d2 else d2

/-- Add k events to a channel counter's staging count (R413). -/
def pmuStage (u n k : Nat) (d : Dp) : Dp :=
  { d with pmu := { d.pmu with stag := smMod 0 d.pmu.stag (u * 8 + n) (· + k) } }

/-- Whether a channel unit's event follows individual read outcomes (R413, R330). -/
def outcomeEvent (code : Nat) : Bool := (0x16 ≤ code && code ≤ 0x19) || code = 0x1B

/-- An outcome event of channel unit u also counts, apart, for the counters of the 16 others that select it, which the host reads as
totals (R330). -/
def pmuOthers (c : Ctl) (u code k : Nat) (d : Dp) : Dp :=
  (c.cr.filter fun e => evtOff 1 0 ≤ e.1 && e.1 < evtOff 18 0).foldl (fun d e =>
    let x := (e.1 - evtOff 0 0) / 4
    if x / 8 ≠ u && e.2.getLsbD 31 && bits e.2 0 8 = code then
      { d with pmu := { d.pmu with othStag := smMod 0 d.pmu.othStag x (· + k) } }
    else d) d

/-- Count k ticks of a code at a unit, in every counter that selects it (R411 to R413, R415). -/
def pmuTicks (c : Ctl) (u code k : Nat) (d0 : Dp) : Dp :=
  let d := if 1 ≤ u && u ≤ 17 && outcomeEvent code && !pmuFrozen c then pmuOthers c u code k d0 else d0
  if pmuFrozen c then d
  else (List.range 8).foldl
    (fun d n =>
      if rb c (evtOff u n) 31 ∧ rg c (evtOff u n) 0 8 = code then
        if 1 ≤ u ∧ u ≤ 17 then pmuStage u n k d else pmuAdd c u n k d
      else d) d

/-- Count k events of a code at a unit: as ticks, but in DORMANT only the ticks go on (R411). -/
def pmuCount (c : Ctl) (u code k : Nat) (d : Dp) : Dp := if d.sup.mode = .dormant then d else pmuTicks c u code k d

/-- Count bytes at a bandwidth port (R418); channel ports gather their bytes apart until a publish (R413). -/
def pmuBytes (p k : Nat) (d : Dp) : Dp :=
  if 2 ≤ p ∧ p ≤ 18 then { d with pmu := { d.pmu with chBytes := smMod 0 d.pmu.chBytes p (· + k) } }
  else { d with pmu := { d.pmu with bytes := smMod 0 d.pmu.bytes p (· + k) } }

/-- Kinds of severity warning (R314). -/
def warnKinds : List (BitVec 6) :=
  [0x02, 0x03, 0x06, 0x07, 0x09, 0x12, 0x13, 0x14, 0x1B, 0x21, 0x23, 0x29, 0x2A, 0x2B, 0x2C, 0x2D, 0x30, 0x31, 0x32,
   0x33, 0x34, 0x35, 0x38, 0x39, 0x3B, 0x3C, 0x3F]

/-- Kinds of severity failure (R314). -/
def failKinds : List (BitVec 6) := [0x04, 0x08, 0x10, 0x11, 0x15, 0x24, 0x3E]

/-- Severity of a kind (R311, R314). -/
def kindSev (k : BitVec 6) : BitVec 2 :=
  if k ∈ warnKinds then 1 else if k ∈ failKinds then 2 else if k = 0x3A then 3 else 0

/-- Class of a kind (R314). -/
def kindClass (k : BitVec 6) : Nat :=
  let n := k.toNat
  if n = 0x01 then 0 else if n ≤ 0x04 then 1 else if n ≤ 0x0F then 2 else if n ≤ 0x17 then 3
  else if n ≤ 0x1F then 4 else if n ≤ 0x27 then 5 else if n ≤ 0x2F then 6 else if n ≤ 0x37 then 7
  else if n ≤ 0x39 then 8 else if n ≤ 0x3C then 9 else 10

/-- Kinds with the fixed action LOG (R314). -/
def logKinds : List (BitVec 6) :=
  [0x04, 0x07, 0x08, 0x10, 0x11, 0x15, 0x1B, 0x23, 0x24, 0x2B, 0x2D, 0x31, 0x32, 0x33, 0x36, 0x39, 0x3A, 0x3C, 0x3E]

/-- Fixed actions of a kind, coded as R321 (R314). -/
def kindFixed (k : BitVec 6) : BitVec 7 :=
  (if k ∈ logKinds then 1 else 0) ||| (if k = 0x10 ∨ k = 0x11 ∨ k = 0x3A then 2 else 0) |||
    (if k = 0x10 ∨ k = 0x11 then 16 else 0)

/-- Kinds whose address is a DPA (R314). -/
def dpaKind (k : BitVec 6) : Bool := k = 0x04 ∨ k = 0x24 ∨ k = 0x30

/-- Kinds whose address is an HBM position (R314). -/
def hbmKind (k : BitVec 6) : Bool := k = 0x20 ∨ k = 0x21 ∨ k = 0x23

/-- Kinds whose address is an SRAM word (R314). -/
def sramKind (k : BitVec 6) : Bool := k = 0x28 ∨ k = 0x29 ∨ k = 0x2A

/-- Kinds whose address is a stripe (R314). -/
def stripeKind (k : BitVec 6) : Bool :=
  k = 0x01 ∨ k = 0x02 ∨ k = 0x03 ∨ k = 0x05 ∨ k = 0x06 ∨ k = 0x09 ∨ k = 0x13 ∨ k = 0x32

/-- Kinds whose aux is a warp (R314, R321). -/
def warpKind (k : BitVec 6) : Bool := k = 0x11 ∨ k = 0x12 ∨ k = 0x13 ∨ k = 0x19

/-- The access type of an error that meets no access: R318 gives no code, so a free value (log entry 158). -/
def noAccess : Nat := (Config.freeValue 92 0).toNat % 16

/-- Capture into a source's first-error set unless it is frozen (R318). -/
def captureFirst (src : BitVec 8) (fe : FirstErr) (d : Dp) : Dp :=
  match smGet none d.flt.fe src.toNat with
  | some _ => d
  | none => { d with flt := { d.flt with fe := smSet none d.flt.fe src.toNat (some fe) } }

/-- Put a message into its source's output queue of four; one raised while it is full is dropped and counted
(R315). -/
def sendMsg (m : Msg) (d : Dp) : Dp :=
  let q := smGet [] d.flt.outq m.source.toNat
  if q.length < 4 then { d with flt := { d.flt with outq := smSet [] d.flt.outq m.source.toNat (q ++ [m]) } }
  else { d with flt := { d.flt with dropped := smMod 0 d.flt.dropped m.source.toNat (· + 1) } }

/-- Raise a fault message (R310): its severity is fixed by its kind; the source captures its first error. -/
def raise (src kind : Nat) (addr : Nat) (aux : Nat) (master access : Nat) (d : Dp) : Dp :=
  let s : BitVec 8 := BitVec.ofNat 8 src
  let k : BitVec 6 := BitVec.ofNat 6 kind
  let a : BitVec 40 := BitVec.ofNat 40 addr
  sendMsg ⟨s, k, kindSev k, a, BitVec.ofNat 8 (min aux 255)⟩
    (captureFirst s ⟨a, BitVec.ofNat 8 master, BitVec.ofNat 4 access, k, d.now⟩ d)

/-- The CXL timestamp (R267): 0 if never set. -/
def cxlTime (d : Dp) : BitVec 64 :=
  match d.hif.tsSet with
  | none => 0
  | some (t, at_) => t + (d.now - at_)

/-- Add a 64-byte line to the poison list of 512 records (R267). -/
def poisonAdd (a : SecAddr) (injected : Bool) (d : Dp) : Dp :=
  if d.logs.poison.any fun r => r.line = a then d
  else if d.logs.poison.length < 512 then
    { d with logs := { d.logs with poison := d.logs.poison ++ [⟨a, injected⟩] } }
  else match d.logs.poisonOver with
    | some _ => d
    | none => { d with logs := { d.logs with poisonOver := some (cxlTime d) } }

/-- Remove a line from the poison list. -/
def poisonRemove (a : SecAddr) (d : Dp) : Dp :=
  { d with logs := { d.logs with poison := d.logs.poison.filter fun r => r.line ≠ a } }

/-- Add an event to a histogram's staging counters (R332). -/
def recHist (h b : Nat) (raw : Int) (d : Dp) : Dp :=
  let x := smGet {} d.rec_.staging h
  let x' : Hist :=
    { b := smMod 0 x.b b (· + 1), mn := some (match x.mn with | none => raw | some v => min v raw),
      mx := some (match x.mx with | none => raw | some v => max v raw), total := x.total + 1 }
  { d with rec_ := { d.rec_ with staging := smSet {} d.rec_.staging h x' } }

/-- Count a corrected persistent error: a media read corrected by escalation or reconstruction (R156, R166). -/
def corrPersistent (d : Dp) : Dp :=
  { d with cod := { d.cod with persistent := d.cod.persistent + 1 },
           rec_ := { d.rec_ with corrected := d.rec_.corrected + 1, corrSecond := d.rec_.corrSecond + 1 } }

/-- Count a corrected volatile error: an HBM or SRAM correction (R156, R168, R169). -/
def corrVolatile (d : Dp) : Dp :=
  { d with cod := { d.cod with volatile := d.cod.volatile + 1 },
           rec_ := { d.rec_ with corrected := d.rec_.corrected + 1, corrSecond := d.rec_.corrSecond + 1 } }

/-- Count an outer decode of an escalation or reconstruction by class (COD_OUT_k). -/
def countOut (k : OutClass) (d : Dp) : Dp :=
  { d with cod := { d.cod with out := modAt d.cod.out k.num (fun n => satInc 0xFFFFFFFF n) } }

/-- A location is written (R173): its entry in the table, if it has one, counts again from 0 as rewritten. -/
def Cod.written (c : Cod) (l : RctLoc) : Cod :=
  { c with rct := mapIf (fun x => x.loc = l) (fun x => { x with count := 0, rewritten := true, pending := false }) c.rct }

/-- A write to a location of the table (R173). -/
def rctWritten (l : RctLoc) (d : Dp) : Dp := { d with cod := d.cod.written l }

/-- Words of an SRAM array are written by the traffic that uses them: n words from the first on (R173, R461). -/
def Cod.wrote (c : Cod) (array first n : Nat) : Cod :=
  let hit := fun (x : Rct) => match x.loc with
    | .sram a w => a = array && first ≤ w && w < first + n
    | _ => false
  { c with rct := mapIf hit (fun x => { x with count := 0, rewritten := true, pending := false }) c.rct }

/-- Note the write of SRAM words for the recurring-correction table. -/
def sramWrote (array first n : Nat) (d : Dp) : Dp := { d with cod := d.cod.wrote array first n }

/-- Queue background work (R120). Work queued already keeps its place and takes the more urgent priority. -/
def addWork (prio : Nat) (k : WorkKind) (d : Dp) : Dp :=
  if d.mh.work.any fun w => w.kind = k then
    { d with mh := { d.mh with work := mapIf (fun w => w.kind = k) (fun w => { w with prio := min prio w.prio }) d.mh.work } }
  else { d with mh := { d.mh with work := d.mh.work ++ [{ prio := prio, kind := k }] } }

/-- Queue a piece of background work as it stands, unless its kind is queued. -/
def addWorkAs (w : Work) (d : Dp) : Dp :=
  if d.mh.work.any fun x => x.kind = w.kind then d else { d with mh := { d.mh with work := d.mh.work ++ [w] } }

/-- Change a channel. -/
def modChan (k : Nat) (f : Chan → Chan) (d : Dp) : Dp := { d with chans := modAt d.chans k f }

/-- A sign of life of a channel engine, an acceptance or a progress tick, restarts its watchdog's count (R325). -/
def Chan.alive (t : Stamp) (x : Chan) : Chan := { x with tick := t }

/-- Whether a channel engine has an operation outstanding (R325). -/
def engineBusy (d : Dp) (k : Nat) : Bool := (d.mops.any fun m => m.chan = k) || (d.mrg.progs.any fun p => p.chan = k)

/-- A request goes to a channel engine: where nothing was outstanding, its watchdog's count starts (R325, log entry 159). -/
def engineAsked (k : Nat) (d : Dp) : Dp := if engineBusy d k then d else modChan k (Chan.alive d.now) d

/-- A channel; an absent index reads as an untrained channel. -/
def chanOf (d : Dp) (k : Nat) : Chan := d.chans.getD k {}

/-- Whether the package at a warp of a channel, or the whole channel, is isolated (R146). -/
def unitIsolated (d : Dp) (k w : Nat) : Bool := (chanOf d k).isolated || (chanOf d k).pkgIso.getLsbD w

/-- Whether any unit is isolated (R323). -/
def anyIsolated (d : Dp) : Bool := d.chans.any fun ch => ch.isolated || ch.pkgIso ≠ 0

/-- Change a management processor's state. -/
def setMp (mp st : Nat) (d : Dp) : Dp := { d with que := { d.que with mps := setAt d.que.mps mp st } }

/-- A media operation added to a channel engine in order of arrival (R463). -/
def addMop (chan set row req : Nat) (kind : MopKind) (code : BitVec 6) (d : Dp) : Dp :=
  { engineAsked chan d with mops := d.mops ++ [⟨d.nextMop, chan, set, row, req, kind, code, none, false⟩], nextMop := d.nextMop + 1 }

/-- A media operation put ahead of every other of its channel (R60). -/
def addMopFirst (chan set row req : Nat) (kind : MopKind) (code : BitVec 6) (d : Dp) : Dp :=
  { engineAsked chan d with mops := ⟨d.nextMop, chan, set, row, req, kind, code, none, false⟩ :: d.mops, nextMop := d.nextMop + 1 }

/-- Remove the media operations that satisfy a test. -/
def dropMops (p : Mop → Bool) (d : Dp) : Dp := { d with mops := d.mops.filter fun m => !p m }

/-- Keep an event record for the CXL logs: the log chosen by severity, 128 records each, oldest kept (R267). -/
def logInto (l : EvLog) (r : EvRec) : EvLog :=
  if l.recs.length < 128 then { l with recs := l.recs ++ [r] }
  else { l with overflow := l.overflow + 1, first := if l.overflow = 0 then r.timestamp else l.first, last := r.timestamp }

/-- The log of a severity (R311, R328). -/
def logOf (d : Dp) (sev : Nat) : EvLog :=
  match sev with
  | 0 => d.logs.info
  | 1 => d.logs.warn
  | 2 => d.logs.fail
  | _ => d.logs.fatal

/-- Replace the log of a severity. -/
def setLog (sev : Nat) (l : EvLog) (d : Dp) : Dp :=
  match sev with
  | 0 => { d with logs := { d.logs with info := l } }
  | 1 => { d with logs := { d.logs with warn := l } }
  | 2 => { d with logs := { d.logs with fail := l } }
  | _ => { d with logs := { d.logs with fatal := l } }

end Sys2Proof.Machine
end

