-- ==== Sys2Proof/Machine/Slots.lean ====
section
/-! DEFINITION. The pages of the parameter store and their slots (R290 to R300), the records of pages 16 to 47 (R291, R385,
R361), and the spread counters (R301 to R304). Page data is held with byte 0 in its most significant byte. -/

namespace Sys2Proof.Machine

/-- Whether a page lies on the media (R290). -/
def onMedia (d : Dp) (page : Nat) : Bool := 3 ≤ cfgN d && 64 ≤ page

/-- The last page of the configuration (R290). -/
def lastPage (d : Dp) : Nat := if 3 ≤ cfgN d then 65599 else 959

/-- The key of physical slot a (0 or 1) of a page: slots of the shadow array from 0, of the extension from 2^16
(R292, R294). -/
def slotKey (d : Dp) (page a : Nat) : Nat := if onMedia d page then 65536 + 2 * (page - 64) + a else 2 * page + a

/-- Codeword j of metadata stripe m (R161, R294). -/
def metaCodeword (m j : Nat) (bytes : List (BitVec 8)) : Image :=
  outerEncode (packBytes 2048 (padTo 256 bytes)) (metaWord (metaLabel m j) 0)

/-- A codeword of slot n of the extension as it reads: its data bytes; none where its outer decode is not CLEAN or CORRECTED with
its label (R294, R295). -/
def extCodeword (bad : SMap Image) (n h : Nat) (bytes : List (BitVec 8)) : Option (List (BitVec 8)) :=
  let e := smGet 0 bad (2 * n + h)
  if e = 0 then some bytes
  else
    let j := 2 * (n % 8) + h
    let x := outerDecode (metaCodeword (n / 8) j bytes ^^^ e) (metaLabel (n / 8) j)
    if x.cls.good then some (pageBytes (imgData x.image)) else none

/-- A slot as it reads: of the shadow array with every group decoded, of the extension with both codewords decoded; none when
one does not decode (R295). -/
def heldSlot (d : Dp) (page a : Nat) : Option Slot :=
  let s := smGet {} d.pst.slots (slotKey d page a)
  if onMedia d page then
    let n := 2 * (page - 64) + a
    (extCodeword d.pst.mediaBad n 0 (pageBytes s.data)).bind fun v =>
      (extCodeword d.pst.mediaBad n 1 (headerBytes s)).map fun h => withHeader h { s with data := packBytes 2048 v }
  else readGroups s

/-- Slot a of a page, if it is valid (R295). -/
def validSlot (d : Dp) (page a : Nat) : Option Slot := (heldSlot d page a).filter (slotValid page)

/-- The slot a page reads from: the valid one with the higher sequence number (R295). -/
def currentSlot (d : Dp) (page : Nat) : Option (Nat × Slot) :=
  match validSlot d page 0, validSlot d page 1 with
  | some x, some y => if x.seq < y.seq then some (1, y) else some (0, x)
  | some x, none => some (0, x)
  | none, some y => some (1, y)
  | none, none => none

/-- Whether a page has never been written: both headers are zero (R295). -/
def pageBlank (d : Dp) (page : Nat) : Bool := [0, 1].all fun a => (heldSlot d page a).any slotBlank

/-- What a page's slots read as: none when it is damaged, zeros when it has never been written (R295). -/
def storedPage (d : Dp) (page : Nat) : Option (BitVec 2048) :=
  match currentSlot d page with
  | some x => some x.2.data
  | none => if pageBlank d page then some 0 else none

/-- What a page reads as: the working copy where it holds a change not yet stored (R298). -/
def readPage (d : Dp) (page : Nat) : Option (BitVec 2048) :=
  if page ∈ d.pst.changed then some (smGet 0 d.pst.work page) else storedPage d page

/-- Pages that have been written again decode again, and need no further rewrite (R295, R300). -/
def written (pages : List Nat) (d : Dp) : Dp :=
  { d with pst := { d.pst with
    undecodable := d.pst.undecodable.filter fun p => p ∉ pages
    again := d.pst.again.filter fun p => p ∉ pages } }

/-- The sequence number of a page's next copy (R293). -/
def nextSeq (d : Dp) (page : Nat) : BitVec 64 := ((currentSlot d page).map fun x => x.2.seq).getD 0 + 1

/-- Commit a page into the slot that does not hold its current copy (R293, R295). -/
def commitPage (page : Nat) (data : BitVec 2048) (d : Dp) : Dp :=
  let a := match currentSlot d page with
    | some x => 1 - x.1
    | none => 0
  let s : Slot := { page := BitVec.ofNat 32 page, seq := nextSeq d page, data := data, crc := crc16 data, format := 1, mark := 0x5A }
  let n := 2 * (page - 64) + a
  written [page] { d with pst := { d.pst with
    slots := smSet {} d.pst.slots (slotKey d page a) (sealSlot s)
    mediaBad := if onMedia d page then smSet 0 (smSet 0 d.pst.mediaBad (2 * n) 0) (2 * n + 1) 0 else d.pst.mediaBad } }

/-- A byte string as bytes. -/
def strBytes {w : Nat} (v : BitVec w) : List (BitVec 8) := (List.range (w / 8)).map fun i => v.extractLsb' (w - 8 * (i + 1)) 8

/-- The bytes of security record page 16, 18, 19 or 20 (R385). -/
def secBytes (page : Nat) (r : SecRec) : List (BitVec 8) :=
  match page with
  | 16 => bytesLe 1 (b2n r.userSet + 2 * b2n r.masterSet + 4 * b2n r.eraseInProgress + 8 * b2n r.eraseCommitted) ++
      bytesLe 3 r.eraseKind.toNat ++ bytesLe 4 (r.cursor % 2 ^ 24) ++ strBytes r.userSalt ++ strBytes r.userVer ++
      strBytes r.masterSalt ++ strBytes r.masterVer ++ strBytes (r.wrapped.getD 0) ++ bytesLe 1 (b2n r.wrapUser)
  | 18 => strBytes (r.placeWrapped.getD 0) ++ bytesLe 2 r.placeGen
  | 19 => r.bind.map fun x => x.setWidth 8
  | _ => bytesLe 1 (2 * b2n r.dbgReturned)

/-- The bytes of the power-down record's page (R361). -/
def pdBytes (r : PdRec) : List (BitVec 8) :=
  padTo 256 (bytesLe 4 0x44524450 ++ bytesLe 1 r.mode.toNat ++ bytesLe 1 r.cause.toNat ++ bytesLe 2 r.faulty.toNat ++
    bytesLe 1 (b2n r.auxLost + 2 * b2n r.deadline + 4 * b2n r.restart) ++ bytesLe 1 r.attempts)

/-- The contents of a record's page (R291, R385, R361), of its copy number seq. The formats of pages 32 to 46 are not given: their
bytes are free values. -/
def recordData (page : Nat) (seq : BitVec 64) (s : SecRec) (r : DevRec) : BitVec 2048 :=
  packBytes 2048 (padTo 256 (
    if page < 32 then secBytes page s
    else if page = 47 then (r.powerDown.map pdBytes).getD []
    else (List.range 32).flatMap fun i => wordBytes (Config.freeValue (100 + page) (seq.toNat * 32 + i))))

/-- Write a record's page (R295): its slot, with the records of before it kept beside the slot that still holds them. -/
def recordPage (page : Nat) (s : SecRec) (r : DevRec) (d : Dp) : Dp :=
  let old := ((currentSlot d page).map fun x => x.2.seq).getD 0
  commitPage page (recordData page (nextSeq d page) s r) { d with pst := { d.pst with
    sec := s, dev := r, prev := smSet none d.pst.prev page (some (old, d.pst.sec, d.pst.dev)) } }

/-- Change a device record (R291): its page is written with valid check bits. -/
def modDev (page : Nat) (f : DevRec → DevRec) (d : Dp) : Dp := recordPage page d.pst.sec (f d.pst.dev) d

/-- Change a security record (R385): one page, changed at once, with valid check bits (R300). -/
def modSec (page : Nat) (f : SecRec → SecRec) (d : Dp) : Dp := recordPage page (f d.pst.sec) d.pst.dev d

/-- The security records with those of one page as they were (R385). -/
def secBack (page : Nat) (old s : SecRec) : SecRec :=
  match page with
  | 16 => { old with placeWrapped := s.placeWrapped, placeGen := s.placeGen, bind := s.bind, dbgReturned := s.dbgReturned }
  | 18 => { s with placeWrapped := old.placeWrapped, placeGen := old.placeGen }
  | 19 => { s with bind := old.bind }
  | 20 => { s with dbgReturned := old.dbgReturned }
  | _ => s

/-- The device records with those of one page as they were (R291). -/
def devBack (page : Nat) (old r : DevRec) : DevRec :=
  match page with
  | 32 => { r with population := old.population }
  | 33 => { r with isoChan := old.isoChan, isoPkg := old.isoPkg }
  | 34 => { r with journalHead := old.journalHead }
  | 35 => { r with cursors := old.cursors }
  | 36 => { r with repairs := old.repairs }
  | 37 => { r with fwSelect := old.fwSelect }
  | 38 => { r with hostDirty := old.hostDirty }
  | 47 => { r with powerDown := old.powerDown, pdNew := false }
  | _ => r

/-- The record of a page as its slots hold it: where the newest copy does not read, the one before it (R295). -/
def recordBack (page : Nat) (d : Dp) : Dp :=
  match smGet none d.pst.prev page, currentSlot d page with
  | some (seq, s, r), some x =>
    if x.2.seq = seq then { d with pst := { d.pst with sec := secBack page s d.pst.sec, dev := devBack page r d.pst.dev } } else d
  | _, _ => d

/-- The class of a page for PST_DAMAGED (R300). -/
def pageClass (page : Nat) : Nat :=
  if page < 16 then 0 else if page < 32 then 1 else if page < 48 then 2 else if page < 64 then 3 else if page < 576 then 4
  else if page < 704 then 5 else 6

/-- A damaged page or counter is found (R300): counted, and reported with its class. -/
def damaged (cls : Nat) (d : Dp) : Dp :=
  raise 0x64 0x2B 0 cls 0x08 0 { d with pst := { d.pst with damagedCount := satInc 0xFFFF d.pst.damagedCount } }

/-- Pages that a read finds damaged are reported, each once until it is written again or RISE reads the store anew (R300). -/
def meetDamaged (pages : List Nat) (d : Dp) : Dp :=
  pages.foldl (fun d p =>
    if (readPage d p).isNone && !(p ∈ d.pst.undecodable) then
      damaged (pageClass p) { d with pst := { d.pst with undecodable := d.pst.undecodable ++ [p] } }
    else d) d

/-- Whether a read of a page needs a group correction (R170, R295). -/
def pageMends (d : Dp) (page : Nat) : Bool :=
  !onMedia d page && !(page ∈ d.pst.changed) && [0, 1].any fun a =>
    let s := smGet {} d.pst.slots (slotKey d page a)
    decide (s ≠ {}) && decide (sealSlot s ≠ s) && (readGroups s).isSome

/-- What reading pages does beside its answer: corrections are counted, and their pages are to be rewritten (R295, R309);
damaged pages are reported (R300). -/
def pagesRead (pages : List Nat) (d : Dp) : Dp :=
  meetDamaged pages (pages.foldl (fun d p =>
    if pageMends d p then { d with pst := { d.pst with corrected := d.pst.corrected + 1, again := addOnce p d.pst.again } } else d) d)

/-- The pages that a store is to store, in ascending order (R298): those changed since the last store, and those whose read
needed a correction (R295). -/
def toStore (d : Dp) : List Nat := (List.range 960).filter fun p => p ∈ d.pst.changed || p ∈ d.pst.again

/-- Store one page: its latest content (R298). One of which no copy reads is left as it is. -/
def storePage (p : Nat) (d : Dp) : Dp :=
  match readPage d p with
  | none => { d with pst := { d.pst with again := d.pst.again.filter (· ≠ p) } }
  | some v => commitPage p v { d with pst := { d.pst with
      changed := d.pst.changed.filter (· ≠ p), work := smSet 0 d.pst.work p 0 } }

/-- A store begins (R298), or a store under way takes in what has changed meanwhile; `told`: PST_COMMIT completes at its end. In
W3 and W4 no page waits for one. -/
def startStore (told : Bool) (d : Dp) : Dp :=
  if 3 ≤ cfgN d then d
  else { d with pst := { d.pst with
    storing := toStore d
    storeAt := if d.pst.storing = [] then d.sup.clock else d.pst.storeAt
    storeCmd := told && !(toStore d).isEmpty } }

/-- Slot i of a spread counter (R301). -/
def cntSlot (c : Ctl) (n i : Nat) : CntSlot := smGet {} c.cnt (n * 64 + i)

/-- Slot i of a spread counter as it reads, if it is valid (R303). -/
def cntValid (c : Ctl) (n i : Nat) : Option CntSlot := (readCount (cntSlot c n i)).filter (countValid n)

/-- The current slot of a spread counter: the valid one with the highest sequence number (R303). -/
def cntCurrent (c : Ctl) (n : Nat) : Option (Nat × CntSlot) :=
  (List.range 64).foldl (fun a i =>
    match cntValid c n i, a with
    | some s, none => some (i, s)
    | some s, some x => if x.2.seq < s.seq then some (i, s) else a
    | none, _ => a) none

/-- The value of a spread counter (R303); with no valid slot, the highest value in a slot that decodes (R300), and for counters 3 to
6 at least the fused floor of the index (R396). -/
def cntValue (c : Ctl) (n : Nat) : Nat :=
  match cntCurrent c n with
  | some x => x.2.value.toNat
  | none => (List.range 64).foldl (fun a i => max a (((readCount (cntSlot c n i)).map fun s => s.value.toNat).getD 0))
      (if 3 ≤ n ∧ n ≤ 6 then Config.rollbackFloor (BitVec.ofNat 2 (n - 3)) else 0)

/-- The slot that the next write of a counter takes, and the sequence number it gets (R302). -/
def cntNext (c : Ctl) (n : Nat) : Nat × Nat :=
  match cntCurrent c n with
  | some x => ((x.1 + 1) % 64, x.2.seq.toNat + 1)
  | none => (0, 1)

/-- Put a slot of a counter. -/
def putCount (n i : Nat) (s : CntSlot) (c : Ctl) : Ctl := { c with cnt := smSet {} c.cnt (n * 64 + i) s }

/-- Write the next slot of a spread counter with a greater value (R302); a counter at its maximum stays there. -/
def cntWrite (n v : Nat) (c : Ctl) : Ctl :=
  if v ≤ cntValue c n ∨ 2 ^ 48 ≤ v then c else putCount n (cntNext c n).1 (countSlot n v (cntNext c n).2) c

/-- Increment a spread counter (R302). -/
def cntInc (n : Nat) (c : Ctl) : Ctl := cntWrite n (cntValue c n + 1) c

end Sys2Proof.Machine
end

