-- ==== Sys2Proof/Machine/Flags.lean ====
section
/-! DEFINITION. The conditions and counts the block derives from its state: occupancy and the dirty ceiling (R98 to
R102), mapping and stripe conditions (R52, R145, R151), FALLOW conditions (R153) and the health status (R156). -/

namespace Sys2Proof.Machine

/-- The dirty ceiling C in bytes (R100). -/
def ceilBytes (c : Ctl) : Nat := rg c 0xC0800 0 6 * 1048576

/-- Dirty sectors of the line cache. -/
def dirtySectors (d : Dp) : Nat := d.lc.ways.foldl (fun a w => a + popCount w.2.sd) 0

/-- Sector values held in the merge buffer (R98). -/
def mergeSectors (d : Dp) : Nat := d.mrg.entries.foldl (fun a e => a + popCount e.host) 0

/-- D / 64: sector values not yet released (R98), with the logged sectors kept for a key slot at replay (R117). -/
def dSectors (d : Dp) : Nat := dirtySectors d + mergeSectors d + d.sec.heldSectors.length

/-- Whether CXL.mem reads return poison and writes are discarded: LOCKED, EXHAUSTED (R387), and an erase (R392). -/
def refusing (d : Dp) : Bool := d.sec.st = .locked || d.sec.st = .exhausted || d.sec.erase

/-- Whether a request held in DORMANT is a write. -/
def HeldReq.isWrite : HeldReq → Bool
  | .rd _ => false
  | .spec _ => false
  | .inv _ => false
  | .wr _ _ _ => true
  | .wrPtl _ _ _ _ => true

/-- Reads accepted and not yet answered (R251). -/
def outReads (d : Dp) : Nat :=
  (d.acc.pend.filter fun p => !p.write).length + (d.acc.held.filter fun r => !r.2.isWrite).length

/-- Writes accepted and not yet answered (R251). -/
def outWrites (d : Dp) : Nat :=
  (d.acc.pend.filter fun p => p.write).length + (d.acc.held.filter fun r => r.2.isWrite).length

/-- W of R98: RwD credits held by the host plus writes accepted and not yet completed. -/
def wOf (d : Dp) : Nat := d.hif.hw + outWrites d

/-- Free merge-buffer entries (R102): 3,072 less those in use and those out of service. -/
def mergeFree (d : Dp) : Nat :=
  3072 - d.mrg.entries.length - (d.mrg.out.filter fun i => !(d.mrg.entries.any fun e => e.id = i)).length

/-- PD_OCC.by_room: D + 64 × W exceeds C (R98, R101). -/
def byRoom (c : Ctl) (d : Dp) : Bool := ceilBytes c < 64 * dSectors d + 64 * wOf d

/-- PD_OCC.by_merge: W exceeds the free merge-buffer entries (R98, R101). -/
def byMerge (d : Dp) : Bool := mergeFree d < wOf d

/-- Whether one more RwD credit fits (R99). -/
def roomForOne (c : Ctl) (d : Dp) : Bool :=
  64 * dSectors d + 64 * (wOf d + 1) ≤ ceilBytes c ∧ wOf d + 1 ≤ mergeFree d

/-- Bring the withholding of RwD credits up to date (R98, R99, R101). -/
def updWithhold (c : Ctl) (d : Dp) : Dp :=
  { d with hif := { d.hif with
      withheld := if byRoom c d || byMerge d then true else if roomForOne c d then false else d.hif.withheld } }

/-- The rebuild cursor of a stripe set for a lost channel: the next row (R148). -/
def cursorOf (d : Dp) (set k : Nat) : Nat := smGet 0 d.mh.cursors (set * 32 + k)

/-- The metadata stripes written under an intent record: by a page write of the store (R294), or rewritten in place,
and the reserve stripes whose members are (R172). -/
def storeIntents (d : Dp) : List Stripe :=
  (d.mrg.progs.filterMap fun p => match p.kind with
    | .store _ _ => some (mkStripe p.set p.row)
    | .journal n _ => if d.jrn.stripes.any fun x => x.seq = n && x.ok then some (mkStripe p.set p.row) else none
    | .rebuild set row chan => if row < cursorOf d set chan then some (mkStripe p.set p.row) else none
    | _ => none).eraseDups

/-- Open intent records (R93, R127, R172, R294). -/
def intents (d : Dp) : Nat := d.mrg.deltas.length + (d.mh.rewrites.filter fun r => r.inPlace).length + (storeIntents d).length

/-- The mapping entry that a lookup served by the mapping cache or the mirrors gives (R50). -/
def curEntry (d : Dp) (p : Nat) : BitVec 64 :=
  match d.map.cache.find? fun m => m.page = p with
  | some m => m.entry
  | none => smGet 0 d.map.copyA p

/-- Whether a page's entry is lost and not yet restored (R49). -/
def pageLost (d : Dp) (p : Nat) : Bool := p ∈ d.map.lost

/-- Pinned cache lines that map a page copy A does not map yet. -/
def newlyMapped (d : Dp) : Nat :=
  (d.map.cache.filter fun m => m.pinned && entryValid m.entry && !entryValid (smGet 0 d.map.copyA m.page)).length

/-- MAP_PAGES_MAPPED.count. -/
def pagesMapped (d : Dp) : Nat := (d.map.copyA.filter fun e => entryValid e.2).length + newlyMapped d

/-- Every mapped page with its entry. -/
def mappedPages (d : Dp) : List (Nat × BitVec 64) :=
  (d.map.copyA.filterMap fun e => let v := curEntry d e.1; if entryValid v then some (e.1, v) else none) ++
  (d.map.cache.filterMap fun m =>
    if m.pinned && entryValid m.entry && !entryValid (smGet 0 d.map.copyA m.page) then some (m.page, m.entry) else none)

/-- The page a stripe is mapped to. -/
def stripeOwner (d : Dp) (s : Stripe) : Option Nat :=
  ((mappedPages d).find? fun e => entryStripe e.2 = s).map (·.1)

/-- The stripe-state byte of a stripe (R144). -/
def stateByte (d : Dp) (s : Stripe) : BitVec 8 := smGet 0 d.map.state s.toNat

/-- Whether a stripe is retired (R144). -/
def retired (d : Dp) (s : Stripe) : Bool := (stateByte d s).getLsbD 7

/-- Whether the member of a stripe on a channel is marked failed (R144). -/
def memberFailed (d : Dp) (s : Stripe) (k : Nat) : Bool :=
  (stateByte d s).getLsbD 6 && (stateByte d s).toNat % 32 = k || (s.toNat, k) ∈ d.map.failed

/-- The free-stripe bitmap bit of a stripe (R52). It stays clear until the bitmap is rebuilt at RISE, and for a stripe that
a lost entry named (R49). -/
def stripeFree (d : Dp) (s : Stripe) : Bool :=
  d.map.bitmap && stripeExists (cfgN d) s && rowRole (stripeRow s) = .general && !retired d s && (stripeOwner d s).isNone &&
  !(s.toNat ∈ d.map.heldDst) && !(d.map.waiting.any fun w => w.stripe = s) && !(s.toNat ∈ d.map.stranded) &&
  !(s.toNat / 256 ∈ d.map.unsure) && !(s.toNat / 32 ∈ d.map.unsureState)

/-- Retired stripes of the general pool. -/
def retiredStripes (d : Dp) : List Nat :=
  (d.map.state.filter fun e => e.2.getLsbD 7 && rowRole (e.1 % 2 ^ 24) = .general).map (·.1)

/-- MH_RETIRED.count: with the mapped, free, held and waiting stripes it makes up the general pool (R158). -/
def retiredCount (d : Dp) : Nat := (retiredStripes d).length

/-- The general stripes whose bitmap bit is 0, each once. -/
def takenStripes (d : Dp) : List Nat :=
  ((mappedPages d).map (fun e => (entryStripe e.2).toNat) ++ retiredStripes d ++ d.map.heldDst ++
    d.map.waiting.map (·.stripe.toNat) ++ d.map.stranded).eraseDups

/-- MAP_FREE_GENERAL.count: the bitmap bits equal to 1 (R52). -/
def freeGeneral (d : Dp) : Nat := if d.map.bitmap then generalPool (cfgN d) - (takenStripes d).length else 0

/-- The spare remaining, 0 when exhausted (R151). -/
def spare (d : Dp) : Nat := freeGeneral d - (hostPages (cfgN d) - pagesMapped d) - 4096

/-- Whether the spare remaining is below 10 % of the headroom (R156, R157); not told before the bitmap is rebuilt. -/
def spareIsLow (d : Dp) : Bool := d.map.bitmap && decide (spare d * 10 < headroom (cfgN d))

/-- Whether the spare is exhausted (R151); not told before the bitmap is rebuilt. -/
def spareGone (d : Dp) : Bool := d.map.bitmap && spare d = 0

/-- A change of the free stripes has been made, from the state `old`: the spare's fall below 10 % of the headroom, and its
fall to 0, are reported (R151, R157). -/
def spareFalls (old d : Dp) : Dp :=
  let d1 := if spareIsLow d && !spareIsLow old then raise 0x5B 0x07 0 0 0x06 noAccess d else d
  if spareGone d && !spareGone old then raise 0x5B 0x08 0 0 0x06 noAccess d1 else d1

/-- The rebuild location of a member (R147): its set, row and channel. -/
def rebuildLoc (n set row k : Nat) : Nat × Nat × Nat :=
  (32 * ((set / 32 + 1) % n) + set % 32, 16 * (row / 16) + 15, (k + 1 + row % 16) % 17)

/-- The rebuilds under way, oldest first: each a lost channel and the warps of its lost packages (R146, R149). -/
def rebuilds (d : Dp) : List (Nat × BitVec 4) :=
  if d.mh.rebActive then (d.mh.rebChan, d.mh.rebWarps) :: d.mh.rebMore else []

/-- The channel being rebuilt in a stripe set, if one is. -/
def rebuildChan (d : Dp) (set : Nat) : Option Nat :=
  ((rebuilds d).find? fun r => r.2.getLsbD (setWarp set)).map (·.1)

/-- Stripe sets a rebuild covers: every warp for a lost channel, one for a lost package (R147). -/
def rebuildSets (d : Dp) (warps : BitVec 4) : List Nat :=
  (List.range (stripeSets (cfgN d))).filter fun s => warps.getLsbD (setWarp s)

/-- Where a member is read from, if it has a readable media copy (R34, R39, R145, R148): its set, row and channel. -/
def memberLoc (d : Dp) (s : Stripe) (k : Nat) : Option (Nat × Nat × Nat) :=
  if memberFailed d s k then none
  else if unitIsolated d k (stripeWarp s) = false then some (stripeSet s, stripeRow s, k)
  else if stripeRow s < cursorOf d (stripeSet s) k then
    let l := rebuildLoc (cfgN d) (stripeSet s) (stripeRow s) k
    if unitIsolated d l.2.2 (setWarp l.1) then none else some l
  else none

/-- Whether a member is unavailable (R145). -/
def unavailable (d : Dp) (s : Stripe) (k : Nat) : Bool := (memberLoc d s k).isNone

/-- The unavailable members of a stripe, by channel (R145). -/
def lostMembers (d : Dp) (s : Stripe) : List Nat := (List.range 17).filter fun k => unavailable d s k

/-- Stripes that hold data: mapped, or metadata stripes programmed before and not retired (R140). -/
def stripesInUse (d : Dp) : List Stripe :=
  (mappedPages d).map (fun e => entryStripe e.2) ++
    (d.mh.metaUsed.map (metaStripe (stripeSets (cfgN d)))).filter fun s => !retired d s

/-- MH_DEGRADED.count (R145). -/
def degradedCount (d : Dp) : Nat := ((stripesInUse d).filter fun s => (lostMembers d s).length = 1).length

/-- MH_LOST.count (R145). -/
def lostCount (d : Dp) : Nat := ((stripesInUse d).filter fun s => 2 ≤ (lostMembers d s).length).length

/-- An entry condition of FALLOW (R153). -/
def fallowCond (c : Ctl) (d : Dp) : Bool :=
  (rb c 0xE0100 31 && spare d = 0) || (rg c 0xE0100 0 24 ≠ 0 && rg c 0xE0100 0 24 ≤ degradedCount d)

/-- Whether the form of a rewrite is relocating (R121). -/
def relocating (d : Dp) : Bool := 0 < spare d && !d.mh.rebActive

/-- Maximum stripe wear (R128). -/
def maxWear (d : Dp) : Nat := smMax d.mh.wear

/-- Mean wear of the general pool, in whole units (R128). -/
def meanWear (d : Dp) : Nat :=
  (d.mh.wear.foldl (fun a e => if rowRole (e.1 % 2 ^ 24) = .general then a + e.2 else a) 0) / max 1 (generalPool (cfgN d))

/-- Health Status: [0] maintenance needed, [1] performance degraded, [2] replacement needed (R156). -/
def healthStatus (d : Dp) : BitVec 8 :=
  BitVec.ofNat 8 <|
    b2n (spareIsLow d || d.mh.rebActive || d.mh.overLimit || d.mh.deadline || d.mh.parityCheck) +
    2 * b2n (anyIsolated d || d.sup.mode = .fallow) +
    4 * b2n (spareGone d || 0 < lostCount d || d.mh.unbuilt)

/-- Life Used in %, rounded up, saturating at 100 (R156). -/
def lifeUsed (d : Dp) : Nat := min 100 ((maxWear d * 2048 + 999999) / 1000000)

/-- The horizon tick period in minutes (R132). -/
def tickMin (c : Ctl) : Nat := rg c 0xE0300 0 8

/-- Ticks in a number of hours, rounded down (R135). -/
def hoursToTicks (c : Ctl) (h : Nat) : Nat := h * 60 / max 1 (tickMin c)

/-- Age in hours of an age in ticks (R132). -/
def ticksToHours (c : Ctl) (t : Nat) : Nat := t * tickMin c / 60

/-- Age class of an age in hours (R133). -/
def ageClass (h : Nat) : Nat :=
  if h ≤ 3 then h else if h ≤ 5 then 4 else if h ≤ 7 then 5 else if h ≤ 10 then 6 else if h ≤ 15 then 7
  else if h ≤ 22 then 8 else if h ≤ 31 then 9 else if h ≤ 45 then 10 else if h ≤ 63 then 11 else if h ≤ 90 then 12
  else if h ≤ 127 then 13 else if h ≤ 180 then 14 else 15

/-- Lower edge in hours of an age class (R133). -/
def classEdge (c : Nat) : Nat := [0, 1, 2, 3, 4, 6, 8, 11, 16, 23, 32, 46, 64, 91, 128, 181].getD c 181

/-- The reference code of a horizon (R133, R137). -/
def refCode (c : Ctl) (d : Dp) (h : BitVec 8) : BitVec 6 :=
  let age := ageOf d.mh.now h
  let old := d.mh.reanchor && (ageOf d.mh.now d.mh.boundary < age)
  let hours := ticksToHours c (if old then age + d.mh.gap else age)
  if old && 180 < hours then d.mh.anchorRef
  else BitVec.ofNat 6 (rg c (0xE0340 + 4 * ageClass hours) 0 6)

/-- The reference code of a member of a mapped stripe; position 16 is the parity codeword (R58). -/
def memberCode (c : Ctl) (d : Dp) (e : BitVec 64) (pos : Nat) : BitVec 6 :=
  if pos < 16 then refCode c d (entryHorizon e pos)
  else refCode c d (if entryMask e ≠ 0 then entryRecent e else entryBase e)

/-- The mode's code (R341). -/
def Mode.code : Mode → Nat
  | .off => 0
  | .rise => 1
  | .serve => 2
  | .dormant => 3
  | .drain => 4
  | .fallow => 5

/-- Where the DPA range of decoder n starts when it is committed (R259): at the end of the range of the last committed
decoder before it, plus its own skip. -/
def rangeStart (d : Dp) (n : Nat) : Nat :=
  ((List.range n).foldl (fun a k =>
    let x := d.hif.decoders.getD k {}
    if x.committed then x.start + x.size.toNat / x.iw else a) 0) + (d.hif.decoders.getD n {}).skip.toNat

/-- The decoder whose DPA range covers an address. -/
def dpaDecoder (d : Dp) (dpa : Nat) : Option Nat :=
  (List.range 4).find? fun n =>
    let x := d.hif.decoders.getD n {}
    x.committed && x.start ≤ dpa && dpa < x.start + x.size.toNat / x.iw

/-- The key slot bound to the HDM range of a DPA (R384): the slot of the committed decoder whose range covers it; none
where no decoder does. -/
def slotOfDpa (d : Dp) (dpa : Nat) : Option (BitVec 6) := (dpaDecoder d dpa).map fun n => d.sec.bind.getD n 0

/-- The AES keys of a slot (R381). -/
def slotKeys (d : Dp) (slot : BitVec 6) : BitVec 512 := mediaSlotKeys (d.sec.mediaKey.getD 0) slot

/-- Device Temperature: Tc in whole °C, rounded up (R379). -/
def deviceTemp (d : Dp) : Int := -((-d.thm.tc.toInt) / 4)

/-- Whether a programmed alert is enabled and its value (R267): 0 life used, 1 over-temperature, 2 under-temperature,
3 corrected volatile errors, 4 corrected persistent errors. -/
def alertAt (d : Dp) (n : Nat) : Option (BitVec 16) := if d.logs.alertOn.getLsbD n then d.logs.alerts[n]? else none

/-- The device's own critical alert thresholds, not stated: 0 life used, 1 over-temperature, 2 under-temperature. -/
def criticalAt (n : Nat) : BitVec 16 := (Config.freeValue 71 n).extractLsb' 0 16

/-- Additional Status (R156, R267, log entry 17): life used, temperature, and the two corrected error counts. -/
def alertBits (d : Dp) : Nat :=
  let t := deviceTemp d
  let life := if (criticalAt 0).toNat ≤ lifeUsed d then 2
    else match alertAt d 0 with
      | some v => b2n (v.toNat ≤ lifeUsed d)
      | none => 0
  let above := match alertAt d 1 with
    | some v => v.toInt < t
    | none => false
  let below := match alertAt d 2 with
    | some v => t < v.toInt
    | none => false
  let temp := if (criticalAt 1).toInt < t ∨ t < (criticalAt 2).toInt then 2 else b2n (above || below)
  let over_ := fun (n k : Nat) => match alertAt d n with
    | some v => b2n (v.toNat ≤ k)
    | none => 0
  life + 4 * temp + 16 * over_ 3 d.cod.volatile + 32 * over_ 4 d.cod.persistent

/-- The health information of Get Health Info and of event records (R156), 18 bytes as CXL lays them out (log entry 17). -/
def healthBytes (c : Ctl) (d : Dp) : List (BitVec 8) :=
  let le := fun (k v : Nat) => (List.range k).map fun i => BitVec.ofNat 8 (v / 256 ^ i)
  let t : BitVec 16 := BitVec.ofInt 16 (deviceTemp d)
  healthStatus d :: (if d.sup.mode = .fallow then 2 else 0) :: BitVec.ofNat 8 (alertBits d) :: BitVec.ofNat 8 (lifeUsed d) ::
    (le 2 t.toNat ++ le 4 (cntValue c 0) ++ le 4 (min (2 ^ 32 - 1) d.cod.volatile) ++ le 4 (min (2 ^ 32 - 1) d.cod.persistent))

/-- Write an event record, with its interrupt when the log's policy selects MSI-X (R263, R267). -/
def writeEvent (c : Ctl) (sev : Nat) (r : EvRec) (d : Dp) : Dp :=
  let l := logInto (logOf d sev) { r with handle := d.logs.nextHandle, timestamp := cxlTime d, health := if r.health = [] then healthBytes c d else r.health }
  let d1 := setLog sev l { d with logs := { d.logs with nextHandle := d.logs.nextHandle + 1, written := d.logs.written + 1 } }
  let d2 := pmuCount c 23 0x13 1 d1
  if l.policy = 1 then msix (65 + sev) d2 else d2

/-- An event record that no fault message carries: R157 and the records named by other rules. `text` tells them
apart: 1 unit isolated, 2 entry to FALLOW, 3 refused writes, 4 RCT with no spare, 5 placement key replaced,
6 pending log count after a drain, 7 dirty shutdown, 8 stripe lost, 9 rail or VDD_AUX record, 10 link downgrade,
11 population mismatch, 12 damaged record. -/
def eventRecord (c : Ctl) (sev : Nat) (text : Nat) (value : Nat) (d : Dp) : Dp :=
  writeEvent c sev
    { handle := 0, fmt := 2, msg := ⟨0, 0, BitVec.ofNat 2 sev, BitVec.ofNat 40 value, 0⟩, dpa := 0, stamp := d.now,
      severe := false, suppressed := 0, timestamp := 0, text := BitVec.ofNat 8 text } d

/-- An event record of R157 on a media event, in the general-media format with a DPA (R268). -/
def dpaRecord (c : Ctl) (sev : Nat) (text : Nat) (a : SecAddr) (d : Dp) : Dp :=
  writeEvent c sev
    { handle := 0, fmt := 0, msg := ⟨0, 0, BitVec.ofNat 2 sev, 0, 0⟩, dpa := a, stamp := d.now,
      severe := false, suppressed := 0, timestamp := 0, text := BitVec.ofNat 8 text } d

end Sys2Proof.Machine
end

