-- ==== Sys2Proof/Machine/Answer.lean ====
section
/-! DEFINITION. Accepted requests and their answers: the credit pool (R70, R251, R370), the order of answers to one
line (R254), S2M credits (R252), recorded latency and the ceiling counters (R74 to R79), and request tagging (R419 to
R422). -/

namespace Sys2Proof.Machine

/-- No credits are advertised in DRAIN, in DORMANT, in the transitions to them, and outside service (R80, R251). -/
def noCredits (d : Dp) : Bool := !serving d || d.sup.entering || d.sup.warm

/-- Advertise one credit (R251): RwD if Hw + Ow < 256 and RwD is not withheld, otherwise Req. An RwD credit that
would exceed the ceiling starts the withholding (R98, R99). -/
def giveCredit (c : Ctl) (d : Dp) : Dp :=
  let d1 := updWithhold c d
  if d1.hif.hw + outWrites d1 < 256 ∧ d1.hif.withheld = false then
    if roomForOne c d1 then emit (.credit 0 1) { d1 with hif := { d1.hif with hw := d1.hif.hw + 1 } }
    else emit (.credit 1 0) { d1 with hif := { d1.hif with withheld := true, hr := d1.hif.hr + 1 } }
  else emit (.credit 1 0) { d1 with hif := { d1.hif with hr := d1.hif.hr + 1 } }

/-- A pool entry is freed: its credit is returned, unless credits are withheld or paced, or the CXL.mem stream is insecure (R251,
R256, R370). While Memory_Active is clear no pool is advertised, and the next advertisement counts the entry afresh. -/
def freeEntry (c : Ctl) (d : Dp) : Dp :=
  if d.hif.memActive = false || !linkUp d then d
  else if noCredits d || d.hif.ideFailed || 0 < d.thm.cut then { d with hif := { d.hif with unreturned := d.hif.unreturned + 1 } }
  else giveCredit c d

/-- Advertise a number of entries held back (R251, R370); none leaves on an insecure CXL.mem stream (R256). -/
def returnEntries (c : Ctl) : Nat → Dp → Dp
  | 0, d => d
  | n + 1, d =>
    if d.hif.unreturned = 0 || d.hif.ideFailed then d
    else returnEntries c n (giveCredit c { d with hif := { d.hif with unreturned := d.hif.unreturned - 1,
                                                                       returned := d.hif.returned + 1 } })

/-- Histogram bucket of a host read (R77). -/
def readBucket (lat : Nat) (ceiling : Bool) : Nat :=
  if ceiling = false then 31 else if lat < 200 then 0 else if lat < 900 then 1 + (lat - 200) / 25
  else if lat ≤ 1000 then 29 else 30

/-- Histogram bucket of a host write (R331). -/
def writeBucket (lat : Nat) (part : Bool) : Nat :=
  if part then 31 else if lat < 100 then 0 else if lat < 380 then 1 + (lat - 100) / 10
  else if lat ≤ 400 then 29 else 30

/-- Record the latency of a host read: ceiling counters, breach message, histogram (R74 to R77). -/
def recordRead (c : Ctl) (line : SecAddr) (lat : Nat) (ceiling : Bool) (d : Dp) : Dp :=
  let d := recHist 0 (readBucket lat ceiling) lat d
  if ceiling then
    let d := { d with ceil := { d.ceil with maxNs := max d.ceil.maxNs (sat 0xFFFF lat) } }
    if lat ≤ 1000 then d
    else
      let d := { d with ceil := { d.ceil with breach := satInc 0xFFFFFFFF d.ceil.breach, lastValid := true,
                                                lastNs := sat 0xFFFF lat, lastTs := d.now } }
      pmuCount c 0 0x1C 1 (raise 0x40 0x30 line.toNat 0 0x00 0 d)
  else
    pmuCount c 0 0x1B 1 { d with ceil := { d.ceil with faultReads := satInc 0xFFFFFFFF d.ceil.faultReads } }

/-- Route code of a sample (R421). -/
def Route.code : Route → Nat
  | .cache => 0
  | .unmapped => 1
  | .direct => 2
  | .busy => 3
  | .hot => 4
  | .lost => 5
  | .notAccepted => 6

/-- A stage delta of a sample: ns after Accept; all ones when the stage was not passed (R421). -/
def stageDelta (acc : Stamp) : Option Stamp → BitVec 32
  | none => 0xFFFFFFFF
  | some t => BitVec.ofNat 32 (min (elapsed acc t) 0xFFFFFFFE)

/-- The sample of a tagged request (R421). -/
def mkSample (kind : Nat) (route : Route) (esc poison fault : Bool) (line : SecAddr) (acc : Stamp)
    (tr is re de rc : Option Stamp) (now : Stamp) (lat : Nat) : Sample :=
  [BitVec.ofNat 64 (kind * 2 ^ 61 + route.code * 2 ^ 58 + b2n esc * 2 ^ 57 + b2n poison * 2 ^ 56 + b2n fault * 2 ^ 55 +
      line.toNat),
   acc,
   stageDelta acc is ++ stageDelta acc tr,
   stageDelta acc de ++ stageDelta acc re,
   stageDelta acc (some now) ++ stageDelta acc rc,
   BitVec.ofNat 64 (sat 0xFFFF lat), 0, 0]

/-- Unread records in the sample ring (R422). -/
def sampleCount (d : Dp) : Nat := (d.pmu.wr - d.pmu.rd).toNat

/-- Write a sample: dropped when 255 are unread; vector 71 once when the threshold is reached (R422). -/
def putSample (c : Ctl) (x : Sample) (d : Dp) : Dp :=
  if sampleCount d = 255 then { d with pmu := { d.pmu with dropped := satInc 0xFF d.pmu.dropped } }
  else
    let d1 := { d with pmu := { d.pmu with ring := smSet [] d.pmu.ring d.pmu.wr.toNat x, wr := d.pmu.wr + 1 } }
    let thr := rg c 0x2003800 20 8
    if thr ≠ 0 ∧ thr ≤ sampleCount d1 ∧ d1.pmu.thrSent = false then
      msix 71 { d1 with pmu := { d1.pmu with thrSent := true } }
    else d1

/-- Move the ring's read index; the threshold message is armed again below the threshold (R422). -/
def moveRd (c : Ctl) (rd : BitVec 8) (d : Dp) : Dp :=
  let d1 := { d with pmu := { d.pmu with rd := rd } }
  if sampleCount d1 < rg c 0x2003800 20 8 then { d1 with pmu := { d1.pmu with thrSent := false } } else d1

/-- Tagged requests in flight (R419). -/
def taggedInFlight (d : Dp) : Nat := (d.acc.pend.filter fun p => p.tagged).length

/-- The tagging countdown at the acceptance of a request (R419): whether it is tagged. -/
def tagAccept (c : Ctl) (write : Bool) (d : Dp) : Bool × Dp :=
  if rb c 0x2003800 31 = false ∨ rb c 0x2003800 (if write then 29 else 30) = false then (false, d)
  else if 1 < d.pmu.countdown then (false, { d with pmu := { d.pmu with countdown := d.pmu.countdown - 1 } })
  else
    let x := lfsr32 d.pmu.lfsr
    let n := max 1 (rg c 0x2003800 0 20)
    let d1 := { d with pmu := { d.pmu with lfsr := x, countdown := 1 + x.toNat % (2 * n - 1) } }
    if taggedInFlight d < 8 then (true, d1)
    else (false, { d1 with pmu := { d1.pmu with skipped := satInc 0xFF d1.pmu.skipped } })

/-- The read record of a tag. -/
def findRead (d : Dp) (tag : Nat) : Option Read := d.acc.reads.find? fun r => r.tag = tag

/-- Change the read record of a tag. -/
def modRead (tag : Nat) (f : Read → Read) (d : Dp) : Dp :=
  { d with acc := { d.acc with reads := mapIf (fun r => r.tag = tag) f d.acc.reads } }

/-- Remove the read record of a tag. -/
def dropRead (tag : Nat) (d : Dp) : Dp :=
  { d with acc := { d.acc with reads := d.acc.reads.filter fun r => r.tag ≠ tag } }

/-- Whether a response carries poison. -/
def Resp.poisoned : Resp → Bool
  | .memData _ _ p => p
  | .cmp _ => false

/-- Whether a response is a data response. -/
def Resp.isData : Resp → Bool
  | .memData _ _ _ => true
  | .cmp _ => false

/-- Whether an S2M credit is at hand for a response (R252). -/
def hasS2m (r : Resp) (d : Dp) : Bool := if r.isData then 0 < d.hif.drs else 0 < d.hif.ndr

/-- Whether the answer of a request may leave: an S2M credit is at hand and the CXL.mem stream may carry it (R252, R256). With
the link down, or to a request from before the link last went down, a response is discarded (R262). -/
def s2mReady (p : Pend) (r : Resp) (d : Dp) : Bool := !linkUp d || p.void || !d.hif.ideFailed && hasS2m r d

/-- The wait of an answer for its S2M credit is over (R252, HIF_S2M_STALL). -/
def closeWait (tag : Nat) (d : Dp) : Dp :=
  let w := match d.hif.resps.find? fun x => x.2.1 = tag with
    | some x => elapsed x.1 d.now
    | none => 0
  { d with hif := { d.hif with
      resps := d.hif.resps.filter fun x => x.2.1 ≠ tag
      stallMax := max d.hif.stallMax (sat 0xFFFF w) } }

/-- Use an S2M credit, and close the record of the wait for it (R252). -/
def useS2m (tag : Nat) (r : Resp) (d : Dp) : Dp :=
  let d := closeWait tag d
  { d with hif := { d.hif with
      drs := if r.isData then d.hif.drs - 1 else d.hif.drs
      ndr := if r.isData then d.hif.ndr else d.hif.ndr - 1 } }

/-- The counters and histograms an answer updates, and its sample if it is tagged. -/
def recordAnswer (c : Ctl) (p : Pend) (r : Resp) (d : Dp) : Dp :=
  let lat := elapsed p.arrived d.now
  let rd := findRead d p.tag
  let fault := (rd.map (·.fault)).getD false
  let ceiling := p.serve && !fault
  let d := if r.isData then recordRead c p.line lat ceiling d else d
  let d := if r.poisoned then pmuCount c 0 0x1A 1 d else d
  let d := if p.write && d.sup.mode = .serve then recHist 1 (writeBucket lat p.part) lat d else d
  if p.tagged then
    let kind := if p.part then 2 else if p.write then 1 else 0
    putSample c
      (match rd with
       | some x => mkSample kind x.route x.escalated r.poisoned (!ceiling) p.line x.accept x.translate x.issue x.ret
           x.decode x.recon d.now lat
       | none => mkSample kind (if p.reject then .notAccepted else .cache) false r.poisoned (r.isData && !ceiling) p.line p.arrived none none none none none
           d.now lat) d
  else d

/-- Hand an answer to the CXL island: it leaves the block, its latency is recorded and its pool entry is freed
(R70). The caller has taken the request off the pending list. -/
def sendAnswer (c : Ctl) (p : Pend) (r : Resp) (d : Dp) : Dp :=
  let d := if p.void then closeWait p.tag d else useS2m p.tag r d
  let d := if linkUp d && !p.void then emit (.resp p.tag r) (if r.isData then pmuBytes 1 64 d else d) else d
  let d := recordAnswer c p r d
  let d := match findRead d p.tag with
    | some x => if x.cwOut && x.escalated then modRead p.tag (fun y => { y with phase := .done }) d
                else dropRead p.tag d
    | none => d
  freeEntry c d

/-- Note that a formed answer waits for an S2M credit (R252). With the credit at hand it waits for a secure stream (R256), which
is no such wait. -/
def stallAnswer (c : Ctl) (p : Pend) (r : Resp) (d : Dp) : Dp :=
  if hasS2m r d then closeWait p.tag d
  else if d.hif.resps.any fun x => x.2.1 = p.tag then d
  else pmuCount c 0 0x20 1
    { d with hif := { d.hif with resps := d.hif.resps ++ [(d.now, p.tag, r)],
                                 stallCount := satInc 0xFFFF d.hif.stallCount } }

/-- Let every answer leave that is formed, has no earlier request of its line unanswered and has its credit, in order
of acceptance (R252, R254). `kept` holds the requests passed over. -/
def flushGo (c : Ctl) : List Pend → List Pend → Dp → Dp
  | [], kept, d => { d with acc := { d.acc with pend := kept.reverse } }
  | p :: ps, kept, d =>
    match p.ans with
    | none => flushGo c ps (p :: kept) d
    | some r =>
      if kept.any fun q => q.line = p.line then flushGo c ps (p :: kept) d
      else if s2mReady p r d then
        flushGo c ps kept (sendAnswer c p r { d with acc := { d.acc with pend := kept.reverse ++ ps } })
      else flushGo c ps (p :: kept) (stallAnswer c p r d)

/-- A phase 2 of Global Persistent Flush is acknowledged once every CXL.mem write received before it is inside the
persistence domain; the whole domain is then cleaned in the background (R119). -/
def gpfSettle (d : Dp) : Dp :=
  match d.hif.gpf with
  | none => d
  | some t =>
    if (d.acc.pend.any fun p => p.write && p.ans.isNone && decide (p.arrived ≤ t)) ||
        (d.acc.held.any fun r => r.2.isWrite && decide (r.1 ≤ t)) then d
    else emit (.gpfAck 2) { d with hif := { d.hif with gpf := none }, lc := { d.lc with gpfClean := true } }

/-- Let answers leave (R254). -/
def flushAnswers (c : Ctl) (d : Dp) : Dp := gpfSettle (flushGo c d.acc.pend [] d)

/-- Form the answer of an accepted request, and let answers leave. -/
def answer (c : Ctl) (tag : Nat) (r : Resp) (d : Dp) : Dp :=
  flushAnswers c
    { d with acc := { d.acc with pend := mapIf (fun p => p.tag = tag) (fun p => { p with ans := some r }) d.acc.pend } }

/-- Accept a request: it takes the next tag and joins the pending list (R70, R251). The caller has taken the host's
credit. -/
def acceptReq (c : Ctl) (line : SecAddr) (write part reject : Bool) (d : Dp) : Dp :=
  let t := tagAccept c write d
  { t.2 with acc := { t.2.acc with
      nextTag := t.2.acc.nextTag + 1
      pend := t.2.acc.pend ++ [{
        tag := t.2.acc.nextTag, line := line, write := write, part := part
        serve := t.2.sup.mode = .serve && t.2.acc.lateSince.isNone, tagged := t.1, reject := reject
        arrived := t.2.acc.lateSince.getD t.2.now, ans := none }] } }

/-- Note the data of the whole-sector write accepted under a tag, which requests to its line that still wait will see (R254). -/
def noteWhole (tag : Nat) (v : Sector) (poison : Bool) (d : Dp) : Dp :=
  { d with acc := { d.acc with
    pend := mapIf (fun p => p.tag = tag) (fun p => { p with whole := some (v, poison) }) d.acc.pend } }

/-- The request accepted last. -/
def lastPend (d : Dp) : Option Pend := d.acc.pend.getLast?

/-- The host uses one of its Req credits (R251). -/
def takeReqCredit (d : Dp) : Dp := { d with hif := { d.hif with hr := d.hif.hr - 1 } }

/-- The host uses one of its RwD credits (R251). -/
def takeRwdCredit (d : Dp) : Dp := { d with hif := { d.hif with hw := d.hif.hw - 1 } }

/-- HPA to DPA (R260): the committed decoder whose HPA range covers the address, and the DPA. -/
def hdmDecode (d : Dp) (hpa : BitVec 52) : Option (Nat × Nat) :=
  (List.range 4).findSome? fun n =>
    let x := d.hif.decoders.getD n {}
    if x.committed ∧ x.base.toNat ≤ hpa.toNat ∧ hpa.toNat < x.base.toNat + x.size.toNat then
      let off := hpa.toNat - x.base.toNat
      some (n, x.start + off / (x.ig * x.iw) * x.ig + off % x.ig)
    else none

/-- An answer to a request that is not accepted (R253): it is not ordered, takes no pool entry, and leaves when sent.
It is sampled nowhere. -/
def rejectAnswer (r : Resp) (d : Dp) : Dp := if linkUp d then emit (.resp d.acc.nextTag r) d else d

end Sys2Proof.Machine
end

