-- ==== Sys2Proof/Machine/HbmOps.lean ====
section
/-! DEFINITION. The HBM subsystem: where each structure lies (R197 to R199), refresh windows (R200, R201, R207), the
pseudo-channel queues and their entry arbiters (R202, R203), activation tables and pacing (R206, R208), repair (R215,
R216) and the start of a fill (R175). -/

namespace Sys2Proof.Machine

/-- The partner pseudo-channel (R199). -/
def partner (pc : Nat) : Nat := pc ^^^ 16

/-- Words of one copy of the mapping table (R48): 4 entries each. -/
def mapWords (d : Dp) : Nat := hostPages (cfgN d) / 4

/-- The position v of a word of the mapping table (R199). -/
def layoutPos (key : BitVec 256) (n w : Nat) : Nat := if h : w < n then (Config.layout key n ⟨w, h⟩).val else w

/-- The HBM position of the word holding a page's entry in copy A (R199): pseudo-channel, bank, row, column. Copy B has the
same bank, row and column in the partner, so the words of the two halves of the pseudo-channels take rows apart. The
order of row, bank and column within v div 32 is the model's (DESIGN CHOICE, log entry 45). -/
def entryPos (d : Dp) (p : Nat) : Nat × Nat × Nat × Nat :=
  let v := layoutPos d.hbm.layoutKey (mapWords d) (p / 4)
  let x := v / 32 + (if v % 32 < 16 then 0 else mapWords d / 32)
  (v % 32, x / 32 % 48, x / 1536, x % 32)

/-- Split a word index under an address order (R197): bank position, row, column. -/
def hbmSplit (order : BitVec 2) (w : Nat) : Nat × Nat × Nat :=
  match order.toNat with
  | 0 => (w / 32 / 24576 % 48, w / 32 % 24576, w % 32)
  | 1 => (w / 32 % 48, w / 32 / 48 % 24576, w % 32)
  | 2 => (w / 12 % 4 * 12 + w % 12, w / 48 / 32 % 24576, w / 48 % 32)
  | _ => (w % 4 * 12 + w / 4 % 12, w / 48 / 32 % 24576, w / 48 % 32)

/-- Elements in a 32-byte word of a structure (R52, R128, R138, R144). -/
def HStr.perWord : HStr → Nat
  | .wear => 16
  | .state => 32
  | .heat => 32
  | .bitmap => 256
  | .disturb => 8
  | .firmware => 1

/-- Where a structure starts within its share of a pseudo-channel, in words behind the mapping table: in the order and
with the W4 sizes of R198 (DESIGN CHOICE, log entry 45). -/
def HStr.base : HStr → Nat
  | .wear => 0
  | .state => 4194304
  | .heat => 6291456
  | .bitmap => 7864320
  | .disturb => 8126464
  | .firmware => 8161280

/-- The word index of word i behind the mapping table (R197, R198): rows 0 to 16,383 of every bank are the mapping copies',
rows 24,574 and 24,575 the remap spare rows. -/
def wordIndex (order : BitVec 2) (i : Nat) : Nat :=
  if order = 0 then i / (8190 * 32) * (24576 * 32) + 16384 * 32 + i % (8190 * 32) else 16384 * 1536 + i

/-- The place of a word of a structure (R198): one thirty-second of the words in each pseudo-channel, word number mod 32
naming it (DESIGN CHOICE, log entry 45). -/
def structPos (d : Dp) (s : HStr) (word : Nat) : Nat × Nat × Nat × Nat :=
  (word % 32, hbmSplit d.hbm.order (wordIndex d.hbm.order (s.base + word / 32)))

/-- A message's address of an HBM position (R313). -/
def hbmAddr (bank row col : Nat) : Nat := bank * 2 ^ 20 + row * 2 ^ 5 + col

/-- The row that an access to a row reaches: a remapped one is redirected to its spare row (R216). -/
def physRow (d : Dp) (pc bank row : Nat) : Nat :=
  match d.hbm.rows.find? fun r => r.pc = pc && r.bank = bank && r.row = row && r.spare ≠ 0 with
  | some r => r.spare
  | none => row

/-- The slot of the rotation in which a bank position is refreshed (R200). -/
def refreshDue (b : Nat) : Nat := b + b / 3

/-- Slots of the rotation from slot b forward to slot a. -/
def slotGap (a b : Nat) : Nat := (a + 64 - b % 64) % 64

/-- Whether the own part of a refresh window is open (R201): from the moment its REFpb or RFM became due until 60 ns after that
command issued. -/
def winOpen (now : Stamp) (w : RefWin) : Bool :=
  match w.issued with
  | none => true
  | some t => decide (elapsed t now < 60)

/-- Whether a bank is inside its own part of a refresh window (R201). -/
def ownWindow (d : Dp) (pc b : Nat) : Bool := d.hbm.wins.any fun w => w.pc = pc && w.bank = b && winOpen d.now w

/-- Whether a REFpb or RFM that has issued still keeps its bank from activation (R207). -/
def bankBusy (d : Dp) (pc b : Nat) : Bool :=
  d.hbm.wins.any fun w => w.pc = pc && w.bank = b && w.issued.isSome && winOpen d.now w

/-- Whether the slot that lies a number of slots ahead begins within 96 ns (R201). -/
def within96 (d : Dp) (pc ahead : Nat) : Bool :=
  1 ≤ ahead && decide (ahead * 29 ≤ 96 + min 29 (elapsed (smGet 0 d.hbm.slotAt pc) d.now))

/-- Whether an RFM for a bank may issue in slot s of a pseudo-channel (R207): neither its window nor the guard part it opens
in the partner meets a window of the bank. In slots of 29 ns that is 7 slots from the bank's own REFpb, 4 from the
partner's (DEDUCED, log entry 24). -/
def rfmClear (d : Dp) (pc bank s : Nat) : Bool :=
  let q := (s + 32) % 64
  let far := fun (n t : Nat) => n ≤ slotGap (refreshDue bank) t && n ≤ slotGap t (refreshDue bank)
  far 7 s && far 4 q && !ownWindow d (partner pc) bank

/-- The request that an RFM slot serves which begins in a number of ns (R207): the first that may issue there, requested early
enough for the 96 ns of its guard part (R201). -/
def rfmPick (d : Dp) (pc s lead : Nat) : Option (Nat × Nat × Stamp) :=
  d.hbm.rfm.find? fun x => x.1 = pc && rfmClear d pc x.2.1 s && decide (96 ≤ elapsed x.2.2 d.now + lead)

/-- Whether a bank is inside the guard part of its refresh window (R201): the 96 ns before a REFpb or RFM of the same bank
position in the partner becomes due. -/
def inGuard (d : Dp) (pc b : Nat) : Bool :=
  let q := partner pc
  let s := smGet 0 d.hbm.slot q
  within96 d q (slotGap (refreshDue b) s) ||
  (let ahead := 4 - (s + 1) % 4
   let lead := ahead * 29 - elapsed (smGet 0 d.hbm.slotAt q) d.now
   (rfmPick d q ((s + ahead) % 64) lead).any (·.2.1 = b) && within96 d q ahead)

/-- Whether a copy counts as refreshing (R201). -/
def refreshing (d : Dp) (pc b : Nat) : Bool := ownWindow d pc b || inGuard d pc b

/-- The copy a mapping read takes (R48): the one that is not refreshing, copy A when neither is. -/
def pickCopyB (d : Dp) (p : Nat) : Bool :=
  let x := entryPos d p
  refreshing d x.1 x.2.1

/-- Count an activation in a table of a given size (R206): a row not in the table takes the entry with the lowest
count and starts from that count plus 1. The new count is returned. -/
def actCount (size pc bank row : Nat) (t : List Act) : Nat × List Act :=
  match t.find? fun a => a.pc = pc ∧ a.bank = bank ∧ a.row = row with
  | some a => (a.count + 1, mapIf (fun x => x = a) (fun x => { x with count := x.count + 1 }) t)
  | none =>
    let mine := t.filter fun a => a.pc = pc
    if mine.length < size then (1, t ++ [⟨pc, bank, row, 1⟩])
    else
      let m := mine.foldl (fun a x => min a x.count) ((mine.head?.map (·.count)).getD 0)
      match mine.find? fun a => a.count = m with
      | some v => (m + 1, t.erase v ++ [⟨pc, bank, row, m + 1⟩])
      | none => (1, t ++ [⟨pc, bank, row, 1⟩])

/-- A host-derived activation (R206): at the threshold an RFM is requested for the bank and the entry is cleared. -/
def hostActivate (c : Ctl) (pc bank row : Nat) (d : Dp) : Dp :=
  let r := actCount 2048 pc bank row d.hbm.hostAct
  if r.1 < rg c 0x100010 20 12 then { d with hbm := { d.hbm with hostAct := r.2 } }
  else { d with hbm := { d.hbm with
      hostAct := r.2.filter fun a => !(a.pc = pc ∧ a.bank = bank ∧ a.row = row)
      rfm := if d.hbm.rfm.any fun x => x.1 = pc && x.2.1 = bank then d.hbm.rfm else d.hbm.rfm ++ [(pc, bank, d.now)] } }

/-- A background or firmware activation (R208): at the threshold its requester is paced at the pseudo-channel. `requester`
is none for a mapping-entry write, which is counted and never paced (R203). -/
def bgActivate (c : Ctl) (requester : Option Nat) (pc bank row : Nat) (d : Dp) : Dp :=
  let r := actCount 256 pc bank row d.hbm.bgAct
  let d1 := { d with hbm := { d.hbm with bgAct := r.2 } }
  match requester with
  | none => d1
  | some q =>
    if r.1 < rg c 0x100010 10 10 || d.hbm.paced.any fun x => x.pc = pc && x.req = q then d1
    else pmuCount c 20 0x16 1 { d1 with hbm := { d1.hbm with
        paced := d1.hbm.paced ++ [⟨pc, q, bank, row, some d.now⟩], pacedCount := satInc 0xFFF d1.hbm.pacedCount } }

/-- Entries of a pseudo-channel's queue that have not issued (R202). -/
def places (d : Dp) (pc : Nat) : Nat :=
  (d.hbm.queue.filter fun e => e.pc = pc && !e.issued).foldl (fun n e => n + e.n) 0

/-- The ring number of a requester at the entry arbiter (R29): host mapping reads, counter updates, background engines,
firmware. A mapping-entry write takes the place of the background engines (DESIGN CHOICE, log entry 153). -/
def HbmUse.ring : HbmUse → Nat
  | .hostRead _ => 0
  | .counter => 1
  | .back r => r
  | .mapWrite _ _ => 2
  | .refresh => 2

/-- Whether a paced requester's interval is over (R208). -/
def unpaced (c : Ctl) (d : Dp) (pc q : Nat) : Bool :=
  d.hbm.paced.all fun x => !(x.pc = pc && x.req = q) || (match x.last with
    | some t => decide (rg c 0x100010 0 4 * 500 ≤ elapsed t d.now)
    | none => true)

/-- The gather buffer of a pseudo-channel (R203): its first 256 waiting increments. What comes while it is full waits outside
(log entry 123). -/
def gathered (d : Dp) (pc : Nat) : List HbmEnt := (d.hbm.wait.filter fun x => x.pc = pc && x.use = .counter).take 256

/-- Whether the entry arbiter lets an entry in now (R203). -/
def admissible (c : Ctl) (d : Dp) (e : HbmEnt) : Bool :=
  places d e.pc + e.n ≤ 8 &&
  let bankOpen := !refreshing d e.pc e.bank && !(d.hbm.queue.any fun x => x.pc = e.pc && x.bank = e.bank && !x.issued)
  match e.use with
  | .hostRead _ => true
  | .refresh => true
  | .counter => bankOpen && decide (e ∈ gathered d e.pc)
  | .mapWrite _ _ => bankOpen
  | .back q => bankOpen && unpaced c d e.pc q

/-- Distance of a requester from the last one admitted, round the ring (R27); a REFpb or RFM comes before any (R203). -/
def ringDist (d : Dp) (e : HbmEnt) : Nat :=
  if e.use = .refresh then 0 else 1 + (e.use.ring + 3 - smGet 3 d.hbm.lastWin e.pc % 4) % 4

/-- The entry that is let in next: of those a pseudo-channel may let in, the one whose requester comes first on the
ring. -/
def hbmPick (c : Ctl) (d : Dp) : Option HbmEnt :=
  d.hbm.wait.find? fun e => admissible c d e &&
    !(d.hbm.wait.any fun f => f.pc = e.pc && decide (ringDist d f < ringDist d e) && admissible c d f)

/-- Count the activations of an admitted entry: closed pages, so each read and each write is one (R194, R206, R208); a
write to a row of the recurring-correction table counts there (R173). -/
def activate (c : Ctl) (e : HbmEnt) (d : Dp) : Dp :=
  let row := physRow d e.pc e.bank e.row
  let times := fun (f : Dp → Dp) (d : Dp) => if e.n = 2 then f (f d) else f d
  match e.use with
  | .hostRead _ => hostActivate c e.pc e.bank row d
  | .counter => rctWritten (.hbm e.pc e.bank e.row) (times (hostActivate c e.pc e.bank row) (pmuCount c 20 0x12 e.n d))
  | .mapWrite _ _ => rctWritten (.hbm e.pc e.bank e.row) (bgActivate c none e.pc e.bank row d)
  | .back q => rctWritten (.hbm e.pc e.bank e.row) (times (bgActivate c (some q) e.pc e.bank row) (pmuCount c 20 0x13 e.n d))
  | .refresh => d

/-- Admit an entry to its queue (R203). -/
def letIn (c : Ctl) (e : HbmEnt) (d : Dp) : Dp :=
  let d1 := activate c e { d with hbm := { d.hbm with
    wait := d.hbm.wait.erase e, queue := d.hbm.queue ++ [e]
    lastWin := if e.use = .refresh then d.hbm.lastWin else smSet 3 d.hbm.lastWin e.pc e.use.ring } }
  { d1 with hbm := { d1.hbm with
    paced := mapIf (fun x => x.pc = e.pc && e.use = .back x.req) (fun x => { x with last := some d.now }) d1.hbm.paced } }

/-- Admit what can be admitted, up to a number of entries. -/
def admitGo (c : Ctl) : Nat → Dp → Dp
  | 0, d => d
  | n + 1, d => match hbmPick c d with
    | some e => admitGo c n (letIn c e d)
    | none => d

/-- The entry arbiters let in what they can (R203). -/
def hbmServe (c : Ctl) (d : Dp) : Dp := admitGo c d.hbm.wait.length d

/-- A new entry comes to its entry arbiter. An increment for a word that is gathered already adds to it (R203). -/
def hbmSend (c : Ctl) (e : HbmEnt) (d : Dp) : Dp :=
  if e.use = .counter && decide (e ∈ gathered d e.pc) then d
  else hbmServe c { d with hbm := { d.hbm with wait := d.hbm.wait ++ [e] } }

/-- Note a word that is being read, for its check bits (R168). -/
def touch (s : HStr) (word : Nat) (d : Dp) : Dp :=
  { d with hbm := { d.hbm with touched := d.hbm.touched ++ [(s, word)] } }

/-- A write of one word, by firmware (3) or the background engines (2), comes to its entry arbiter. -/
def postWrite (requester pc bank row col : Nat) (d : Dp) : Dp :=
  { d with hbm := { d.hbm with wait := d.hbm.wait ++ [⟨pc, bank, row, col, .back requester, 1, false⟩] } }

/-- A word of a structure is written again with valid check bits (R168). -/
def postWord (requester : Nat) (s : HStr) (word : Nat) (d : Dp) : Dp :=
  let x := structPos d s word
  postWrite requester x.1 x.2.1 x.2.2.1 x.2.2.2 d

/-- A read-modify-write of an element of a structure: two entries of one word (R202). -/
def hbmUpdate (c : Ctl) (use : HbmUse) (s : HStr) (elem : Nat) (d : Dp) : Dp :=
  let w := elem / s.perWord
  let x := structPos d s w
  hbmSend c ⟨x.1, x.2.1, x.2.2.1, x.2.2.2, use, 2, false⟩ (touch s w d)

/-- A read-modify-write that the arbiters take up with the next one: an access of the background engines (2) or of firmware
(3) to an element of a structure. -/
def hbmPost (requester : Nat) (s : HStr) (elem : Nat) (d : Dp) : Dp :=
  let w := elem / s.perWord
  let x := structPos d s w
  let d1 := touch s w d
  { d1 with hbm := { d1.hbm with wait := d1.hbm.wait ++ [⟨x.1, x.2.1, x.2.2.1, x.2.2.2, .back requester, 2, false⟩] } }

/-- The write of a page's entry in a mirror copy comes to its entry arbiter (R50, R203). -/
def postMapWrite (p : Nat) (copyB : Bool) (d : Dp) : Dp :=
  let x := entryPos d p
  { d with hbm := { d.hbm with
      wait := d.hbm.wait ++ [⟨if copyB then partner x.1 else x.1, x.2.1, x.2.2.1, x.2.2.2, .mapWrite p copyB, 1, false⟩] } }

/-- A disturb-counter update on the host path (R138, R203, R206). -/
def counterUpdate (c : Ctl) (elem : Nat) (d : Dp) : Dp := hbmUpdate c .counter .disturb elem d

/-- A read-modify-write by the background engines (R203, R208). -/
def bgAccess (c : Ctl) (s : HStr) (elem : Nat) (d : Dp) : Dp := hbmUpdate c (.back 2) s elem d

/-- A host mapping read is sent to a pseudo-channel (R202, R203). -/
def sendMapRead (c : Ctl) (tag p : Nat) (copyB : Bool) (d : Dp) : Dp :=
  let x := entryPos d p
  hbmSend c ⟨if copyB then partner x.1 else x.1, x.2.1, x.2.2.1, x.2.2.2, .hostRead tag, 1, false⟩ d

/-- Whether an entry is a host mapping read. -/
def HbmEnt.isRead (e : HbmEnt) : Bool := match e.use with
  | .hostRead _ => true
  | _ => false

/-- Whether the data of a host mapping read may return: read data returns in issue order (R202). -/
def readTurn (d : Dp) (tag : Nat) : Bool :=
  match d.hbm.queue.find? fun e => e.use = .hostRead tag with
  | some e => d.hbm.queue.find? (fun x => x.pc = e.pc && x.isRead) = some e
  | none => false

/-- Whether an entry is a mapping-entry write, which stays with its queue until it is acknowledged (R50). -/
def HbmEnt.isMapWrite (e : HbmEnt) : Bool := match e.use with
  | .mapWrite _ _ => true
  | _ => false

/-- The refresh commands that have left their queues have issued: their windows run on for 60 ns (R201). -/
def noteIssued (d : Dp) : Dp :=
  let waits := fun (w : RefWin) => (d.hbm.queue ++ d.hbm.wait).any fun e => e.use = .refresh && e.pc = w.pc && e.bank = w.bank
  let fresh := d.hbm.wins.filter fun w => w.issued.isNone && !waits w
  { d with hbm := { d.hbm with
      wins := mapIf (fun w => w.issued.isNone && !waits w) (fun w => { w with issued := some d.now }) d.hbm.wins
      maxDelay := fresh.foldl (fun a w => max a (min 28 (elapsed w.due d.now))) d.hbm.maxDelay } }

/-- The data of a host mapping read has returned: what stood ahead of it in its queue has issued (R202). -/
def readOver (c : Ctl) (tag : Nat) (d : Dp) : Dp :=
  match d.hbm.queue.find? fun e => e.use = .hostRead tag with
  | none => d
  | some e =>
    let gone := fun (x : HbmEnt) => x.use ≠ .hostRead tag
    let ahead := (d.hbm.queue.takeWhile gone).filter fun x => x.pc ≠ e.pc || x.isMapWrite
    hbmServe c (noteIssued { d with hbm := { d.hbm with
      queue := mapIf (fun x => x.pc = e.pc) (fun x => { x with issued := true }) ahead ++ (d.hbm.queue.dropWhile gone).tail } })

/-- Whether the next entry of a queue has to wait for its bank, or a refresh command for its own time (R202, R207). -/
def entryHeld (d : Dp) (e : HbmEnt) : Bool :=
  bankBusy d e.pc e.bank ||
  (e.use = .refresh && d.hbm.wins.any fun w =>
    w.pc = e.pc && w.bank = e.bank && w.issued.isNone && decide (elapsed w.due d.now < w.delay))

/-- One issue at each pseudo-channel whose number is not among those served (R202): a read waits for its data and a
mapping-entry write for its acknowledgement, any other entry is over; an entry that is held holds those behind it. -/
def issueGo (hold : HbmEnt → Bool) : List Nat → List HbmEnt → List HbmEnt
  | _, [] => []
  | served, e :: l =>
    if e.issued || decide (e.pc ∈ served) then e :: issueGo hold served l
    else if hold e then e :: issueGo hold (e.pc :: served) l
    else if e.isRead || e.isMapWrite then { e with issued := true } :: issueGo hold (e.pc :: served) l
    else if e.n = 2 then { e with n := 1 } :: issueGo hold (e.pc :: served) l
    else issueGo hold (e.pc :: served) l

/-- The queues go on for 1 ns: each issues its next entry, inside the 3.5 ns of R202, and the arbiters let in more. -/
def hbmRuns (c : Ctl) (d : Dp) : Dp :=
  if d.hbm.queue = [] && d.hbm.wait = [] then d
  else hbmServe c (noteIssued { d with hbm := { d.hbm with queue := issueGo (entryHeld d) [] d.hbm.queue } })

/-- Record an HBM row for repair, at most 64 (R172, R215). A row that is remapped already is recorded for the other spare
row (DEDUCED from R216, log entry 135). -/
def recordHbmRow (pc bank row : Nat) (d : Dp) : Dp :=
  let same := fun (r : HbmRow) => r.pc = pc && r.bank = bank && r.row = row
  let put := fun (rows : List HbmRow) =>
    modDev 36 (fun r => { r with repairs := rows }) { d with hbm := { d.hbm with rows := rows } }
  if d.hbm.rows.any same then
    if d.hbm.rows.any fun r => same r && r.how = 2 && r.spare = 24574 then put (mapIf same (fun r => { r with how := 0 }) d.hbm.rows)
    else d
  else if d.hbm.rows.length < 64 then put (d.hbm.rows ++ [⟨pc, bank, row, 0, false, 0⟩])
  else d

/-- Repair one recorded row (R215, R216), beside the rows repaired before it: the bank's soft-repair row, for a second row
of the bank a spare row while the remap table has room, else not at all. -/
def repairRow (r : HbmRow) (done : List HbmRow) : HbmRow :=
  let same := done.filter fun x => x.pc = r.pc && x.bank = r.bank
  if r.spare = 24574 then { r with how := 2, spare := 24575 }
  else if !(same.any fun x => x.how = 1) then { r with how := 1 }
  else if same.length ≤ 1 ∧ (done.filter fun x => x.how = 2).length < 64 then { r with how := 2, spare := 24574 }
  else { r with how := 3 }

/-- Repair the rows that wait for it; with `all`, at a RISE, every soft repair is made again, and a row whose hard repair
has been commanded leaves the records, its row replaced by the stack's fuses (R215). -/
def applyRepairs (all : Bool) (d : Dp) : Dp :=
  let todo := fun (r : HbmRow) => r.how = 0 || (all && r.how = 1)
  let rows := if all then d.hbm.rows.filter fun r => !r.hard else d.hbm.rows
  let done := (rows.filter todo).foldl (fun a r => a ++ [repairRow r a]) (rows.filter fun r => !todo r)
  let fresh := done.filter fun r => r.how = 3 && !(d.hbm.rows.any fun x => x = r)
  let d1 := modDev 36 (fun r => { r with repairs := done }) { d with hbm := { d.hbm with rows := done } }
  fresh.foldl (fun d r => raise (0x20 + r.pc) 0x23 (hbmAddr r.bank r.row 0) 0 0x0C 0 d) d1

/-- The rotations of all pseudo-channels stand before slot 0, those of the upper 16 behind by 32 slots (R200, R214). -/
def startRotation (d : Dp) : Dp :=
  { d with hbm := { d.hbm with
      slot := (List.range 32).map fun i => (i, if i < 16 then 63 else 31)
      slotAt := if d.now = 0 then [] else (List.range 32).map fun i => (i, d.now)
      wins := [] } }

/-- The fill begins (R175, R199, R212, R215): recorded rows are repaired, a layout key is drawn, the rotations run, and every
word is to hold zero data with its check bits, so that each structure has its initial value. -/
def beginFill (d : Dp) : Dp :=
  let x := applyRepairs true d
  bump (startRotation { x with
    hbm := { x.hbm with state := 3, layoutKey := (rngNow x).extractLsb' 0 256, queue := [], wait := [], touched := [] }
    map := { x.map with copyA := [], copyB := [], state := [], failed := [], unsure := [], unsureState := [] }
    mh := { x.mh with wear := [], heat := [], disturb := [] } })

end Sys2Proof.Machine
end

