-- ==== Sys2Proof/Machine/MapOps.lean ====
section
/-! DEFINITION. Translation and its upkeep: the keyed allocator (R53), changes of a mapping entry (R50, R51), the
change records of the journal (R109, R144), HBM activations (R199 to R208), repair records (R215, R216) and the
recurring-correction table (R171 to R174). -/

namespace Sys2Proof.Machine

/-- Four rounds of the balanced Feistel network on 32 bits (R53), rounds from i on (log entry 23). -/
def feistel (key : BitVec 256) : Nat → BitVec 2 → BitVec 16 → BitVec 16 → BitVec 32
  | 0, _, l, r => l ++ r
  | n + 1, i, l, r => feistel key n (i + 1) r (l ^^^ placeRound key i r)

/-- perm of R53. -/
def permKey (key : BitVec 256) (x : BitVec 32) : BitVec 32 :=
  feistel key 4 0 (x.extractLsb' 16 16) (x.extractLsb' 0 16)

/-- Walk the cycle of the permutation into the 31-bit domain (R53). -/
def permWalk (key : BitVec 256) : Nat → BitVec 32 → Stripe
  | 0, s => s.extractLsb' 0 31
  | n + 1, s => if s.toNat < 2 ^ 31 then s.extractLsb' 0 31 else permWalk key n (permKey key s)

/-- The candidate of a cursor position (R53). -/
def candidate (key : BitVec 256) (cur : BitVec 31) : Stripe :=
  permWalk key (2 ^ 32) (permKey key ((0 : BitVec 1) ++ cur))

/-- The walk of the allocator (R53): the first free candidate after a cursor, and the cursor that names it. -/
def allocGo (d : Dp) (key : BitVec 256) : Nat → BitVec 31 → Option (Stripe × BitVec 31)
  | 0, _ => none
  | n + 1, cur =>
    if stripeFree d (candidate key (cur + 1)) then some (candidate key (cur + 1), cur + 1)
    else allocGo d key n (cur + 1)

/-- Hold a free stripe (R53): none when no stripe is free. -/
def allocate (d : Dp) : Option (Stripe × Dp) :=
  if freeGeneral d = 0 then none
  else (allocGo d (d.sec.placeKey.getD 0) (2 ^ 31) d.map.cursor).map fun r =>
    (r.1, hbmPost 2 .bitmap r.1.toNat
      (spareFalls d { d with map := { d.map with cursor := r.2, heldDst := d.map.heldDst ++ [r.1.toNat] } }))

/-- Give a held stripe back to the bitmap. -/
def unhold (s : Stripe) (d : Dp) : Dp :=
  hbmPost 2 .bitmap s.toNat { d with map := { d.map with heldDst := d.map.heldDst.filter fun x => x ≠ s.toNat } }

/-- Lines of the mapping cache (12 MiB of 8-byte entries, log entry 10). -/
def mapCacheLines : Nat := 1572864

/-- Make room in the mapping cache: the oldest line that is not pinned gives way (log entry 10). -/
def evictMap (l : List MapLine) : List MapLine :=
  if l.length < mapCacheLines then l
  else match l.find? fun m => !m.pinned with
    | some v => l.erase v
    | none => l

/-- Install a looked-up entry in the mapping cache, unless the page has a line there. -/
def cacheEntry (p : Nat) (e : BitVec 64) (d : Dp) : Dp :=
  if d.map.cache.any fun m => m.page = p then d
  else sramWrote 0x22 (p % mapCacheLines) 1
    { d with map := { d.map with cache := evictMap d.map.cache ++ [⟨p, e, false, false, []⟩] } }

/-- The line of the mapping cache for a page. -/
def cacheLine (d : Dp) (p : Nat) : Option MapLine := d.map.cache.find? fun m => m.page = p

/-- Step 1 of R50: the new entry is installed and pinned; the change takes the next change number, and waits behind the
changes of the same entry whose copies are still being written (R50: changes of one entry are serialised). The write of its
copy A comes to its pseudo-channel (R203). -/
def changeEntry (c : Ctl) (p : Nat) (e : BitVec 64) (d : Dp) : Dp :=
  let old := (cacheLine d p).getD ⟨p, e, false, false, []⟩
  let rest := d.map.cache.filter fun m => m.page ≠ p
  (if old.pinned then id else postMapWrite p false) <| pmuCount c 20 0x13 2 <| sramWrote 0x22 (p % mapCacheLines) 1
    { d with
      map := { d.map with cache := evictMap rest ++ [{ old with entry := e, chgs := old.chgs ++ [(d.jrn.nextChg, e)] }] }
      jrn := { d.jrn with nextChg := d.jrn.nextChg + 1 } }

/-- The number of the change made last. -/
def lastChg (d : Dp) : Nat := d.jrn.nextChg - 1

/-- Append a record to the two change-stripe buffers of 248 records (R107, R109): a full one moves aside while the other is
free. While both are full the record waits, behind those that wait already. -/
def putChg (r : ChgRec) (d : Dp) : Dp :=
  let l := d.jrn.open_ ++ [r]
  if d.jrn.late ≠ [] ∨ 248 < l.length then { d with jrn := { d.jrn with late := d.jrn.late ++ [r] } }
  else if 248 ≤ l.length ∧ d.jrn.full = [] then { d with jrn := { d.jrn with full := l, open_ := [], bufNo := 1 - d.jrn.bufNo } }
  else { d with jrn := { d.jrn with open_ := l } }

/-- A change is recorded. Its two words of the SRAM buffer, behind the header slot of 64 bytes, are written (R106, R173,
R461). -/
def appendChg (r : ChgRec) (d : Dp) : Dp :=
  putChg r (if d.jrn.late ≠ [] ∨ 248 ≤ d.jrn.open_.length then d
    else sramWrote 0x26 (d.jrn.bufNo * 512 + 8 + 2 * d.jrn.open_.length) 2 d)

/-- The records that are in no journal stripe yet, oldest first. -/
def bufferedChgs (d : Dp) : List ChgRec := d.jrn.full ++ d.jrn.open_ ++ d.jrn.late

/-- Whether a record is a change of a page with a number up to n. -/
def ChgRec.concerns (page n : Nat) : ChgRec → Bool
  | .entry no p _ => p.toNat = page && no ≤ n
  | .media _ _ _ _ => false

/-- Whether a journal stripe carries a change of a page with a number up to n. -/
def JStripe.concerns (page n : Nat) (s : JStripe) : Bool :=
  match s.body with
  | .change recs => recs.any (ChgRec.concerns page n)
  | _ => false

/-- Whether every change of a page up to number n is durable: none is in its mapping-cache line, a change-stripe
buffer, or a journal stripe not yet verified (R109). -/
def chgDurable (d : Dp) (page n : Nat) : Bool :=
  !(d.map.cache.any fun m => m.page = page && m.chgs.any (·.1 ≤ n)) &&
  !((bufferedChgs d).any (ChgRec.concerns page n)) &&
  !(d.jrn.stripes.any fun s => !s.ok && s.concerns page n)

/-- Write a mirror copy of a page's oldest outstanding change and acknowledge it; once both are, the change goes to the
journal, and the line is unpinned when no other change of it waits (steps 2 to 4 of R50). Copy B is written after copy A. -/
def ackCopy (p : Nat) (copyB : Bool) (d : Dp) : Dp :=
  match cacheLine d p with
  | none => d
  | some m =>
    match m.chgs with
    | [] => d
    | (no, v) :: more =>
      if copyB ∧ m.ackA = false then d
      else
        let ackA := m.ackA || !copyB
        let ackB := m.ackB || copyB
        let both := ackA && ackB
        let m' : MapLine := if both then { m with ackA := false, ackB := false, chgs := more, entry := if more = [] then v else m.entry }
          else { m with ackA := ackA, ackB := ackB }
        let map' := if copyB then { d.map with copyB := smSet 0 d.map.copyB p v } else { d.map with copyA := smSet 0 d.map.copyA p v }
        let d1 := { d with map := { map' with cache := mapIf (fun x => x.page = p) (fun _ => m') map'.cache } }
        if both then appendChg (.entry no (BitVec.ofNat 31 p) v) d1 else d1

/-- Remove a stripe from its page and hold it back under R51; `retire` carries the channel of a retirement. -/
def waitStripe (s : Stripe) (chg : Nat) (ret : Option (BitVec 5)) (d : Dp) : Dp :=
  { d with map := { d.map with waiting := d.map.waiting ++ [⟨s, d.now, chg, ret⟩] } }

/-- Append a media record (R144), kept for the checkpoint passes. -/
def mediaRecord (s : Stripe) (kind : BitVec 2) (chan : BitVec 5) (d : Dp) : Dp :=
  appendChg (.media d.jrn.nextChg s kind chan)
    { d with jrn := { d.jrn with nextChg := d.jrn.nextChg + 1, media := d.jrn.media ++ [(s, kind, chan)] } }

/-- The stripe-state byte after a retirement (kind 0) or a member's failure (kind 1) (R144). -/
def stateAfter (b : BitVec 8) (kind : BitVec 2) (chan : BitVec 5) : BitVec 8 :=
  if kind = 0 then (b &&& 0x40) ||| 0x80 ||| chan.setWidth 8 else (b &&& 0x80) ||| 0x40 ||| chan.setWidth 8

/-- Record a retirement or a member's failure in the stripe-state array (R144). The byte names one failed member; a second
one of the same stripe is kept beside it (R152; DESIGN CHOICE, log entry 128). -/
def putState (s : Stripe) (kind : BitVec 2) (chan : BitVec 5) (d0 : Dp) : Dp :=
  let d := hbmPost 2 .state s.toNat d0
  if kind ≠ 0 && (stateByte d s).getLsbD 6 then
    { d with map := { d.map with failed := addOnce (s.toNat, chan.toNat) d.map.failed } }
  else { d with map := { d.map with state := smMod 0 d.map.state s.toNat fun b => stateAfter b kind chan } }

/-- Mark a stripe retired (R144). -/
def markRetired (s : Stripe) (chan : BitVec 5) (d : Dp) : Dp :=
  if retired d s then d else mediaRecord s 0 chan (spareFalls d (putState s 0 chan d))

/-- Mark a member failed: the stripe becomes degraded (R143, R144, R151). -/
def markFailed (s : Stripe) (chan : Nat) (d : Dp) : Dp :=
  if memberFailed d s chan then d
  else raise 0x5B 0x09 s.toNat chan 0x06 3 (mediaRecord s 1 (BitVec.ofNat 5 chan) (putState s 1 (BitVec.ofNat 5 chan) d))

/-- Retire a stripe as in R143: a mapped page moves first, at priority 2; any other stripe is retired at once. -/
def retireStripe (s : Stripe) (chan : BitVec 5) (d : Dp) : Dp :=
  match stripeOwner d s with
  | some p => addWork 2 (.retire (BitVec.ofNat 31 p) chan) d
  | none => markRetired s chan d

/-- Take the line-cache way or merge-buffer entry that holds an SRAM word out of service until the next RISE
(R172, R461). Other arrays raise the warning only. A dirty way keeps its data until it is copied out (R94),
and a locked one keeps its lock and owner (R182). -/
def sramOut (array word : Nat) (d : Dp) : Dp :=
  let way := fun (slice x : Nat) => (x / 16 * 16 + slice) * 16 + x % 16
  let outWay := fun (k : Nat) (d : Dp) =>
    let w := smGet {} d.lc.ways k
    let gone : Way := if w.lock then { tag := w.tag, lock := true, owner := w.owner } else {}
    { d with lc := { d.lc with
        out := addOnce k d.lc.out
        ways := if w.sd = 0 then smSet {} d.lc.ways k gone else d.lc.ways } }
  if array ≤ 0x0F then outWay (way array (word / 32)) d
  else if array ≤ 0x1F then outWay (way (array - 16) word) d
  else if array = 0x20 then { d with mrg := { d.mrg with out := addOnce (word / 40) d.mrg.out } }
  else d

/-- The action of R172 step 4. -/
def rctAct4 (c : Ctl) (l : RctLoc) (d : Dp) : Dp :=
  match l with
  | .media s k =>
    if 0 < spare d then
      retireStripe s (BitVec.ofNat 5 k) { d with cod := { d.cod with retirements := satInc 0xFF d.cod.retirements } }
    else eventRecord c 1 4 0 d
  | .hbm pc bank row =>
    recordHbmRow pc bank row { d with cod := { d.cod with repairs := satInc 0xFF d.cod.repairs } }
  | .sram a w =>
    raise (if a ≤ 0x0F then 0x48 + a else if a ≤ 0x1F then 0x38 + a else if a ≤ 0x21 then 0x58 else 0x42) 0x2A
      (a * 2 ^ 32 + w) 0 0xFF 0
      (if a ≤ 0x20 then sramOut a w { d with cod := { d.cod with retirements := satInc 0xFF d.cod.retirements } } else d)

/-- Replace or remove an entry of the recurring-correction table. -/
def rctPut (l : RctLoc) (e : Option Rct) (d : Dp) : Dp :=
  { d with cod := { d.cod with rct := (d.cod.rct.filter fun x => x.loc ≠ l) ++ e.toList } }

/-- The rewrite of R172 step 3: what is queued, and what the entry becomes. -/
def rctAct3 (e : Rct) (d : Dp) : Dp :=
  let counted := { d with cod := { d.cod with rewrites := satInc 0xFFFF d.cod.rewrites } }
  match e.loc with
  | .media s _ =>
    match stripeOwner d s with
    | some p => addWork 3 (.relocate (BitVec.ofNat 31 p)) (rctPut e.loc (some { e with pending := true }) counted)
    | none =>
      if rowRole (stripeRow s) ≠ .general ∧ retired d s = false then
        addWork 3 (.metadata s) (rctPut e.loc (some { e with pending := true }) counted)
      else rctPut e.loc none d
  | .hbm pc bank row =>
    e.cols.foldl (fun d col => postWrite 2 pc bank row col d) (rctPut e.loc (some { e with pending := true, cols := [] }) counted)
  | .sram _ _ => rctPut e.loc (some { e with count := 0, rewritten := true }) counted

/-- The oldest entry that satisfies a test, by its last event. -/
def oldestRct (p : Rct → Bool) (now : Stamp) (l : List Rct) : Option Rct :=
  (l.filter p).foldl (fun a x => match a with
    | none => some x
    | some y => if elapsed y.last now < elapsed x.last now then some x else some y) none

/-- Make room for a new location: the oldest entry not rewritten, or the oldest of all (R174). -/
def rctRoom (d : Dp) : Dp :=
  if d.cod.rct.length < 256 then d
  else
    let v := match oldestRct (fun x => !x.rewritten) d.now d.cod.rct with
      | some x => some x
      | none => oldestRct (fun _ => true) d.now d.cod.rct
    match v with
    | some x => { d with cod := { d.cod with rct := d.cod.rct.erase x, evictions := satInc 0xFFFF d.cod.evictions } }
    | none => d

/-- Whether a retirement or repair queued for a location is pending (R173). -/
def rctBusy (d : Dp) : RctLoc → Bool
  | .media s _ =>
    (d.mh.work.any fun w => match w.kind with
      | .retire p _ => entryStripe (curEntry d p.toNat) = s
      | _ => false) ||
    (d.mh.rewrites.any fun r => r.retireSrc && r.src = s) || (d.map.waiting.any fun w => w.stripe = s && w.retire.isSome)
  | .hbm pc bank row => d.hbm.rows.any fun r => r.pc = pc && r.bank = bank && r.row = row && r.how = 0
  | .sram _ _ => false

/-- A correction event at a location (R172), with the column of a corrected HBM word. While a rewrite, retirement or repair of
it is pending it is not counted (R173). -/
def rctEventAt (c : Ctl) (l : RctLoc) (col : Option Nat) (d : Dp) : Dp :=
  if rb c 0xE0700 31 = false ∨ rctBusy d l then d
  else
    let k := rg c 0xE0700 0 8
    match d.cod.rct.find? fun x => x.loc = l with
    | some e =>
      if e.pending then d
      else
        let e' := { e with count := e.count + 1, last := d.now, cols := (e.cols ++ col.toList).eraseDups }
        if e'.count < k then rctPut l (some e') d
        else if e.rewritten then rctPut l none (rctAct4 c l d)
        else rctAct3 e' d
    | none =>
      let d1 := rctRoom d
      let e' : Rct := ⟨l, 1, false, d.now, false, col.toList⟩
      if 1 < k then rctPut l (some e') d1 else rctAct3 e' d1

/-- A correction event at a location of the media or an SRAM array (R172). -/
def rctEvent (c : Ctl) (l : RctLoc) (d : Dp) : Dp := rctEventAt c l none d

/-- A corrected HBM read (R168). -/
def hbmCorrected (c : Ctl) (pc bank row col : Nat) (d : Dp) : Dp :=
  rctEventAt c (.hbm pc bank row) (some col) (pmuCount c 20 0x17 1 (corrVolatile (raise (0x20 + pc) 0x20 (hbmAddr bank row col) 0 0x00 0 d)))

/-- What the SRAM codes find at a word of an array of a given number of words (R169, R461): a corrected word is counted and an
event of the recurring-correction table; an uncorrectable one is reported. -/
def wordEcc (c : Ctl) (src array words : Nat) (ecc : WordEcc) (d : Dp) : Dp :=
  match ecc with
  | .ok => d
  | .corrected w =>
    rctEvent c (.sram array (w % words)) (corrVolatile (raise src 0x28 (array * 2 ^ 32 + w % words) 0 0xFF 0 d))
  | .uncorrectable w => raise src 0x29 (array * 2 ^ 32 + w % words) 0 0xFF 0 d

/-- Release what R94 and R51's journal conditions now allow: entries whose programmes and mapping change are done. -/
def releaseEntries (d : Dp) : Dp :=
  let done := fun (e : MEntry) => e.dataOk && e.parOk && (match e.chg with
    | none => true
    | some n => chgDurable d (linePage e.line).toNat n)
  let ids := (d.mrg.entries.filter done).map (·.id)
  let free := fun (m : Mnt) => { m with waitEntries := m.waitEntries.filter fun i => !(i ∈ ids) }
  { d with
    mrg := { d.mrg with entries := d.mrg.entries.filter fun e => !done e }
    lc := { d.lc with cur := d.lc.cur.map free, queue := d.lc.queue.map free } }

/-- The entry a journal record gives a page. -/
def ChgRec.entryOf (p : Nat) : ChgRec → Option (BitVec 64)
  | .entry _ page v => if page.toNat = p then some v else none
  | .media _ _ _ _ => none

/-- The entry a journal stripe gives a page (R107). -/
def JStripe.entryOf (s : JStripe) (p : Nat) : Option (BitVec 64) :=
  match s.body with
  | .change recs => recs.reverse.findSome? (ChgRec.entryOf p)
  | .checkpoint first es => if first ≤ p then es[p - first]? else none
  | _ => none

/-- The newest valid record of a page's entry in the journal, its buffers and the stripes being written (R49). -/
def journalEntry (d : Dp) (p : Nat) : Option (BitVec 64) :=
  match (bufferedChgs d).reverse.findSome? (ChgRec.entryOf p) with
  | some v => some v
  | none => d.jrn.stripes.reverse.findSome? (·.entryOf p)

end Sys2Proof.Machine
end

