-- ==== Sys2Proof/Machine/Hbm.lean ====
section
/-! DEFINITION. The HBM subsystem in service: the refresh rotation (R200, R207), the clearing of the activation tables
(R206), the end of pacing (R208) and parity errors (R195). -/

namespace Sys2Proof.Machine

/-- Whether a pseudo-channel's next slot is due (R200): the rotation of PC_(p XOR 16) runs 32 slots behind that of PC_p, so
the two go on in turn. -/
def slotTurn (d : Dp) (pc : Nat) : Bool :=
  slotGap (smGet 0 d.hbm.slot (pc % 16)) (smGet 0 d.hbm.slot (16 + pc % 16)) = if pc < 16 then 32 else 33

/-- A REFpb or RFM becomes due and is placed in its queue, ahead of the entries not admitted, or before all of them where the
queue holds 8 entries (R202, R203); its refresh window opens (R200, R201). It issues in queue order, `delay` ns later at the
earliest and within 28 ns. -/
def placeRefresh (pc bank delay : Nat) (d : Dp) : Dp :=
  let e : HbmEnt := ⟨pc, bank, 0, 0, .refresh, 1, false⟩
  let room := decide (places d pc < 8)
  { d with hbm := { d.hbm with
      queue := if room then d.hbm.queue ++ [e] else d.hbm.queue
      wait := if room then d.hbm.wait else e :: d.hbm.wait
      wins := d.hbm.wins.filter (winOpen d.now) ++ [⟨pc, bank, d.now, min 28 delay, none⟩] } }

/-- The next slot of a pseudo-channel's rotation (R200): a REFpb, or in every fourth slot the first RFM that may issue
(R207); one RFM serves every request made for its bank. -/
def refreshSlotBegins (c : Ctl) (pc delay : Nat) (d : Dp) : Dp :=
  if 32 ≤ pc ∨ (d.hbm.state ≠ 1 ∧ d.hbm.state ≠ 3) ∨ slotTurn d pc = false then d
  else
    let s := (smGet 0 d.hbm.slot pc + 1) % 64
    let d1 := { d with hbm := { d.hbm with slot := smSet 0 d.hbm.slot pc s, slotAt := smSet 0 d.hbm.slotAt pc d.now } }
    hbmServe c <|
      if s % 4 ≠ 3 then pmuCount c 20 0x14 1 (placeRefresh pc (s - s / 4) delay d1)
      else match rfmPick d1 pc s 0 with
        | some x => pmuCount c 20 0x15 1 (placeRefresh pc x.2.1 delay
            { d1 with hbm := { d1.hbm with rfm := d1.hbm.rfm.filter (· ≠ x), rfmCount := satInc 0xFFFFF d1.hbm.rfmCount } })
        | none => d1

/-- REFRESH_SLOT (R200): a slot of a pseudo-channel's rotation begins; `delayNs` is how long its command has to wait
at least. -/
def execRefreshSlot (pc : Nat) (delayNs : Nat) (s : State) : Host.Outcome State Fault Refusal :=
  onDp (fun c d => refreshSlotBegins c pc delayNs d) s

/-- ACTIVATION_TABLE_CLEAR (R206): both activation tables are cleared. -/
def execActivationTableClear (s : State) : Host.Outcome State Fault Refusal :=
  onDp (fun _ d => { d with hbm := { d.hbm with hostAct := [], bgAct := [] } }) s

/-- The pacing of a requester at a pseudo-channel ends, and the entry that led to it is cleared (R208). -/
def pacingEnds (pc requester : Nat) (c : Ctl) (d : Dp) : Dp :=
  let mine := fun (x : Paced) => x.pc = pc && x.req = requester
  let rows := (d.hbm.paced.filter mine).map fun x => (x.bank, x.row)
  hbmServe c { d with hbm := { d.hbm with
    paced := d.hbm.paced.filter fun x => !mine x
    bgAct := d.hbm.bgAct.filter fun a => !(a.pc = pc && decide ((a.bank, a.row) ∈ rows)) } }

/-- PACING_END (R208): a requester is no longer paced at a pseudo-channel. -/
def execPacingEnd (pc : Nat) (requester : Nat) (s : State) : Host.Outcome State Fault Refusal :=
  onDp (pacingEnds pc requester) s

/-- HBM_CA_PARITY (R195): the stack reports a parity error; the command is reissued. -/
def execHbmCaParity (pc : Nat) (s : State) : Host.Outcome State Fault Refusal :=
  onDp (fun _ d => if 32 ≤ pc ∨ d.hbm.state = 0 then d else raise (0x20 + pc) 0x22 0 0 0xFF 5 d) s

end Sys2Proof.Machine
end

