-- ==== Sys2Proof/Machine/CacheOps.lean ====
section
/-! DEFINITION. The line cache and the merge buffer as stores (R87, R176 to R192): sectors, lookup, allocation,
entries, and the value a sector holds in the persistence domain. -/

namespace Sys2Proof.Machine

/-- Set of a line (R176). -/
def setOf (l : LineAddr) : Nat := l.toNat % 10240

/-- Tag of a line (R176). -/
def tagOf (l : LineAddr) : BitVec 22 := BitVec.ofNat 22 (l.toNat / 10240)

/-- Slice of a set (R176). -/
def sliceOf (set : Nat) : Nat := set % 16

/-- The way with a given number in a line's set. -/
def wayKey (l : LineAddr) (w : Nat) : Nat := setOf l * 16 + w

/-- The line a way's tag names (R176). -/
def lineOfWay (key : Nat) (w : Way) : LineAddr := BitVec.ofNat 35 (w.tag.toNat * 10240 + key / 16)

/-- A way. -/
def getWay (d : Dp) (key : Nat) : Way := smGet {} d.lc.ways key

/-- SRAM word index of a sector of a way (R461). -/
def wayWord (key k : Nat) : Nat := (key / 16 / 16 * 16 + key % 16) * 32 + 8 * k

/-- The SRAM word of a way's state entry and tag (R461). -/
def stateWordOf (key : Nat) : Nat := key / 16 / 16 * 16 + key % 16

/-- Sector k of a way. -/
def Way.sector (w : Way) (k : Nat) : Sector :=
  match k with
  | 0 => w.d0
  | 1 => w.d1
  | 2 => w.d2
  | _ => w.d3

/-- The recurring-correction table after a way's state entry, and the sectors that change, are written (R173). -/
def wayWritten (key : Nat) (old new : Way) (c : Cod) : Cod :=
  if c.rct = [] then c
  else
    let slice := sliceOf (key / 16)
    let sector := fun (c : Cod) (k : Nat) =>
      if old.sector k = new.sector k then c
      else c.wrote slice (wayWord key k) 8
    (List.range 4).foldl sector (c.wrote (0x10 + slice) (stateWordOf key) 1)

/-- Store a way. -/
def setWay (key : Nat) (w : Way) (d : Dp) : Dp :=
  { d with lc := { d.lc with ways := smSet {} d.lc.ways key w }, cod := wayWritten key (getWay d key) w d.cod }

/-- Write sector k of a way: its eight words are written, whatever they held (R173). -/
def setSector (key k : Nat) (w : Way) (d : Dp) : Dp := sramWrote (sliceOf (key / 16)) (wayWord key k) 8 (setWay key w d)

/-- The way that holds a line: all 16 ways are compared, whatever the class (R178). -/
def findWay (d : Dp) (l : LineAddr) : Option Nat :=
  (List.range 16).findSome? fun w =>
    if (getWay d (wayKey l w)).valid ∧ (getWay d (wayKey l w)).tag = tagOf l then some (wayKey l w) else none

/-- Put the data of sector k into a way. -/
def Way.put (w : Way) (k : Nat) (v : Sector) : Way :=
  match k with
  | 0 => { w with d0 := v }
  | 1 => { w with d1 := v }
  | 2 => { w with d2 := v }
  | _ => { w with d3 := v }

/-- A host write of sector k into a way (R81): valid, dirty, poisoned or not (R162). The line's age runs from its
first dirty sector. -/
def Way.write (w : Way) (k : Nat) (v : Sector) (poison : Bool) (now : Stamp) : Way :=
  { w.put k (if poison then 0 else v) with
    sv := setBit w.sv k, sd := setBit w.sd k, since := if w.sd = 0 then now else w.since,
    poison := if poison then setBit w.poison k else clrBit w.poison k }

/-- A fill of sector k of a way by a fetched value (R184). -/
def Way.fillSector (w : Way) (k : Nat) (v : Sector) : Way := { w.put k v with sv := setBit w.sv k }

/-- Sector k of an entry. -/
def MEntry.sector (e : MEntry) (k : Nat) : Sector :=
  match k with
  | 0 => e.d0
  | 1 => e.d1
  | 2 => e.d2
  | _ => e.d3

/-- Put the data of sector k into an entry. -/
def MEntry.putData (e : MEntry) (k : Nat) (v : Sector) : MEntry :=
  match k with
  | 0 => { e with d0 := v }
  | 1 => { e with d1 := v }
  | 2 => { e with d2 := v }
  | _ => { e with d3 := v }

/-- Put a value of the persistence domain into an entry's sector (R191). -/
def MEntry.put (e : MEntry) (k : Nat) (v : Sector) (poison : Bool) : MEntry :=
  { e.putData k (if poison then 0 else v) with
    sv := setBit e.sv k, host := setBit e.host k, poison := if poison then setBit e.poison k else clrBit e.poison k }

/-- Fill a missing sector of an entry from its codeword slot (R88). -/
def MEntry.fillMissing (e : MEntry) (k : Nat) (v : Sector) (poison : Bool) : MEntry :=
  if e.sv.getLsbD k then e
  else { e.putData k (if poison then 0 else v) with
         sv := setBit e.sv k, poison := if poison then setBit e.poison k else e.poison }

/-- Whether an entry holds a value of sector k (R184). -/
def MEntry.holds (e : MEntry) (k : Nat) : Bool := e.st ≠ .assembling || e.sv.getLsbD k

/-- The ASSEMBLING entry that a write or a copy-out of a line joins (R81, R191): the youngest entry of the slot, while it is
ASSEMBLING. An older one behind a younger sealed one takes no value more, since the younger is programmed after it (R89). -/
def assembling (d : Dp) (l : LineAddr) : Option MEntry :=
  (d.mrg.entries.reverse.find? fun e => e.line = l).filter fun e => e.st = .assembling

/-- The youngest entry of a slot that holds a sector (R178). -/
def holdingEntry (d : Dp) (l : LineAddr) (k : Nat) : Option MEntry :=
  d.mrg.entries.reverse.find? fun e => e.line = l ∧ e.holds k

/-- The value a sector has in the line cache or the merge buffer, in the order of R178; true marks poison. -/
def heldValue (d : Dp) (a : SecAddr) : Option (Sector × Bool) :=
  let fromMerge := (holdingEntry d (secLine a) (secIdx a)).map fun e =>
    (e.sector (secIdx a), e.poison.getLsbD (secIdx a))
  match findWay d (secLine a) with
  | some key =>
    let w := getWay d key
    if w.sv.getLsbD (secIdx a) then some (w.sector (secIdx a), w.poison.getLsbD (secIdx a)) else fromMerge
  | none => fromMerge

/-- An entry of the merge buffer by its number. -/
def findEntry (d : Dp) (id : Nat) : Option MEntry := d.mrg.entries.find? fun e => e.id = id

/-- Change an entry. -/
def modEntry (id : Nat) (f : MEntry → MEntry) (d : Dp) : Dp :=
  { d with mrg := { d.mrg with entries := mapIf (fun e => e.id = id) f d.mrg.entries } }

/-- The lowest free entry number in service. -/
def freeEntryId (d : Dp) : Nat :=
  ((List.range 3072).find? fun i => !(d.mrg.entries.any fun e => e.id = i) && !(i ∈ d.mrg.out)).getD d.mrg.entries.length

/-- A new ASSEMBLING entry. -/
def blankEntry (id : Nat) (l : LineAddr) (slot : BitVec 6) (now : Stamp) : MEntry :=
  { id := id, line := l, slot := slot, st := .assembling, sv := 0, host := 0, poison := 0, d0 := 0, d1 := 0, d2 := 0,
    d3 := 0, image := 0, old := none, noOld := false, created := now, sealedAt := now, reading := false, whole := false,
    launched := false, delta := none, chg := none, dataOk := false, parOk := false, waits := false, pend := false }

/-- Take a new entry for a line (R87). -/
def newEntry (c : Ctl) (l : LineAddr) (slot : BitVec 6) (d : Dp) : Nat × Dp :=
  let id := freeEntryId d
  (id, pmuCount c 19 0x10 1 <| sramWrote 0x20 (id * 40 + 36) 4
    { d with mrg := { d.mrg with entries := d.mrg.entries ++ [blankEntry id l slot d.now] } })

/-- Put a sector into an ASSEMBLING entry; an older value of it is superseded (R191). -/
def entryPut (c : Ctl) (id k : Nat) (v : Sector) (poison : Bool) (d : Dp) : Dp :=
  let older := ((findEntry d id).map fun e => e.sv.getLsbD k).getD false
  let d1 := sramWrote 0x20 (id * 40 + 8 * k) 8 (modEntry id (fun e => e.put k v poison) d)
  if older then pmuCount c 19 0x14 1 d1 else d1

/-- Ways out of service, by class mask and state: a candidate of R180. -/
def isCand (c : Ctl) (cls : Nat) (d : Dp) (key : Nat) : Bool :=
  let w := getWay d key
  (crGet c (0xC0010 + 4 * cls)).getLsbD (key % 16) && !w.lock && w.fill = 0 && !(key ∈ d.lc.out)

/-- The first way of a line's set, at or after a start and wrapping, that satisfies a test (R180). -/
def pickWay (l : LineAddr) (start : Nat) (p : Nat → Bool) : Option Nat :=
  (List.range 16).findSome? fun i =>
    if p (wayKey l ((start + i) % 16)) then some (wayKey l ((start + i) % 16)) else none

/-- Advance a slice's LFSR (R180). -/
def stepLfsr (slice : Nat) (d : Dp) : Dp := { d with lc := { d.lc with lfsr := modAt d.lc.lfsr slice lfsr32 } }

/-- The start way of an allocation: lfsr[3:0] of the slice (R180). -/
def lfsrStart (d : Dp) (slice : Nat) : Nat := (d.lc.lfsr.getD slice 1).toNat % 16

/-- Whether a way stands empty and reserved for a class whose mask permits it (R179, R180, R182). -/
def ownReserved (c : Ctl) (cls : Nat) (d : Dp) (key : Nat) : Bool :=
  let w := getWay d key
  (crGet c (0xC0010 + 4 * cls)).getLsbD (key % 16) && w.lock && !w.valid && w.owner.toNat = cls && !(key ∈ d.lc.out)

/-- The victim of an allocation (R180): a way reserved for the class, the lowest-numbered of several (DESIGN CHOICE, log
entry 140), an INVALID or CLEAN candidate, or, where the class may copy out, a DIRTY candidate (the flag). -/
def victimOf (c : Ctl) (cls : Nat) (dirtyOk : Bool) (l : LineAddr) (d : Dp) : Option (Nat × Bool) :=
  let start := lfsrStart d (sliceOf (setOf l))
  match pickWay l 0 (ownReserved c cls d) with
  | some k => some (k, false)
  | none =>
    match pickWay l start fun k => isCand c cls d k && (getWay d k).sd = 0 with
    | some k => some (k, false)
    | none =>
      if dirtyOk then (pickWay l start fun k => isCand c cls d k).map fun k => (k, true) else none

/-- A freshly allocated way: a reserved way stays locked with its owner (R182). -/
def freshWay (l : LineAddr) (slot : BitVec 6) (old : Way) (now : Stamp) : Way :=
  { tag := tagOf l, valid := true, lock := old.lock, owner := old.owner, slot := slot, since := now }

/-- Install a line in a way, counting the allocation. -/
def installWay (c : Ctl) (key : Nat) (l : LineAddr) (slot : BitVec 6) (d : Dp) : Dp :=
  pmuCount c 18 0x13 1 (stepLfsr (sliceOf (setOf l)) (setWay key (freshWay l slot (getWay d key) d.now) d))

/-- Allocate for a read fill (R180): no copy-out; none when no candidate exists. -/
def allocClean (c : Ctl) (cls : Nat) (l : LineAddr) (slot : BitVec 6) (d : Dp) : Option (Nat × Dp) :=
  (victimOf c cls false l d).map fun k => (k.1, installWay c k.1 l slot d)

/-- The number of locked ways in a line's set, empty reserved ways included (R181). -/
def lockedInSet (d : Dp) (l : LineAddr) : Nat :=
  ((List.range 16).filter fun w => (getWay d (wayKey l w)).lock).length

/-- Make a way INVALID; a locked way stays reserved, and keeps its former line's tag (R182, R189). -/
def emptyWay (key : Nat) (d : Dp) : Dp :=
  let w := getWay d key
  setWay key (if w.lock then { tag := w.tag, lock := true, owner := w.owner } else {}) d

/-- Write a fetched sector into its line under R184; a poisoned sector is never filled (R73). -/
def fillFetched (a : SecAddr) (v : Sector) (poison : Bool) (c : Ctl) (d : Dp) : Dp :=
  match findWay d (secLine a) with
  | none => d
  | some key =>
    let w := getWay d key
    let k := secIdx a
    if w.sv.getLsbD k || (holdingEntry d (secLine a) k).isSome then
      pmuCount c 18 0x17 1 (setWay key { w with fill := clrBit w.fill k } d)
    else if poison then setWay key { w with fill := clrBit w.fill k } d
    else setSector key k { (w.fillSector k v) with fill := clrBit w.fill k } d

/-- Write a sector that came with another's codeword into its line under R184 (R183); a fetch of its own stays outstanding
(R177). -/
def fillBeside (a : SecAddr) (v : Sector) (poison : Bool) (c : Ctl) (d : Dp) : Dp :=
  match findWay d (secLine a) with
  | none => d
  | some key =>
    let d1 := fillFetched a v poison c d
    setWay key { getWay d1 key with fill := (getWay d key).fill } d1

/-- End the fetch of a sector without a value. -/
def endFill (a : SecAddr) (d : Dp) : Dp :=
  match findWay d (secLine a) with
  | none => d
  | some key => setWay key { (getWay d key) with fill := clrBit (getWay d key).fill (secIdx a) } d

/-- The plaintext of an entry as the data of its codeword, poisoned sectors as zeros (R162). -/
def entryImage (d : Dp) (e : MEntry) : Image :=
  let key := slotKeys d e.slot
  let enc := fun k => xtsSector key e.line k (if e.poison.getLsbD k then 0 else e.sector k)
  outerEncode (enc 0 ++ enc 1 ++ enc 2 ++ enc 3) (metaWord (hostLabel e.slot (linePage e.line) (linePos e.line)) e.poison)

/-- The image of 256 zero bytes at a position of a page (R47). -/
def zeroImage (d : Dp) (slot : BitVec 6) (p : Page) (j : Nat) : Image :=
  let key := slotKeys d slot
  let enc := fun k => xtsSector key (pageLine p j) k 0
  outerEncode (enc 0 ++ enc 1 ++ enc 2 ++ enc 3) (metaWord (hostLabel slot p j) 0)

/-- The expected label of a host codeword: its key slot is that of its HDM range; where no committed decoder covers
the page the codeword's own slot field stands (log entry 25). -/
def wantLabel (d : Dp) (l : LineAddr) (i : Image) : Label :=
  hostLabel ((slotOfDpa d (l.toNat * 256)).getD ((imgSlice i 0).extractLsb' 9 6)) (linePage l) (linePos l)

/-- The plaintext of sector k of a codeword image, under the key slot of its label. -/
def plainSector (d : Dp) (l : LineAddr) (i : Image) (k : Nat) : Sector :=
  xtsSectorInv (slotKeys d ((imgSlice i 0).extractLsb' 9 6)) l k (imgSector i k)

end Sys2Proof.Machine
end

