-- ==== Sys2Proof/Machine/MediaOps.lean ====
section
/-! DEFINITION. What leaves the persistence domain for the media: programmes, parity deltas (R92, R93, R150), launching
and sealing merge-buffer entries (R88, R89, R91), whole-page writes (R47, R88, R464), copy-outs (R191) and the
placement of host sectors (R81, R85). -/

namespace Sys2Proof.Machine

/-- Queue a programme at a channel engine, which acknowledges it (R325). -/
def addProg (kind : ProgKind) (loc : Nat × Nat × Nat) (image : Image) (d : Dp) : Dp :=
  { engineAsked loc.2.2 d with mrg := { d.mrg with
      nextId := d.mrg.nextId + 1
      progs := d.mrg.progs ++ [⟨d.mrg.nextId, kind, loc.2.2, loc.1, loc.2.1, image, .pending, false, false, false, 0, 0, 0, false⟩] } }

/-- Change a programme. -/
def modProg (id : Nat) (f : Prog → Prog) (d : Dp) : Dp :=
  { d with mrg := { d.mrg with progs := mapIf (fun p => p.id = id) f d.mrg.progs } }

/-- Remove programmes. -/
def dropProgs (p : Prog → Bool) (d : Dp) : Dp :=
  { d with mrg := { d.mrg with progs := d.mrg.progs.filter fun x => !p x } }

/-- Change the parity-delta entry with a number. -/
def modDelta (id : Nat) (f : Delta → Delta) (d : Dp) : Dp :=
  { d with mrg := { d.mrg with deltas := mapIf (fun x => x.id = id) f d.mrg.deltas } }

/-- Remove a parity-delta entry with its intent record. -/
def dropDelta (id : Nat) (d : Dp) : Dp :=
  { d with mrg := { d.mrg with deltas := d.mrg.deltas.filter fun x => x.id ≠ id } }

/-- Note that the parity covering the entries of a delta is done (R94). -/
def parityCovered (id : Nat) (d : Dp) : Dp :=
  { d with mrg := { d.mrg with entries := mapIf (fun e => e.delta = some id) (fun e => { e with parOk := true }) d.mrg.entries } }

/-- Whether every data programme that contributed to a delta has verified. -/
def deltaDataDone (d : Dp) (id : Nat) : Bool := d.mrg.entries.all fun e => e.delta ≠ some id || e.dataOk

/-- Read what the close of a delta needs (R92): the old parity, or, where the parity is to be recomputed, the 16 data
members once their programmes have verified. With no readable parity member the delta is discarded. -/
def readOldParity (c : Ctl) (x : Delta) (d : Dp) : Dp :=
  let row := stripeRow x.stripe
  let e := curEntry d ((stripeOwner d x.stripe).getD 0)
  match memberLoc d x.stripe (parityChan row) with
  | none => parityCovered x.id (dropDelta x.id d)
  | some loc =>
    if x.recompute then
      if deltaDataDone d x.id then
        (List.range 16).foldl (fun d j =>
          match memberLoc d x.stripe (posChan row j) with
          | some l => addMop l.2.2 l.1 l.2.1 3 (.oldParity x.id) (memberCode c d e j) d
          | none => d) (modDelta x.id (fun y => { y with reading := true }) d)
      else d
    else addMop loc.2.2 loc.1 loc.2.1 3 (.oldParity x.id) (memberCode c d e 16)
      (modDelta x.id (fun y => { y with reading := true }) d)

/-- Close a parity-delta entry (R92); in DRAIN its old parity is not read. `code` is the close's PMU event. -/
def closeDelta (c : Ctl) (code : Nat) (x : Delta) (d : Dp) : Dp :=
  let d1 := pmuCount c 19 code 1 (modDelta x.id (fun y => { y with closed := true }) d)
  if d.sup.mode = .drain then d1 else readOldParity c { x with closed := true } d1

/-- The lowest free entry of the parity-delta buffer. That a new delta takes this one is the model's choice (DESIGN CHOICE, log
entry 154): R461 counts the words of the entries, and no rule says which entry a delta takes. -/
def freeDelta (d : Dp) : Nat := ((List.range 6144).find? fun n => !(d.mrg.deltas.any fun x => x.entry = n)).getD 0

/-- The words of a delta's entry are written (R173, R461). -/
def deltaWrote (n : Nat) (d : Dp) : Dp := sramWrote 0x21 (n * 36) 36 d

/-- Add a contribution to the open delta of a row, opening one when there is none (R92, R93). `delta` is none when the
contribution has no old image. -/
def contribute (c : Ctl) (s : Stripe) (pos : Nat) (eid : Nat) (delta : Option Image) (d : Dp) : Dp :=
  let row := stripeRow s
  if unavailable d s (parityChan row) then modEntry eid (fun e => { e with parOk := true }) d
  else
    let d1 : Dp := match d.mrg.deltas.find? fun x => x.stripe = s && !x.closed with
      | some x => deltaWrote x.entry <| modEntry eid (fun e => { e with delta := some x.id })
          (modDelta x.id (fun y => { y with delta := y.delta ^^^ delta.getD 0, contrib := setBit y.contrib pos,
                                            recompute := y.recompute || delta.isNone }) d)
      | none => deltaWrote (freeDelta d) <| pmuCount c 19 0x15 1 <| modEntry eid (fun e => { e with delta := some d.mrg.nextId })
          { d with mrg := { d.mrg with
              nextId := d.mrg.nextId + 1
              deltas := d.mrg.deltas ++
                [⟨d.mrg.nextId, s, delta.getD 0, setBit 0 pos, d.now, false, false, delta.isNone, freeDelta d⟩] } }
    match d1.mrg.deltas.find? fun x => x.stripe = s && !x.closed with
    | some x => if x.contrib = 0xFFFF then closeDelta c 0x16 x d1 else d1
    | none => d1

/-- The delta an entry contributes: none without an old image (R92). -/
def entryDelta (e : MEntry) : Option Image := if e.noOld then none else e.old.map fun o => o ^^^ e.image

/-- Entries of a page. -/
def pageEntries (d : Dp) (p : Page) : List MEntry := d.mrg.entries.filter fun e => linePage e.line = p

/-- An earlier entry for the same codeword slot (R89). -/
def earlierEntry (d : Dp) (e : MEntry) : Option MEntry :=
  (d.mrg.entries.takeWhile fun x => x.id ≠ e.id).reverse.find? fun x => x.line = e.line

/-- Whether an entry comes after a whole-page write of its page whose parity has not verified (R464): after its entry of the
same slot, or after all of its entries (DESIGN CHOICE, log entry 147). -/
def earlierWhole (d : Dp) (e : MEntry) : Bool :=
  let mine := fun (x : MEntry) => linePage x.line = linePage e.line && x.whole && !x.parOk
  let before := d.mrg.entries.takeWhile fun x => x.id ≠ e.id
  before.any (fun x => mine x && x.line = e.line) || (before.any mine && !((d.mrg.entries.drop before.length).any mine))

/-- Whether a member of a row that satisfies a test is being rebuilt: its read or its programme is outstanding (R148). -/
def memberRebuilding (d : Dp) (set row : Nat) (chan : Nat → Bool) : Bool :=
  (d.acc.reads.any fun r => match r.kind with
    | .rebuild a b k => a = set && b = row && chan k
    | _ => false) ||
  (d.mrg.progs.any fun p => match p.kind with
    | .rebuild a b k => a = set && b = row && chan k
    | _ => false)

/-- Whether a row is being rebuilt (R148). -/
def rowRebuilding (d : Dp) (set row : Nat) : Bool := memberRebuilding d set row fun _ => true

/-- Where a programme of a member goes: to its slot, or to the rebuild location that its row's rebuild is about to fill
(R148). -/
def writeLoc (d : Dp) (s : Stripe) (k : Nat) : Option (Nat × Nat × Nat) :=
  match memberLoc d s k with
  | some l => some l
  | none =>
    if memberRebuilding d (stripeSet s) (stripeRow s) (· = k) then some (rebuildLoc (cfgN d) (stripeSet s) (stripeRow s) k) else none

/-- Whether a row can take another contribution (R92): no delta of it is closed, and it has one open, needs none, or finds
room for one. -/
def deltaRoom (d : Dp) (s : Stripe) : Bool :=
  !(d.mrg.deltas.any fun x => x.stripe = s && x.closed) &&
  ((d.mrg.deltas.any fun x => x.stripe = s) || d.mrg.deltas.length < 6144 || unavailable d s (parityChan (stripeRow s)))

/-- Whether an entry of a stripe may go to the media now, as a data programme or a degraded-stripe write (R89, R92, R148,
R464). One that has contributed to its row's delta already is only programmed again. -/
def dataReady (d : Dp) (e : MEntry) (s : Stripe) : Bool :=
  !earlierWhole d e &&
  (match earlierEntry d e with
    | some x => x.dataOk
    | none => true) &&
  (e.st = .programming || deltaRoom d s) && !rowRebuilding d (stripeSet s) (stripeRow s)

/-- A degraded-stripe write (R150): the data programme is skipped, the delta goes to the parity. It waits for what a
programme of the entry would wait for, and depends on the mapping changes made so far (R126). -/
def degradedWrite (c : Ctl) (s : Stripe) (e : MEntry) (d : Dp) : Dp :=
  if dataReady d e s then
    contribute c s (linePos e.line) e.id (entryDelta e)
      (modEntry e.id (fun x => { x with st := .verified, dataOk := true, waits := false, chg := some (lastChg d) }) d)
  else modEntry e.id (fun x => { x with waits := true }) d

/-- Queue an entry's data programme, or make it a degraded-stripe write (R92, R148, R150). -/
def queueData (c : Ctl) (e : MEntry) (d : Dp) : Dp :=
  let s := entryStripe (curEntry d (linePage e.line).toNat)
  let k := posChan (stripeRow s) (linePos e.line)
  let d1 := modEntry e.id (fun x => { x with launched := true, reading := false }) d
  match memberLoc d s k with
  | some loc => addProg (.data e.id) loc e.image (modEntry e.id (fun x => { x with waits := false }) d1)
  | none => degradedWrite c s e d1

/-- Try again the entries whose degraded-stripe write waits, oldest first. -/
def retryWaiting (c : Ctl) (d : Dp) : Dp :=
  (d.mrg.entries.filter fun e => e.waits).foldl (fun d e => queueData c e d) d

/-- The entry of a page position that a whole-page write takes: the oldest one sealed and not yet launched, where no older one
is still ASSEMBLING (R89). -/
def wholeEntry (d : Dp) (p : Page) (j : Nat) : Option MEntry :=
  ((pageEntries d p).find? fun e => linePos e.line = j && (e.st = .assembling || (e.st = .sealedImg && !e.launched))).filter
    fun e => e.st ≠ .assembling

/-- Whether the first mapping of a page has to wait for an entry that is still ASSEMBLING (R464): one older than an entry the
mapping would take, and not behind one of its own slot. -/
def firstWaits (d : Dp) (p : Page) : Bool :=
  let taken := (List.range 16).filterMap (wholeEntry d p)
  (pageEntries d p).any fun x => x.st = .assembling && (wholeEntry d p (linePos x.line)).isNone &&
    taken.any fun t => ((pageEntries d p).takeWhile fun y => y.id ≠ t.id).any fun y => y.id = x.id

/-- An entry's data can only reach the media with a rewrite of its page (R134, R143, R145). -/
def pendEntry (id : Nat) (d : Dp) : Dp := modEntry id (fun e => { e with st := .sealedImg, pend := true, waits := false }) d

/-- Queue the programmes of the members of a stripe that are available, position 16 being the parity. -/
def queueMembers (s : Stripe) (imgs : List Image) (kind : Nat → ProgKind) (d : Dp) : Dp :=
  (List.range 17).foldl (fun d j =>
    match writeLoc d s (if j < 16 then posChan (stripeRow s) j else parityChan (stripeRow s)) with
    | some loc => addProg (kind j) loc (if j < 16 then imgs.getD j 0 else xorImages imgs) d
    | none => d) d

/-- Take the entries of a page into a whole-page write, one for each position; a younger one of the same slot stays for
later (R89). -/
def takeWhole (p : Page) (d : Dp) : Dp :=
  let ids := ((List.range 16).filterMap (wholeEntry d p)).map (·.id)
  let es := mapIf (fun e => e.id ∈ ids) (fun e => { e with launched := true, whole := true, reading := false }) d.mrg.entries
  { d with mrg := { d.mrg with entries := es } }

/-- The page rewrite or first mapping of a page in progress. -/
def findRewrite (d : Dp) (p : Page) : Option Rewrite := d.mh.rewrites.find? fun r => r.page = p

/-- Change the rewrite of a page. -/
def modRewrite (p : Page) (f : Rewrite → Rewrite) (d : Dp) : Dp :=
  { d with mh := { d.mh with rewrites := mapIf (fun r => r.page = p) f d.mh.rewrites } }

/-- Begin the first mapping of a page (R47): a held stripe, the sealed entries' images and zero images elsewhere. With
no free stripe it is queued at priority 2 (R125), with the images it has. -/
def startFirst (p : Page) (slot : BitVec 6) (fails : Nat) (imgs0 : List Image) (d : Dp) : Dp :=
  match allocate d with
  | none =>
    let d1 := addWork 2 (.firstMap p) d
    if imgs0 = [] then d1
    else { d1 with mh := { d1.mh with rewrites := d1.mh.rewrites ++
      [⟨p, 0, 0, false, true, .firstMap p, 0xFFFF, 0, 0, imgs0, 0, true, fails, d.mh.now, 0x1F, false, true⟩] } }
  | some (s, d1) =>
    let imgs := if imgs0 = [] then
        (List.range 16).map fun j => ((wholeEntry d p j).map (·.image)).getD (zeroImage d slot p j)
      else imgs0
    queueMembers s imgs (fun j => .first p j) <| (if imgs0 = [] then takeWhole p else id)
      { d1 with mh := { d1.mh with rewrites := d1.mh.rewrites ++
          [⟨p, 0, s, false, true, .firstMap p, 0xFFFF, 0, 0, imgs, 0, true, fails, d.mh.now, 0x1F, false, false⟩] } }

/-- Queue the read of an entry's codeword slot (R88); an unavailable member is read through its peers. -/
def queueRmw (c : Ctl) (e : MEntry) (d : Dp) : Dp :=
  let m := curEntry d (linePage e.line).toNat
  let s := entryStripe m
  let k := posChan (stripeRow s) (linePos e.line)
  let d1 := pmuCount c 19 0x13 1 (modEntry e.id (fun x => { x with reading := true }) d)
  match memberLoc d s k with
  | some l => addMop l.2.2 l.1 l.2.1 3 (.rmw e.id) (memberCode c d m (linePos e.line)) d1
  | none => (List.range 17).foldl (fun d k' =>
      if k' = k then d
      else match memberLoc d s k' with
        | some l => addMop l.2.2 l.1 l.2.1 1 (.rmw e.id) (memberCode c d m (chanPos (stripeRow s) k')) d
        | none => d) d1

/-- Launch a sealed entry towards the media as a partial update, or by the first mapping of its page. It waits while
its page's mapping is lost (R49), while the first mapping is in progress, and while its position is lost (R145). -/
def launchEntry (c : Ctl) (id : Nat) (d : Dp) : Dp :=
  match findEntry d id with
  | none => d
  | some e =>
    let p := linePage e.line
    let m := curEntry d p.toNat
    if e.st ≠ .sealedImg || e.launched || e.reading || pageLost d p.toNat then d
    else if entryValid m = false then
      if (findRewrite d p).isSome || firstWaits d p then d else startFirst p e.slot 0 [] d
    else
      let s := entryStripe m
      if (earlierEntry d e).any fun x => x.st = .assembling then d
      else if unavailable d s (posChan (stripeRow s) (linePos e.line)) && 2 ≤ (lostMembers d s).length then
        addWork 2 (.relocate p) (pendEntry id d)
      else match earlierEntry d e with
        | some x => queueData c { e with old := some x.image } (modEntry id (fun y => { y with old := some x.image }) d)
        | none => if e.old.isSome || e.noOld then queueData c e d else queueRmw c e d

/-- Launch every entry of a page that waits. -/
def relaunchPage (c : Ctl) (p : Page) (d : Dp) : Dp :=
  (pageEntries d p).foldl (fun d e => launchEntry c e.id d) d

/-- MRG_CTL.hold in ns (R90). -/
def holdNs (c : Ctl) : Nat := rg c 0xC0820 0 7 * 125

/-- Whether all 16 entries of a page sealed within the hold time of the first (R88). -/
def fullStripe (c : Ctl) (d : Dp) (p : Page) : Bool :=
  let es := (List.range 16).filterMap (wholeEntry d p)
  match es.head? with
  | none => false
  | some h =>
    let first := es.foldl (fun a e => if elapsed a d.now < elapsed e.created d.now then e.created else a) h.created
    es.length = 16 && es.all fun e => elapsed first e.sealedAt ≤ holdNs c

/-- Write a page whole (R88, R464): a full-stripe write of a mapped page, or its first mapping. While the row is rebuilt the
entries wait (R148); where two members are lost they wait for the page's relocation (R145). -/
def startWhole (c : Ctl) (p : Page) (d : Dp) : Dp :=
  let m := curEntry d p.toNat
  let row := entryStripe m
  if pageLost d p.toNat || (findRewrite d p).isSome then d
  else if entryValid m && rowRebuilding d (stripeSet row) (stripeRow row) then d
  else if entryValid m && 2 ≤ (lostMembers d row).length then
    addWork 2 (.relocate p) (((List.range 16).filterMap (wholeEntry d p)).foldl (fun d e => pendEntry e.id d) d)
  else if entryValid m = false then (if firstWaits d p then d else startFirst p (((wholeEntry d p 0).map (·.slot)).getD 0) 0 [] d)
  else
    let imgs := (List.range 16).map fun j => ((wholeEntry d p j).map (·.image)).getD 0
    let s := entryStripe m
    let d1 := queueMembers s imgs (fun j => .full p j) (takeWhole p (pmuCount c 19 0x12 1 d))
    let es := mapIf
      (fun e => linePage e.line = p && e.whole && unavailable d s (posChan (stripeRow s) (linePos e.line)))
      (fun e => { e with dataOk := true }) d1.mrg.entries
    { d1 with mrg := { d1.mrg with entries := es } }

/-- Whether a rewrite holds the seal of a page's entries: the final pass of a relocating rewrite (R123), and an
in-place rewrite until its 16 entries exist (R127). -/
def sealHeld (d : Dp) (p : Page) : Bool :=
  match findRewrite d p with
  | some r => !r.first && (if r.inPlace then !r.parityOut else r.pass = 5)
  | none => false

/-- Seal a complete entry (R88, R91). Later entries of its slot that wait for its image are launched by their own
events. -/
def sealEntry (c : Ctl) (id : Nat) (d : Dp) : Dp :=
  match findEntry d id with
  | none => d
  | some e =>
    if e.st ≠ .assembling || e.sv ≠ 0xF || sealHeld d (linePage e.line) then d
    else
      let d1 := pmuCount c 22 0x10 4 <| pmuCount c 19 0x11 1 <| sramWrote 0x20 (id * 40) 40 <|
        modEntry id (fun x => { x with st := .sealedImg, image := entryImage d e, sealedAt := d.now }) d
      if fullStripe c d1 (linePage e.line) then startWhole c (linePage e.line) d1 else d1

/-- Whether a line lies in a maintenance request's range. -/
def lineInRange (m : Mnt) (l : LineAddr) : Bool := m.start.toNat ≤ l.toNat && l.toNat < m.start.toNat + m.count

/-- Whether a maintenance request is walked by set and way (R187). -/
def byWay (m : Mnt) : Bool := 163840 ≤ m.count && m.op ≠ 3 && m.op ≠ 5

/-- Whether a copy-out of a way's line is one that a durable request waits for (R186): the request's own, or that of a line
of its range which a clean or invalidate has yet to step on. -/
def copyCovered (m : Mnt) (key : Nat) (l : LineAddr) : Bool :=
  m.durable && (m.outs.any (fun x => x.1 = l) ||
    (m.op.toNat < 3 && lineInRange m l && (if byWay m then m.done ≤ key else m.start.toNat + m.done ≤ l.toNat)))

/-- A copy-out into an entry joins what the maintenance requests that cover its line wait for (R186). -/
def noteCopied (key : Nat) (l : LineAddr) (id : Nat) (d : Dp) : Dp :=
  let note := fun (m : Mnt) => if copyCovered m key l then { m with waitEntries := addOnce id m.waitEntries } else m
  { d with lc := { d.lc with cur := d.lc.cur.map note, queue := d.lc.queue.map note } }

/-- Copy the dirty sectors of a way out to the merge buffer (R191): into the ASSEMBLING entry of its slot where `join`
allows, else into a new entry. The line stays valid and clean. -/
def copyOut (c : Ctl) (key : Nat) (join : Bool) (d : Dp) : Dp :=
  let w := getWay d key
  let l := lineOfWay key w
  if w.sd = 0 then d
  else
    let r := match (if join then assembling d l else none) with
      | some e => (e.id, d)
      | none => newEntry c l w.slot d
    let d1 := (List.range 4).foldl (fun d k =>
      if w.sd.getLsbD k then entryPut c r.1 k (w.sector k) (w.poison.getLsbD k) d else d) r.2
    sealEntry c r.1 (noteCopied key l r.1 (setWay key { w with sd := 0 } d1))

/-- Put a sector straight into the merge buffer (R81, second and third rows). -/
def placeMerge (c : Ctl) (l : LineAddr) (k : Nat) (v : Sector) (poison : Bool) (slot : BitVec 6) (d : Dp) : Dp :=
  let r := match assembling d l with
    | some e => (e.id, d)
    | none => newEntry c l slot d
  sealEntry c r.1 (entryPut c r.1 k v poison r.2)

/-- Take the logged sectors that satisfy a test out of those kept at replay, and give each to its line, oldest first (R84,
R117): into the line's way, else into the merge buffer. -/
def takeHeld (c : Ctl) (p : DrainSector → Bool) (d : Dp) : Dp :=
  (d.sec.heldSectors.filter p).foldl (fun d x =>
    let l := secLine x.addr
    let k := secIdx x.addr
    let v := if x.poison then 0 else xtsSectorInv (slotKeys d x.slot) l k x.data
    match findWay d l with
    | some key => setSector key k ((getWay d key).write k v x.poison d.now) d
    | none => placeMerge c l k v x.poison x.slot d)
    { d with sec := { d.sec with heldSectors := d.sec.heldSectors.filter fun x => !p x } }

/-- An access to a line finds the logged sectors of it that the persistence domain still keeps (R84). -/
def heldLine (c : Ctl) (l : LineAddr) (d : Dp) : Dp :=
  if d.sec.mediaKey.isSome && d.sec.heldSectors.any (fun x => secLine x.addr = l) then takeHeld c (fun x => secLine x.addr = l) d
  else d

/-- Place an accepted write (R81). -/
def placeSector (c : Ctl) (l : LineAddr) (k : Nat) (v : Sector) (poison : Bool) (slot : BitVec 6) (noAlloc : Bool)
    (d0 : Dp) : Dp :=
  let d := heldLine c l d0
  match findWay d l with
  | some key => pmuCount c 18 0x12 1 (setSector key k ((getWay d key).write k v poison d.now) d)
  | none =>
    if (assembling d l).isSome || noAlloc then placeMerge c l k v poison slot d
    else match victimOf c 1 true l d with
      | none => placeMerge c l k v poison slot d
      | some (key, dirty) =>
        let d1 := if dirty then pmuCount c 18 0x14 1 (copyOut c key false d) else d
        let d2 := installWay c key l slot d1
        setSector key k ((getWay d2 key).write k v poison d.now) d2

/-- Advance a tracker over a line whose four sectors have been written (R85). A line is counted only where no write beyond
the following line came before its last sector. -/
def completeLine (t : Tracker) : Tracker :=
  if t.curMask = 0xF then
    { t with cur := t.cur + 1, curMask := t.nextMask, nextMask := 0, count := if t.curLate then t.count else t.count + 1
             curLate := t.nextLate, nextLate := false }
  else t

/-- Note in a tracker that a write to a line has come (R85): beyond the line after the current or the next one, whichever
stream it belongs to, it comes before the completion of those of them that are begun (DESIGN CHOICE, log entry 129). -/
def noteBeyond (l : LineAddr) (t : Tracker) : Tracker :=
  { t with
    curLate := t.curLate || (t.curMask ≠ 0 && t.cur.toNat + 1 < l.toNat)
    nextLate := t.nextLate || (t.nextMask ≠ 0 && t.cur.toNat + 2 < l.toNat) }

/-- A host write of a sector at the sequential-store detector (R85): whether it belongs to a stream switched to
no-allocate. Trackers are kept with the least recently used first; of two trackers that match, the least recently used one
takes the write (DESIGN CHOICE, log entry 129). -/
def detect (c : Ctl) (l : LineAddr) (k : Nat) (d0 : Dp) : Bool × Dp :=
  if rb c 0xC0810 0 = false then (false, d0)
  else
    let d := { d0 with lc := { d0.lc with trackers := d0.lc.trackers.map (noteBeyond l) } }
    match d.lc.trackers.find? fun t => l = t.cur || l = t.cur + 1 with
    | some t =>
      let t1 := if l = t.cur then { t with curMask := setBit t.curMask k } else { t with nextMask := setBit t.nextMask k }
      let t2 := completeLine (completeLine t1)
      let sw := t.noAlloc || rg c 0xC0810 8 6 ≤ t2.count
      let t3 := { t2 with noAlloc := sw, last := d.now }
      let d1 := { d with lc := { d.lc with trackers := d.lc.trackers.erase t ++ [t3] } }
      (t.noAlloc, if sw && !t.noAlloc then pmuCount c 18 0x19 1 d1 else d1)
    | none =>
      let used := d.lc.trackers.map (·.id)
      let id := match (List.range 16).find? fun i => !(i ∈ used) with
        | some i => i
        | none => (d.lc.trackers.head?.map (·.id)).getD 0
      let kept := d.lc.trackers.filter fun t => t.id ≠ id
      (false, { d with lc := { d.lc with trackers := kept ++ [⟨id, l, setBit 0 k, 0, 0, false, d.now, false, false⟩] } })

/-- Bytes of a partial write merged into a sector (R250): enable bit i stands for byte i. -/
def mergeBytes (base v : Sector) (en : BitVec 64) : Sector :=
  let mask := (List.range 64).foldl (fun (m : Sector) i =>
    if en.getLsbD i then m ||| (BitVec.ofNat 512 0xFF <<< (504 - 8 * i)) else m) 0
  (base &&& ~~~mask) ||| (v &&& mask)

end Sys2Proof.Machine
end

