-- ==== Sys2Proof/Machine/ReadOps.lean ====
section
/-! DEFINITION. The read path (R56 to R75): the probes, the partition decision, reconstruction with its substitutions,
escalation, lost data, and the answer of a read with the fill of its line. -/

namespace Sys2Proof.Machine

/-- Media operations that occupy a partition as reads (R62). -/
def MopKind.isRead : MopKind → Bool
  | .sector _ _ => true
  | .codeword _ => true
  | .peer _ _ => true
  | .rmw _ => true
  | .oldParity _ => true
  | .copy _ => true
  | .dropped => true
  | .other => true
  | .harrow _ _ _ => true
  | .check _ => true
  | .scan _ => true
  | .reset _ => false
  | .status _ => false
  | .temperature _ => false
  | .train _ _ _ => false
  | .mdw _ _ _ => false

/-- Whether an issued media operation is over with nothing to be told: a peer read whose reconstruction has ended, or a
read nobody waits for any more, once its data has passed (R60 step 4); a TRN or MDW no alert can name any more (R231). -/
def staleMop (d : Dp) (m : Mop) : Bool :=
  match m.issued with
  | none => false
  | some t => 150 ≤ elapsed t d.now && match m.kind with
    | .peer tag _ => !(d.acc.reads.any fun r => r.tag = tag && r.peersOut)
    | .dropped => true
    | .train _ _ _ => !(chanOf d m.chan).alertLow
    | .mdw _ _ _ => !(chanOf d m.chan).alertLow
    | _ => false

/-- The write eye of a package is re-centred lane by lane (R235), by what a pair of TRN modes 3 and 4 found. -/
def recentre (k w : Nat) (drift : List (BitVec 6)) (d : Dp) : Dp :=
  modChan k (fun x => { x with eye := drift.zipIdx.foldl (fun m y =>
    if y.2 < 16 then smMod 0 m (16 * w + y.2) (· + y.1) else m) x.eye }) d

/-- The write delays of a package's lanes as training centres them (R234 step 5). -/
def centre (k w : Nat) (v : BitVec 96) (d : Dp) : Dp :=
  modChan k (fun x => { x with eye := (List.range 16).foldl (fun m l =>
    smSet 0 m (16 * w + l) (v.extractLsb' (6 * l) 6)) x.eye }) d

/-- The read delays of a package's lanes as the preamble of one of its read bursts leaves them (R235). -/
def track (k w : Nat) (d : Dp) : Dp :=
  bump (modChan k (fun x => { x with rdl := setAt x.rdl w (Config.laneDelays d.free) }) d)

/-- What a TRN of modes 2 to 4 leaves (R235, R236): mode 2 re-centres the read eye; the preamble of mode 4 is tracked, and the
pair of modes 3 and 4 re-centres the write eye by what it found. -/
def trainEnds (m : Mop) (d : Dp) : Dp :=
  match m.kind with
  | .train w mode drift =>
    if mode = 2 then track m.chan w d else if mode = 4 then recentre m.chan w drift (track m.chan w d) else d
  | _ => d

/-- Remove the media operations that are over; a TRN takes effect with its end. -/
def pruneMops (d : Dp) : Dp := (d.mops.filter (staleMop d)).foldl (fun d m => trainEnds m d) (dropMops (staleMop d) d)

/-- Give up the media reads that satisfy a test: those not issued are removed, those under way hold their partitions until
their data has passed, and are discarded (R60 step 4, R223). -/
def giveUp (p : Mop → Bool) (d : Dp) : Dp :=
  let d1 := dropMops (fun m => p m && m.issued.isNone) d
  { d1 with mops := mapIf p (fun m => { m with kind := .dropped }) d1.mops }

/-- The peer reads of a read. -/
def isPeerOf (tag : Nat) (m : Mop) : Bool := match m.kind with
  | .peer t _ => t = tag
  | _ => false

/-- The reads queued or in service at a partition. -/
def partReads (d : Dp) (k set : Nat) : List Mop :=
  d.mops.filter fun m => m.chan = k && m.set = set && m.kind.isRead && !staleMop d m

/-- The programme at a partition that holds the right or has been granted. -/
def partProg (d : Dp) (k set : Nat) : Option Prog :=
  d.mrg.progs.find? fun p => p.chan = k && p.set = set && p.st ≠ .pending && p.st ≠ .worn

/-- The limit of the start delay (R62, R65), 250 ns, in the units of 1/480 ns in which start delays are counted. -/
def delayLimit : Nat := 250 * 480

/-- Remaining time of a programme (R62, first term) in units of 1/480 ns: from its last data beat, 700 ns of tPRG and the
11.3 ns of the frame decode. -/
def progRemain (d : Dp) (p : Prog) : Nat :=
  match p.st with
  | .pending => 0
  | .hasRight => 807 * 480
  | .granted => if p.told then 0 else 10 * p.dataEnd + 7113 * 48 - 480 * d.now.toNat
  | .resetting => 0
  | .overrun => 0
  | .worn => 0

/-- Remaining time of a partition reset (R62, second term), in ns. -/
def resetRemain (d : Dp) (k set : Nat) : Nat :=
  (d.mops.filter fun m => m.chan = k && m.set = set && (match m.kind with | .reset _ => true | _ => false)).foldl
    (fun a m => a + match m.issued with | some t => 70 - elapsed t d.now | none => 70) 0

/-- The start-delay estimate E of R62, in units of 1/480 ns. -/
def startDelay (d : Dp) (k set : Nat) : Nat :=
  ((partProg d k set).map (progRemain d)).getD 0 + 480 * (resetRemain d k set +
    (partReads d k set).foldl (fun a m => a + match m.issued with | some t => 150 - elapsed t d.now | none => 150) 0)

/-- Whether a slot holds indeterminate content, which no read may take from the media (R65). -/
def indeterminate (d : Dp) (loc : Nat × Nat × Nat) : Bool :=
  d.mrg.progs.any fun p => p.abandoned && p.set = loc.1 && p.row = loc.2.1 && p.chan = loc.2.2

/-- Whether a programme occupies or waits with the right for a partition (R62, R63). -/
def progInProgress (d : Dp) (k set : Nat) : Bool :=
  match partProg d k set with
  | some p => p.st = .hasRight || p.st = .granted
  | none => false

/-- The controller's image of a slot whose programme has begun and not verified: in flight, abandoned, discarded or failed
and to be issued again (R64). -/
def slotImage (d : Dp) (loc : Nat × Nat × Nat) : Option Image :=
  (d.mrg.progs.find? fun p => p.begun && p.set = loc.1 && p.row = loc.2.1 && p.chan = loc.2.2).map (·.image)

/-- Whether the parity programme of a delta is among the substituted images (R64). -/
def parityInFlight (d : Dp) (id : Nat) : Bool := d.mrg.progs.any fun p => p.kind = .parity id && p.begun

/-- The pending parity deltas of a stripe, exclusive-ORed (R64). -/
def pendingDelta (d : Dp) (s : Stripe) : Image :=
  xorImages ((d.mrg.deltas.filter fun x => x.stripe = s && !parityInFlight d x.id).map (·.delta))

/-- Whether a row's parity awaits recomputation, its delta discarded (R169). -/
def rowRecompute (d : Dp) (s : Stripe) : Bool := d.mrg.deltas.any fun x => x.stripe = s && x.recompute

/-- Rebuild the member of a stripe on channel k from the 16 other codewords as they arrived, in ascending channel
order, with the substitutions of R64. -/
def rebuildImage (d : Dp) (s : Stripe) (k : Nat) (arrived : List Image) : Image :=
  let others := (List.range 17).filter (· ≠ k)
  let imgs := others.zipIdx.map fun x =>
    match memberLoc d s x.1 with
    | some loc => (slotImage d loc).getD (arrived.getD x.2 0)
    | none => arrived.getD x.2 0
  xorImages imgs ^^^ pendingDelta d s

/-- Count the inner-status classes of a codeword read at a channel unit (R165, R412). -/
def innerCount (c : Ctl) (k : Nat) (inner : BitVec 12) (d : Dp) : Dp :=
  (List.range 4).foldl (fun d j =>
    let x := (inner.extractLsb' (3 * j) 3).toNat
    pmuCount c (1 + k) (if x = 0 then 0x16 else if x ≤ 2 then 0x17 else if x ≤ 4 then 0x18 else 0x19) 1 d) d

/-- The master of a page rewrite (R318): tilling, or another media-health engine. -/
def rewriteMaster (d : Dp) (p : Page) : Nat :=
  match findRewrite d p with
  | some r => match r.why with
    | .till _ _ => 2
    | _ => 6
  | none => 6

/-- The master of a read tag (R318). -/
def readMaster (d : Dp) (tag : Nat) : Nat :=
  match findRead d tag with
  | some r => match r.kind with
    | .partialWr _ _ _ => 1
    | .patrol _ _ => 3
    | .rebuild _ _ _ => 4
    | _ => 0
  | none => 0

/-- The master of a media operation (R318): the class it is done for, a media-health engine, the maintenance engine, MP_1 for Scan
Media, or none. -/
def mopMaster (d : Dp) (m : Mop) : Nat :=
  match m.kind with
  | .sector t _ => readMaster d t
  | .codeword t => readMaster d t
  | .peer t _ => readMaster d t
  | .rmw _ => 1
  | .oldParity _ => 1
  | .copy p => rewriteMaster d p
  | .harrow _ _ _ => 3
  | .check _ => 6
  | .other => 7
  | .scan _ => 9
  | _ => 0xFF

/-- The master of a programme (R318). -/
def progMaster (d : Dp) (p : Prog) : Nat :=
  match p.kind with
  | .rewrite q _ => rewriteMaster d q
  | .inPlace q _ => rewriteMaster d q
  | .rebuild _ _ _ => 4
  | .store _ _ => 5
  | .journal _ _ => 6
  | .overwrite => 6
  | _ => 1

/-- One slot of a read burst fails its CRC-16: counted and reported (R231). -/
def slotFails (c : Ctl) (k master : Nat) (d : Dp) : Dp :=
  pmuCount c (1 + k) 0x1B 1 (raise k 0x18 0 0 master 0 (modChan k (fun x => { x with rdCrc := satInc 0xFFFF x.rdCrc }) d))

/-- The burst of a read arrives: its preamble, its bytes, and the slots whose CRC-16 failed (R231, R235). -/
def burstIn (c : Ctl) (m : Mop) (bytes bad : Nat) (d : Dp) : Dp :=
  (List.range bad).foldl (fun d _ => slotFails c m.chan (mopMaster d m) d) (pmuBytes (2 + m.chan) bytes (track m.chan (setWarp m.set) d))

/-- The burst of a codeword read arrives (R165, R231). -/
def cwIn (c : Ctl) (m : Mop) (b : Burst) (d : Dp) : Dp :=
  innerCount c m.chan b.inner (burstIn c m 288 (badSlots b) d)

/-- What arrived of member ch of a stripe, where raw is the member on channel k and peers are the 16 others in ascending
channel order. -/
def burstOf (k : Nat) (raw : Burst) (peers : List Burst) (ch : Nat) : Burst :=
  if ch = k then raw else peers.getD (if ch < k then ch else ch - 1) {}

/-- The member of a stripe, by channel, that a media operation reads; a member moved meanwhile counts by its channel. -/
def memberOf (d : Dp) (s : Stripe) (m : Mop) : Nat :=
  ((List.range 17).find? fun k => memberLoc d s k = some (m.set, m.row, m.chan)).getD m.chan

/-- The codeword reads of a stripe arrive, each on its channel, but for those whose bursts were absent. -/
def arrivals (c : Ctl) (s : Stripe) (f : Nat → Burst) (ms : List Mop) (d : Dp) : Dp :=
  ms.foldl (fun a m => if m.absent then a else cwIn c m (f (memberOf d s m)) a) d

/-- Abandon a granted programme that a host-dependent peer read meets with more than 250 ns remaining (R65): its
partition reset is queued, once. -/
def abandon (k set : Nat) (d : Dp) : Dp :=
  match partProg d k set with
  | some p =>
    if p.st = .granted ∧ delayLimit < progRemain d p ∧ !(d.mops.any fun m => m.kind = .reset p.id) then
      addMop k set p.row 1 (.reset p.id) 0 d
    else d
  | none => d

/-- The requester of a reconstruction's peer reads (R463): 1; 3 for the reads of a rebuild. -/
def peerReq (d : Dp) (tag : Nat) : Nat :=
  match findRead d tag with
  | some r => match r.kind with
    | .rebuild _ _ _ => 3
    | _ => 1
  | none => 1

/-- Queue the peer reads of a reconstruction (R64): a member whose slot has a programme in flight is not read. -/
def queuePeers (c : Ctl) (tag : Nat) (s : Stripe) (e : BitVec 64) (k : Nat) (host : Bool) (d : Dp) : Dp :=
  (List.range 17).foldl (fun d k' =>
    if k' = k then d
    else match memberLoc d s k' with
      | none => d
      | some loc =>
        if (slotImage d loc).isSome then d
        else
          let d1 := addMop loc.2.2 loc.1 loc.2.1 (peerReq d tag) (.peer tag host) (memberCode c d e (chanPos (stripeRow s) k')) d
          if host then abandon loc.2.2 loc.1 d1 else d1)
    (modRead tag (fun r => { r with peersOut := true, speculative := !host }) d)

/-- The other members of a stripe whose codewords a reconstruction reads (R64): a slot with a programme in flight is not. -/
def peersToRead (d : Dp) (s : Stripe) (k : Nat) : List (Nat × Nat × Nat × Nat) :=
  (List.range 17).filterMap fun k' =>
    if k' = k then none
    else match memberLoc d s k' with
      | none => none
      | some loc => if (slotImage d loc).isSome then none else some (k', loc)

/-- Queue the peer reads of a background operation's reconstruction (R64, R463). -/
def queuePeerReads (c : Ctl) (kind : MopKind) (s : Stripe) (k : Nat) (e : BitVec 64) (d : Dp) : Dp :=
  (peersToRead d s k).foldl (fun d x =>
    addMop x.2.2.2 x.2.1 x.2.2.1 1 kind (memberCode c d e (chanPos (stripeRow s) x.1)) d) d

/-- Whether every other member of a stripe is available, so that the member on channel k can be rebuilt (R64). -/
def reconstructable (d : Dp) (s : Stripe) (k : Nat) : Bool :=
  (lostMembers d s).all fun x => x = k

/-- The stripe and channel a read's line lies on, by the entry of its lookup. -/
def readPlace (r : Read) : Stripe × Nat :=
  let s := entryStripe r.entry
  (s, posChan (stripeRow s) (linePos (secLine r.line)))

/-- Name the four lines of a lost codeword position, once (R145): the LINES_LOST message and the poison list. -/
def nameLost (l : LineAddr) (d : Dp) : Dp :=
  let a := lineSec l 0
  if a ∈ d.mh.lostLines then d
  else
    let d1 := raise 0x5B 0x04 a.toNat 4 0x06 0 { d with mh := { d.mh with lostLines := d.mh.lostLines ++ [a] } }
    (List.range 4).foldl (fun d k => poisonAdd (lineSec l k) false d) d1

/-- Whether the data of a line has been lost and not written since: every read of it gives poison (R73, R145). -/
def lineLost (d : Dp) (l : LineAddr) : Bool := lineSec l 0 ∈ d.mh.lostLines

/-- A line's position holds data again (R73). -/
def lineWritten (l : LineAddr) (d : Dp) : Dp :=
  if lineLost d l then { d with mh := { d.mh with lostLines := d.mh.lostLines.filter (· ≠ lineSec l 0) } } else d

/-- Report one lost 64-byte line by address (R73, R169). -/
def nameLine (a : SecAddr) (d : Dp) : Dp := poisonAdd a false (raise 0x5B 0x04 a.toNat 1 0x06 0 d)

/-- A data position that can be neither read nor rebuilt while its stripe is otherwise readable (R145, R166). -/
def lostPosition (l : LineAddr) (d : Dp) : Dp := addWork 2 (.poisonLost (linePage l)) (nameLost l d)

/-- A stripe enters the lost-data state (R145, R152): one event record, and LINES_LOST for each unavailable data
position that holds host data. -/
def lostStripe (c : Ctl) (s : Stripe) (d : Dp) : Dp :=
  if s.toNat ∈ d.mh.lostStripes then d
  else
    let gone := match stripeOwner d s with
      | none => []
      | some p => ((List.range 16).filter fun j => unavailable d s (posChan (stripeRow s) j)).map fun j => pageLine (BitVec.ofNat 31 p) j
    let d1 := dpaRecord c 2 8 ((gone.head?.map fun l => lineSec l 0).getD 0)
      { d with mh := { d.mh with lostStripes := d.mh.lostStripes ++ [s.toNat] } }
    gone.foldl (fun d l => nameLost l d) d1

/-- Enter the lost-data state where a stripe now has two unavailable members. -/
def checkLost (c : Ctl) (s : Stripe) (d : Dp) : Dp := if 2 ≤ (lostMembers d s).length then lostStripe c s d else d

/-- Whether a read is a partial write's sector read. -/
def RdKind.isPartial : RdKind → Bool
  | .partialWr _ _ _ => true
  | _ => false

/-- Answer, in order of acceptance, the reads of one 64-byte line that a value has become known for (R66, R250,
R254). A partial write merges into the sector's present value, and the reads after it see the merged value; a later
whole write that is already placed stands. -/
def settleGo (c : Ctl) (a : SecAddr) : List (Nat × Sector × Bool) → List Read → Sector × Bool → Dp → Dp
  | _, [], _, d => d
  | ws0, r :: rs, cur0, d =>
    let cur := ((ws0.filter fun w => w.1 < r.tag).getLast?.map (·.2)).getD cur0
    let ws := ws0.filter fun w => r.tag < w.1
    match r.kind with
    | .partialWr v en p =>
      let later := ws ≠ []
      let base := if later then cur else (heldValue d a).getD cur
      let poison := base.2 || p
      let nv : Sector := if poison then 0 else mergeBytes base.1 v en
      let d1 := if later then d
                else placeSector c (secLine a) (secIdx a) nv poison ((slotOfDpa d (secDpa a)).getD 0) false d
      settleGo c a ws rs (nv, poison) (answer c r.tag (.cmp a) d1)
    | .host => settleGo c a ws rs cur (answer c r.tag (.memData a (if cur.2 then 0 else cur.1) cur.2) d)
    | .spec => settleGo c a ws rs cur d
    | .rebuild _ _ _ => settleGo c a ws rs cur d
    | .patrol _ _ => settleGo c a ws rs cur d

/-- The whole-sector writes of a line accepted and not yet answered, in order of acceptance, with their data. -/
def wholeWrites (d : Dp) (a : SecAddr) : List (Nat × Sector × Bool) :=
  d.acc.pend.filterMap fun q => if q.line = a then q.whole.map fun v => (q.tag, v) else none

/-- Settle the requests of a line that waited for its value, in order of acceptance (R250, R254): each sees the value as the
writes accepted before it leave it. -/
def settle (c : Ctl) (a : SecAddr) (rs : List Read) (v : Sector × Bool) (d : Dp) : Dp :=
  settleGo c a (wholeWrites d a) rs v d

/-- The reads answered with a read: itself, and those that wait at the line or behind a partial write. -/
def settled (d : Dp) (r : Read) : List Read :=
  d.acc.reads.filter fun x => x.line = r.line && (x.tag = r.tag || x.phase = .line)

/-- A read's sector is known: it is filled under R184, and the reads that wait for it are answered. Where the read is a
fault read, so are those, whose answers depended on the same operations (R66, R75). -/
def finishRead (c : Ctl) (tag : Nat) (v : Sector) (poison : Bool) (d : Dp) : Dp :=
  match findRead d tag with
  | none => d
  | some r =>
    let rs := settled d r
    let d1 := if r.fault then rs.foldl (fun d x => modRead x.tag (fun y => { y with fault := true }) d) d else d
    settle c r.line rs (v, poison) (fillFetched r.line v poison c d1)

/-- Fill the other sectors of a decoded codeword (R183), leaving those that other reads are fetching. -/
def fillOthers (c : Ctl) (l : LineAddr) (k : Nat) (i : Image) (d : Dp) : Dp :=
  (List.range 4).foldl (fun d j =>
    if j = k then d else fillBeside (lineSec l j) (plainSector d l i j) (imgPoison i j) c d) d

/-- A read is answered from a decoded codeword (R60, R183): the needed sector first, then the other three. -/
def finishCodeword (c : Ctl) (tag : Nat) (i : Image) (d : Dp) : Dp :=
  match findRead d tag with
  | none => d
  | some r =>
    let l := secLine r.line
    let k := secIdx r.line
    fillOthers c l k i (finishRead c tag (plainSector d l i k) (imgPoison i k) (pmuCount c 22 0x11 4 d))

/-- A read of an unmapped page returns zeros, and its line fills with zeros (R47, R183). -/
def finishZero (c : Ctl) (tag : Nat) (d : Dp) : Dp :=
  match findRead d tag with
  | none => d
  | some r =>
    let l := secLine r.line
    let k := secIdx r.line
    (List.range 4).foldl (fun d j =>
      if j = k then d else fillBeside (lineSec l j) 0 false c d)
      (finishRead c tag 0 false (pmuCount c 0 0x14 1 (modRead tag (fun x => { x with route := .unmapped }) d)))

/-- Host-read event code of a route (R412). -/
def routeEvent : Route → Nat
  | .direct => 0x15
  | .busy => 0x16
  | .hot => 0x17
  | .lost => 0x18
  | .cache => 0
  | .unmapped => 0
  | .notAccepted => 0

/-- Send a read on a reconstruction that the host depends on (R62, R64), or answer poison where a second member is
unavailable (R72). -/
def reconstruct (c : Ctl) (tag : Nat) (route : Route) (d : Dp) : Dp :=
  match findRead d tag with
  | none => d
  | some r =>
    let pl := readPlace r
    let d1 := pmuCount c 0 (routeEvent route) 1 (modRead tag (fun x => { x with route := route, phase := .media }) d)
    if reconstructable d pl.1 pl.2 then
      queuePeers c tag pl.1 r.entry pl.2 true
        (modRead tag (fun x => { x with fault := x.fault || rowRecompute d pl.1 }) d1)
    else finishRead c tag 0 true d1

/-- The partition decision of R62. A slot left indeterminate by an abandoned programme is read through its peers. -/
def channelSelect (c : Ctl) (tag : Nat) (d : Dp) : Dp :=
  match findRead d tag with
  | none => d
  | some r =>
    let pl := readPlace r
    match memberLoc d pl.1 pl.2 with
    | none => reconstruct c tag .lost d
    | some loc =>
      if indeterminate d loc then
        reconstruct c tag .lost d
      else if 2 < (partReads d loc.2.2 loc.1).length ∨ delayLimit < startDelay d loc.2.2 loc.1 then
        reconstruct c tag (if progInProgress d loc.2.2 loc.1 then .busy else .hot) d
      else
        addMop loc.2.2 loc.1 loc.2.1 0 (.sector tag (secIdx r.line)) (memberCode c d r.entry (linePos (secLine r.line)))
          (pmuCount c 0 0x15 1 (modRead tag (fun x => { x with route := .direct, phase := .media }) d))

/-- The mapping result of a read is known (R56): a lost entry gives poison (R49), an unmapped page zeros (R47), a
mapped page goes on to channel select, unless the line's data has been lost (R73). -/
def afterMap (c : Ctl) (tag : Nat) (e : BitVec 64) (d : Dp) : Dp :=
  match findRead d tag with
  | none => d
  | some r =>
    let d1 := modRead tag (fun x => { x with entry := e, translate := some d.now }) d
    match r.kind with
    | .spec => dropRead tag d1
    | _ =>
      if pageLost d (linePage (secLine r.line)).toNat || (entryValid e && lineLost d (secLine r.line)) then finishRead c tag 0 true d1
      else if entryValid e then channelSelect c tag d1
      else finishZero c tag d1

/-- The record of a mapping lookup that answers nobody: a prefetch, or one that went on beside a hit (R56, R249). -/
def lookupRecord (tag : Nat) (a : SecAddr) (now : Stamp) : Read :=
  { tag := tag, line := a, kind := .spec, slot := 0, arrived := now, ceiling := false, phase := .media, entry := 0,
    route := .cache, alloc := false, escalated := false, cwOut := false, peersOut := false, speculative := false,
    fault := false, tagged := false, accept := now, translate := none, issue := none, ret := none, decode := none, recon := none }

/-- A mapping lookup (R48): the cache, or one mirror copy by R48 and R201. The lookup of a page known to be lost gives
poison at once. -/
def lookup (c : Ctl) (tag : Nat) (d : Dp) : Dp :=
  match findRead d tag with
  | none => d
  | some r =>
    let p := (linePage (secLine r.line)).toNat
    if pageLost d p then afterMap c tag 0 d
    else match cacheLine d p with
      | some m => afterMap c tag m.entry d
      | none => sendMapRead c tag p (pickCopyB d p)
          (pmuCount c 20 0x10 1 (modRead tag (fun x => { x with phase := .map (pickCopyB d p) false }) d))

/-- An SRAM message's address (R313, R461). -/
def sramAddr (array word : Nat) : Nat := array * 2 ^ 32 + word

/-- Ways taken out of service that still hold dirty sectors are copied out and hold no line any more (R190, R94);
a locked one stays locked, with its owner (R182). -/
def emptyOutWays (c : Ctl) (d : Dp) : Dp :=
  d.lc.out.foldl (fun d k =>
    if (getWay d k).valid then
      let d1 := copyOut c k true d
      emptyWay k d1
    else d) d

/-- A corrected SRAM word (R169): counted, an event of the recurring-correction table, and a message. -/
def sramCorrected (c : Ctl) (src array word master : Nat) (d : Dp) : Dp :=
  emptyOutWays c (rctEvent c (.sram array word) (corrVolatile (raise src 0x28 (sramAddr array word) 0 master 0 d)))

/-- Poison the dirty sectors of a way that are named, and report them by DPA (R169). -/
def poisonWay (key : Nat) (ks : List Nat) (d : Dp) : Dp :=
  let l := lineOfWay key (getWay d key)
  ks.foldl (fun d k =>
    let w := getWay d key
    nameLine (lineSec l k)
      (setSector key k { (w.put k 0) with sv := setBit w.sv k, sd := setBit w.sd k, poison := setBit w.poison k } d)) d

/-- What the SRAM codes find at a line-cache sector, and its handling (R169, R461). A tag parity error reloads the tag from
the state entry; it is counted as a corrected error and is no event of the recurring-correction table. -/
def lineEcc (c : Ctl) (key k : Nat) (ecc : SramEcc) (d : Dp) : Dp :=
  let slice := sliceOf (key / 16)
  let w := getWay d key
  let bad := fun (array word : Nat) => raise (0x48 + slice) 0x29 (sramAddr array word) 0 0 0 d
  let lost := fun (n : BitVec 3) =>
    let d1 := bad slice (wayWord key k + n.toNat)
    if w.sd.getLsbD k then poisonWay key [k] d1
    else if w.sd = 0 ∧ w.fill = 0 then emptyWay key d1
    else setWay key { w with sv := clrBit w.sv k } d1
  match ecc with
  | .ok => d
  | .corrected n => sramCorrected c (0x48 + slice) slice (wayWord key k + n.toNat) 0 d
  | .uncorrectable n _ => lost n
  | .stateCorrected => sramCorrected c (0x48 + slice) (0x10 + slice) (stateWordOf key) 0 d
  | .tagParity => corrVolatile (raise (0x48 + slice) 0x28 (sramAddr (0x10 + slice) (stateWordOf key)) 0 0 0 d)
  | .stateUncorrectable =>
    let d1 := bad (0x10 + slice) (stateWordOf key)
    if w.sd ≠ 0 then poisonWay key [0, 1, 2, 3] d1 else emptyWay key d1

/-- An image of an entry is replaced: programmes not yet begun carry the new one, and the parity of a whole-page write
follows (R40). -/
def reimage (e : MEntry) (new : Image) (d : Dp) : Dp :=
  let page := linePage e.line
  let carry := fun (p : Prog) => match p.kind with
    | .data id => if id = e.id then { p with image := new } else p
    | .full q j => if q = page && e.whole then
        (if j = linePos e.line then { p with image := new } else if j = 16 then { p with image := p.image ^^^ e.image ^^^ new } else p)
      else p
    | _ => p
  let d1 := modEntry e.id (fun x => { x with image := new }) d
  { d1 with mrg := { d1.mrg with progs := d1.mrg.progs.map fun p => if p.begun then p else carry p } }

/-- The stored bytes of a sealed image with bits of one of its 36 words wrong (R159, R461). -/
def spoiled (i : Image) (word : Nat) (bits : BitVec 64) : Image :=
  i ^^^ ((packBytes 64 (wordBytes bits)).setWidth 2304 <<< (2304 - 64 * (word + 1)))

/-- What the SRAM codes find at a word of an entry's 320 bytes (R87, R169, R461): the image takes 36 words, the tag and the state
four. An uncorrectable ASSEMBLING sector is poisoned. A sealed image is recomputed by outer decode of its stored bytes; where
that fails the sector is poisoned, a word of the check bytes striking no sector. The words of the tag and the state are only
reported (DESIGN CHOICE, log entry 138). -/
def entryEcc (c : Ctl) (e : MEntry) (word : Nat) (bits : Option (BitVec 64)) (d : Dp) : Dp :=
  match bits with
  | none => sramCorrected c 0x58 0x20 (e.id * 40 + word) 0 d
  | some b =>
    let d1 := raise 0x58 0x29 (sramAddr 0x20 (e.id * 40 + word)) 0 0 0 d
    let k := word / 8
    let lost := fun (d : Dp) => nameLine (lineSec e.line k)
      (sramWrote 0x20 (e.id * 40 + 8 * k) 8 (modEntry e.id (fun x => x.put k 0 true) d))
    if 36 ≤ word then d1
    else if e.st = .assembling then (if word < 32 then lost d1 else d1)
    else if (outerDecode (spoiled e.image word b) (hostLabel e.slot (linePage e.line) (linePos e.line))).cls.good then d1
    else if word < 32 then reimage e (entryImage d (e.put k 0 true)) (lost d1)
    else reimage e (entryImage d e) d1

/-- What the SRAM codes find at a merge-buffer sector (R169). -/
def mergeEcc (c : Ctl) (e : MEntry) (k : Nat) (ecc : SramEcc) (d : Dp) : Dp :=
  match ecc with
  | .corrected n => entryEcc c e (8 * k + n.toNat) none d
  | .uncorrectable n b => entryEcc c e (8 * k + n.toNat) (some b) d
  | .stateCorrected => entryEcc c e 36 none d
  | .stateUncorrectable => entryEcc c e 36 (some 0) d
  | _ => d

/-- What the SRAM codes find at a sector of a line, wherever it is held. -/
def holdEcc (c : Ctl) (a : SecAddr) (ecc : SramEcc) (d : Dp) : Dp :=
  let k := secIdx a
  match findWay d (secLine a) with
  | some key =>
    if (getWay d key).sv.getLsbD k ∨ ecc = .stateUncorrectable ∨ ecc = .stateCorrected ∨ ecc = .tagParity then
      lineEcc c key k ecc d
    else match holdingEntry d (secLine a) k with
      | some e => mergeEcc c e k ecc d
      | none => d
  | none => match holdingEntry d (secLine a) k with
    | some e => mergeEcc c e k ecc d
    | none => d

/-- What the SRAM codes find at the mapping-cache line of a page (R169): an uncorrectable entry is discarded and
reread from HBM. A pinned one reads again what copy A holds; the change it carries goes on, and is its value once both copies
hold it (DEDUCED, log entry 137). Which
word of the array holds a page's entry is the model's (DESIGN CHOICE): page mod 1,572,864 (log entry 137). -/
def mapEccAt (c : Ctl) (p : Nat) (ecc : SramEcc) (d : Dp) : Dp :=
  match cacheLine d p with
  | none => d
  | some m =>
    match ecc with
    | .ok => d
    | .tagParity => d
    | .corrected _ => sramCorrected c 0x42 0x22 (p % mapCacheLines) 0 d
    | .stateCorrected => sramCorrected c 0x42 0x22 (p % mapCacheLines) 0 d
    | _ =>
      let d1 := raise 0x42 0x29 (sramAddr 0x22 (p % mapCacheLines)) 0 0 0 d
      if m.pinned then { d1 with map := { d1.map with
        cache := mapIf (fun x => x.page = p) (fun x => { x with entry := smGet 0 d1.map.copyA p }) d1.map.cache } }
      else { d1 with map := { d1.map with cache := d1.map.cache.filter fun x => x.page ≠ p } }

/-- What the SRAM codes find where an engine reads the line cache or the merge buffer. -/
def heldEcc (c : Ctl) (x : HeldEcc) (d : Dp) : Dp :=
  match x with
  | .way key k ecc => if (getWay d key).valid then lineEcc c key k ecc d else d
  | .entry id word bits => match findEntry d id with
    | some e => entryEcc c e word bits d
    | none => d

/-- All of it (R169). -/
def heldEccs (c : Ctl) (l : List HeldEcc) (d : Dp) : Dp := l.foldl (fun d x => heldEcc c x d) d

/-- Start the fetch of a read's sector: the line is allocated in FILL when it is absent and its class allows
(R178, R180), and the mapping is looked up. -/
def startFetch (c : Ctl) (tag : Nat) (d : Dp) : Dp :=
  match findRead d tag with
  | none => d
  | some r =>
    let k := secIdx r.line
    let mark := fun (key : Nat) (d : Dp) =>
      modRead tag (fun x => { x with alloc := true }) (setWay key { (getWay d key) with fill := setBit (getWay d key).fill k } d)
    let d1 : Dp := match findWay d (secLine r.line) with
      | some key => mark key d
      | none => match allocClean c 0 (secLine r.line) ((slotOfDpa d (secDpa r.line)).getD 0) d with
        | some x => mark x.1 x.2
        | none => d
    lookup c tag d1

/-- Whether a sector is being fetched for its line (R66). -/
def inFill (d : Dp) (a : SecAddr) : Bool :=
  match findWay d (secLine a) with
  | some key => (getWay d key).fill.getLsbD (secIdx a)
  | none => false

/-- The mapping lookup that starts beside the probe of every read (R56), for a read that does not fetch: on a miss of the
mapping cache. A hit in the line cache cancels it if it has not yet been sent to HBM, which is a free value (log entry 130);
one that is sent completes by itself and installs the entry. A line in FILL is no hit, nor is the merge buffer. -/
def besideHit (c : Ctl) (a : SecAddr) (d : Dp) : Dp :=
  let p := (linePage (secLine a)).toNat
  let hit := match findWay d (secLine a) with
    | some key => (getWay d key).sv.getLsbD (secIdx a)
    | none => false
  if pageLost d p || (cacheLine d p).isSome then d
  else if hit && (Config.freeValue 100 d.free).getLsbD 0 then bump d
  else
    let tag := d.acc.nextTag
    lookup c tag (bump { d with acc := { d.acc with
      nextTag := tag + 1, reads := d.acc.reads ++ [lookupRecord tag a d.now] } })

/-- The probe of an accepted read, of the line cache and the merge buffer (R56, R66, R84, R178). A read behind an unfinished partial write of its 64-byte line, and
a read whose sector is being fetched, wait; a held sector answers at once; the rest are fetched. -/
def probe (c : Ctl) (tag : Nat) (d0 : Dp) : Dp :=
  match findRead d0 tag with
  | none => d0
  | some r =>
    let d := heldLine c (secLine r.line) d0
    let wait := fun (d : Dp) => modRead tag (fun x => { x with phase := .line }) (besideHit c r.line d)
    if d.acc.reads.any fun x => x.tag < tag && x.line = r.line && x.kind.isPartial && x.phase ≠ .done then wait d
    else match heldValue d r.line with
      | some v =>
        settle c r.line [r] v <|
          modRead tag (fun x => { x with route := .cache }) <| besideHit c r.line <|
            if r.kind.isPartial then d else pmuCount c 18 0x11 1 (pmuCount c 0 0x13 1 d)
      | none => if inFill d r.line then wait d else startFetch c tag d

/-- Escalation (R60): a codeword read of the slot at the head of its queues, and speculative peer reads. -/
def escalate (c : Ctl) (tag : Nat) (d : Dp) : Dp :=
  match findRead d tag with
  | none => d
  | some r =>
    let pl := readPlace r
    let d1 := pmuCount c 0 0x19 1 (modRead tag (fun x => { x with escalated := true, cwOut := true }) d)
    match memberLoc d pl.1 pl.2 with
    | none => reconstruct c tag .lost (modRead tag (fun x => { x with cwOut := false }) d1)
    | some loc =>
      let d2 := addMopFirst loc.2.2 loc.1 loc.2.1 0 (.codeword tag)
        (memberCode c d r.entry (linePos (secLine r.line))) d1
      if reconstructable d pl.1 pl.2 then queuePeers c tag pl.1 r.entry pl.2 false d2 else d2

/-- Drop the peer reads of a read that are not yet issued; those issued run on and are discarded (R60 step 4). -/
def dropPeers (tag : Nat) (d : Dp) : Dp :=
  dropMops (fun m => match m.kind with
    | .peer t _ => t = tag && m.issued.isNone
    | _ => false) (modRead tag (fun r => { r with peersOut := false }) d)

/-- The peer reads of an escalation become those of a fault read (R61): from now on they may abandon. -/
def faultPeers (tag : Nat) (d : Dp) : Dp :=
  let d1 := { d with mops := d.mops.map fun m => match m.kind with
    | .peer t _ => if t = tag then { m with kind := .peer t true } else m
    | _ => m }
  (d.mops.filter fun m => match m.kind with
    | .peer t _ => t = tag && m.issued.isNone
    | _ => false).foldl (fun d m => abandon m.chan m.set d)
    (modRead tag (fun r => { r with fault := true, speculative := false }) d1)

/-- The correction event and rewrite that a decode calls for (R166): below the harrow limit the recurring-correction
table, for the slot that was read (R171), at or above it a rewrite at priority 3. -/
def afterCorrected (c : Ctl) (s : Stripe) (k : Nat) (n : Nat) (master : Nat) (d : Dp) : Dp :=
  let d1 := if n = 0 then d else raise 0x5A 0x01 s.toNat n master 0 d
  let at_ := match memberLoc d s k with
    | some x => RctLoc.media (mkStripe x.1 x.2.1) x.2.2
    | none => RctLoc.media s k
  if n < rg c 0xE0500 16 8 then rctEvent c at_ d1
  else match stripeOwner d s with
    | some p => addWork 3 (.relocate (BitVec.ofNat 31 p)) d1
    | none => d1

/-- The message of a decode that fails (R61, R164). -/
def raiseFailed (cls : OutClass) (s : Stripe) (pos master : Nat) (d : Dp) : Dp :=
  raise 0x5A (if cls = .misplaced then 0x03 else 0x02) s.toNat pos master 0 d

/-- The number of bits a decode corrected. -/
def OutClass.bits : OutClass → Nat
  | .corrected n => n
  | _ => 0

/-- Queue the rewrite a harrow read asks for: of the page, or of the metadata stripe. -/
def harrowRewrite (prio : Nat) (s : Stripe) (d : Dp) : Dp :=
  match stripeOwner d s with
  | some p => addWork prio (.relocate (BitVec.ofNat 31 p)) d
  | none => if rowRole (stripeRow s) = .metadata then addWork prio (.metadata s) d else d

/-- A member that a harrow read could neither decode nor rebuild (R141, R145). -/
def harrowLost (s : Stripe) (pos : Nat) (d : Dp) : Dp :=
  match stripeOwner d s with
  | some p => if pos = 16 then addWork 2 (.relocate (BitVec.ofNat 31 p)) d
              else lostPosition (pageLine (BitVec.ofNat 31 p) pos) d
  | none => d

end Sys2Proof.Machine
end

