-- ==== Sys2Proof/Machine/Calendar.lean ====
section
/-! DEFINITION. The DQ calendar of a channel engine (R225, R227, R229): which slots an operation reserves at its grant,
and whether they are free. Times are in units of 1/48 ns, in which a CK cycle is 40 and a DQ beat 5. -/

namespace Sys2Proof.Machine

/-- The present instant in calendar units. -/
def calNow (d : Dp) : Nat := 48 * d.now.toNat

/-- Whether a burst meets a reservation: they overlap, or a write burst starts less than 4 beats after a read burst
(R225). -/
def calClash (write : Bool) (a b : Nat) (x : DqSlot) : Bool :=
  decide (a < x.stop + (if write && !x.write then 20 else 0)) && decide (x.start < b + (if x.write && !write then 20 else 0))

/-- Whether a burst's beats are free. -/
def calFree (l : List DqSlot) (write : Bool) (a b : Nat) : Bool := l.all fun x => !calClash write a b x

/-- Command end: 10 ns after the grant (R227 step 2). -/
def cmdEnd (d : Dp) : Nat := calNow d + 480

/-- The slot of a read burst of a number of beats, RL after command end (R228). -/
def readSlot (d : Dp) (k w beats : Nat) : DqSlot :=
  let s := cmdEnd d + 40 * ((chanOf d k).rl.getD w 0)
  ⟨s, s + 5 * beats, false⟩

/-- The short slot of a register read: 12 beats, 24 CK cycles after command end (R227). -/
def shortSlot (d : Dp) : DqSlot := ⟨cmdEnd d + 960, cmdEnd d + 1020, false⟩

/-- The first free place for a write burst in its window of 8 to 71 CK cycles after command end (R227). -/
def writeSlot (d : Dp) (k beats : Nat) : Option DqSlot :=
  (List.range 64).findSome? fun i =>
    let s := cmdEnd d + 40 * (8 + i)
    if calFree (chanOf d k).cal true s (s + 5 * beats) then some ⟨s, s + 5 * beats, true⟩ else none

/-- A slot that is fixed by the grant, where it is free. -/
def fixedSlot (d : Dp) (k : Nat) (x : DqSlot) : Option (List DqSlot) :=
  if calFree (chanOf d k).cal x.write x.start x.stop then some [x] else none

/-- The slots a media operation granted now would reserve: none where they are not free. -/
def dqSlots (d : Dp) (m : Mop) : Option (List DqSlot) :=
  let w := setWarp m.set
  match m.kind with
  | .sector _ _ => fixedSlot d m.chan (readSlot d m.chan w 40)
  | .reset _ => some []
  | .mdw _ _ _ => some []
  | .status _ => fixedSlot d m.chan (shortSlot d)
  | .temperature _ => fixedSlot d m.chan (shortSlot d)
  | .train _ mode _ => if mode = 3 then (writeSlot d m.chan 40).map ([·]) else fixedSlot d m.chan (readSlot d m.chan w 40)
  | _ => fixedSlot d m.chan (readSlot d m.chan w 160)

/-- The slot a programme granted now would reserve: 160 beats. -/
def progSlot (d : Dp) (p : Prog) : Option DqSlot := writeSlot d p.chan 160

/-- Reserve slots in a channel's calendar; those that have passed leave it. -/
def reserve (k : Nat) (xs : List DqSlot) (d : Dp) : Dp :=
  modChan k (fun y => { y with cal := (y.cal.filter fun x => decide (calNow d ≤ x.stop + 20)) ++ xs }) d

/-- Whether a channel's DQ is reserved at this instant (R412). -/
def dqReserved (d : Dp) (k : Nat) : Bool :=
  (chanOf d k).cal.any fun x => decide (x.start < calNow d + 48 ∧ calNow d < x.stop)

/-- A command that a step of RISE or the sealing of a drain issues as a requester of a channel's port (R463): its word leaves,
and the ring goes on from that requester (R27). Such a step is one command of this model: its grants follow one another
within it, each once its slots are free, and when the step is over their slots have passed (DESIGN CHOICE, log entry 150). -/
def portSend (k r w : Nat) (word : BitVec 40) (d : Dp) : Dp :=
  emit (.mediaCmd k w word) (modChan k (fun y => { y with lastWin := r }) d)

/-- When a programme's last data beat leaves, in calendar units: two gap beats before the end of its slot (R227 step 3); with
no slot found, at the end of the window. -/
def dataEndOf (d : Dp) (x : Option DqSlot) : Nat :=
  match x with
  | some y => y.stop - 10
  | none => cmdEnd d + 40 * 71 + 790

end Sys2Proof.Machine
end

