-- ==== Sys2Proof/Machine/ReadReturn.lean ====
section
/-! DEFINITION. What comes back on the read path: mapping reads and their restore (R49), direct sectors (R59), codeword
reads (R60), reconstructions (R64) and absent bursts (R231). -/

namespace Sys2Proof.Machine

/-- Install a decoded codeword as a clean line where it is absent and the class's mask allows (R183); its poisoned
sectors, and those the merge buffer holds, are not filled. Without keys there is no plaintext to install. -/
def installCodeword (c : Ctl) (cls : Nat) (l : LineAddr) (i : Image) (d : Dp) : Dp :=
  if refusing d then d
  else match findWay d l with
  | some _ => d
  | none => match allocClean c cls l ((slotOfDpa d (l.toNat * 256)).getD 0) d with
    | none => d
    | some x => (List.range 4).foldl (fun d k =>
        fillFetched (lineSec l k) (plainSector d l i k) (imgPoison i k) c d) x.2

/-- The expected label of a member of a stripe; position 16 is the parity codeword (R161, R164). -/
def memberLabel (d : Dp) (s : Stripe) (pos : Nat) (i : Image) : Label :=
  if pos = 16 then parityLabel
  else if rowRole (stripeRow s) = .metadata then metaLabel (metaIndex (stripeSets (cfgN d)) s) pos
  else match stripeOwner d s with
    | some p => wantLabel d (pageLine (BitVec.ofNat 31 p) pos) i
    | none => parityLabel

/-- The issued media operation of a kind. -/
def issuedMop (d : Dp) (p : MopKind → Bool) : Option Mop := d.mops.find? fun m => p m.kind && m.issued.isSome

/-- A mapping read's mirror copy is unreadable the second time: the entry is lost (R49). The message is raised once. The
stripe it named stays out of the pool until the next RISE, unless the entry is restored. -/
def loseEntry (p : Nat) (d : Dp) : Dp :=
  if p ∈ d.map.lost then d
  else raise 0x42 0x24 (pageSec (BitVec.ofNat 31 p)).toNat 64 0 0
    { d with map := { d.map with
        lost := d.map.lost ++ [p], copyA := smErase d.map.copyA p, copyB := smErase d.map.copyB p
        stranded := if entryValid (smGet 0 d.map.copyA p) then addOnce (entryStripe (smGet 0 d.map.copyA p)).toNat d.map.stranded
                    else d.map.stranded } }

/-- The 32-byte word of a mirror copy that holds a page's entry (R199): entries 4w to 4w + 3, the first in the lowest
bits (DESIGN CHOICE, log entry 45). -/
def mapWord (d : Dp) (copyB : Bool) (p : Nat) : BitVec 256 :=
  let e := fun (i : Nat) => smGet 0 (if copyB then d.map.copyB else d.map.copyA) (p / 4 * 4 + i)
  e 3 ++ e 2 ++ e 1 ++ e 0

/-- What the check bits say of a mirror copy's read, and the entry it delivers (R167): `err` are the bits that read wrong. -/
def mapRead (d : Dp) (copyB : Bool) (p : Nat) (err : BitVec 288) : HbmEcc × BitVec 64 :=
  let x := entryPos d p
  let r := hbmRead (mapWord d copyB p) (hbmVas (if copyB then partner x.1 else x.1) x.2.1 x.2.2.1 x.2.2.2) err
  (r.1, r.2.extractLsb' (64 * (p % 4)) 64)

/-- MAPPING_READ_RETURN's effect (R49, R168, R206), once it is the read's turn in its pseudo-channel (R202). -/
def mappingReturned (c : Ctl) (tag : Nat) (err : BitVec 288) (d0 : Dp) : Dp :=
  if readTurn d0 tag = false then d0
  else
    let d := readOver c tag d0
    match findRead d tag with
    | none => d
    | some r =>
      match r.phase with
      | .map copyB second =>
        let p := (linePage (secLine r.line)).toNat
        let x := entryPos d p
        let pc := if copyB then partner x.1 else x.1
        let d1 := pmuBytes (19 + pc / 4) 32 d
        let got := mapRead d1 copyB p err
        let found := ((cacheLine d1 p).map (·.entry)).getD got.2
        let good := fun (d : Dp) =>
          let d2 := if second && !(cacheLine d p).any (·.pinned) then
            postWrite 2 (partner pc) x.2.1 x.2.2.1 x.2.2.2 <| corrVolatile { d with map := { d.map with
                        copyA := smSet 0 d.map.copyA p got.2, copyB := smSet 0 d.map.copyB p got.2 } } else d
          afterMap c tag found (cacheEntry p found d2)
        match got.1 with
        | .good => good d1
        | .corrected => good (hbmCorrected c pc x.2.1 x.2.2.1 x.2.2.2 d1)
        | .uncorrectable =>
          let d2 := raise (0x20 + pc) 0x21 (hbmAddr x.2.1 x.2.2.1 x.2.2.2) 0 0 0 d1
          if (cacheLine d2 p).isSome then afterMap c tag found d2
          else if second = false then
            let met := ownWindow d2 (if copyB then x.1 else partner x.1) x.2.1
            sendMapRead c tag p (!copyB) (pmuCount c 20 0x11 1 (modRead tag (fun y => { y with phase := .map (!copyB) true })
              { d2 with hbm := { d2.hbm with second := if met then satInc 0xFFFF d2.hbm.second else d2.hbm.second } }))
          else afterMap c tag 0 (loseEntry p d2)
      | .line => d
      | .media => d
      | .done => d

/-- MAPPING_READ_RETURN (R49): a mirror-copy read returns and its check bits are verified. -/
def execMappingReadReturn (tag : Nat) (err : BitVec 288) (s : State) : Host.Outcome State Fault Refusal :=
  onDp (fun c d => mappingReturned c tag err d) s

/-- A codeword of 256 zero bytes with every sector poisoned (R49, R162). -/
def poisonImage (d : Dp) (slot : BitVec 6) (p : Page) (j : Nat) : Image :=
  let key := slotKeys d slot
  let enc := fun k => xtsSector key (pageLine p j) k 0
  outerEncode (enc 0 ++ enc 1 ++ enc 2 ++ enc 3) (metaWord (hostLabel slot p j) 0xF)

/-- A direct sector returns (R59, R60). -/
def sectorReturned (c : Ctl) (tag : Nat) (raw : BitVec 576) (inner : BitVec 3) (crc : BitVec 16) (d : Dp) : Dp :=
  match findRead d tag, issuedMop d (fun k => match k with | .sector t _ => t = tag | _ => false) with
  | some r, some m =>
    let bad := b2n (slotCrc raw inner ≠ crc)
    let d1 := burstIn c m 72 bad (modRead tag (fun x => { x with ret := some d.now }) (dropMops (· = m) d))
    if bad = 0 ∧ inner.toNat ≤ 2 then
      let v := xtsSectorInv (slotKeys d r.slot) (secLine r.line) (secIdx r.line) (burstData raw)
      finishRead c tag v ((burstSlice raw).getLsbD 15) (pmuCount c 22 0x11 1 d1)
    else escalate c tag d1
  | _, _ => d

/-- SECTOR_RETURN (R59): a direct sector read returns with its inner status. -/
def execSectorReturn (tag : Nat) (raw : BitVec 576) (inner : BitVec 3) (crc : BitVec 16) (s : State) :
    Host.Outcome State Fault Refusal :=
  onDp (fun c d => sectorReturned c tag raw inner crc d) s

/-- The fetched codeword of an escalation has been decoded as FAILED or MISPLACED, or did not arrive (R61). -/
def codewordFailed (c : Ctl) (tag : Nat) (cls : OutClass) (d : Dp) : Dp :=
  match findRead d tag with
  | none => d
  | some r =>
    let pl := readPlace r
    let d1 := raiseFailed cls pl.1 (linePos (secLine r.line)) (readMaster d tag)
      (modRead tag (fun x => { x with cwOut := false, fault := true }) d)
    if r.phase = .done then
      dropRead tag (addWork 2 (.relocate (linePage (secLine r.line))) d1)
    else if r.peersOut then faultPeers tag d1
    else lostPosition (secLine r.line) (finishRead c tag 0 true d1)

/-- A codeword read of an escalation returns (R60, R61, R166). -/
def codewordReturned (c : Ctl) (tag : Nat) (raw : Burst) (d : Dp) : Dp :=
  match findRead d tag, issuedMop d (· = .codeword tag) with
  | some r, some m =>
    let d1 := cwIn c m raw (dropMops (· = m) d)
    let dec := outerDecode raw.image (wantLabel d (secLine r.line) raw.image)
    let pl := readPlace r
    let d2 := countOut dec.cls d1
    if dec.cls.good then
      if r.phase = .done then dropRead tag (afterCorrected c pl.1 pl.2 dec.cls.bits (readMaster d tag) d2)
      else
        let d3 := modRead tag (fun x => { x with cwOut := false, ret := some d.now, decode := some d.now }) d2
        finishCodeword c tag dec.image (dropPeers tag (afterCorrected c pl.1 pl.2 dec.cls.bits (readMaster d tag) (corrPersistent d3)))
    else codewordFailed c tag dec.cls (modRead tag (fun x => { x with decode := some d.now }) d2)
  | _, _ => d

/-- CODEWORD_RETURN (R60): a codeword read returns and is outer-decoded. -/
def execCodewordReturn (tag : Nat) (raw : Burst) (s : State) :
    Host.Outcome State Fault Refusal :=
  onDp (fun c d => codewordReturned c tag raw d) s

/-- The codeword read of an escalation answered by reconstruction: dropped if it has not been issued (R60 step 4). -/
def cancelCodeword (tag : Nat) (d : Dp) : Dp :=
  if d.mops.any fun m => m.kind = .codeword tag && m.issued.isNone then
    dropMops (fun m => m.kind = .codeword tag) (modRead tag (fun r => { r with cwOut := false }) d)
  else d

/-- A reconstruction a read depended on has failed its outer check (R61, R72, R166). While the fetched codeword of an
escalation is still out, the read waits for it. -/
def reconFailed (c : Ctl) (tag : Nat) (cls : OutClass) (d : Dp) : Dp :=
  match findRead d tag with
  | none => d
  | some r =>
    let d0 := giveUp (isPeerOf tag) (modRead tag (fun x => { x with peersOut := false }) d)
    match r.kind with
    | .rebuild set row chan =>
      let s := mkStripe set row
      let pos := chanPos row chan
      let d1 := dropRead tag (raiseFailed cls s pos 4 d0)
      let d2 : Dp := match stripeOwner d s with
        | some p => if pos = 16 then d1 else lostPosition (pageLine (BitVec.ofNat 31 p) pos) d1
        | none => d1
      addWork 1 .rebuild { markFailed s chan d2 with mh := { (markFailed s chan d2).mh with
        cursors := smSet 0 (markFailed s chan d2).mh.cursors (set * 32 + chan) (row + 1) } }
    | .patrol s k =>
      let pos := chanPos (stripeRow s) k
      harrowLost s pos (dropRead tag (if cls = .misplaced then raiseFailed cls s pos 3 d0 else d0))
    | _ =>
      let pl := readPlace r
      let d1 := raiseFailed cls pl.1 (linePos (secLine r.line)) (readMaster d tag) d0
      if r.cwOut then d1
      else lostPosition (secLine r.line) (finishRead c tag 0 true (modRead tag (fun x => { x with fault := true }) d1))

/-- A reconstruction's outer check passes (R64, R166). -/
def reconGood (c : Ctl) (r : Read) (dec : Decoded) (d : Dp) : Dp :=
  match r.kind with
  | .rebuild set row chan =>
    let s := mkStripe set row
    let pos := chanPos row chan
    let d1 := addProg (.rebuild set row chan) (rebuildLoc (cfgN d) set row chan) dec.image (dropRead r.tag d)
    match stripeOwner d s with
    | some p => if pos = 16 then d1 else installCodeword c 4 (pageLine (BitVec.ofNat 31 p) pos) dec.image d1
    | none => d1
  | .patrol s _ => harrowRewrite 2 s (corrPersistent (dropRead r.tag d))
  | _ =>
    let d1 := if r.escalated then corrPersistent d else d
    let d2 := if r.escalated && !r.cwOut then addWork 2 (.relocate (linePage (secLine r.line))) d1 else d1
    finishCodeword c r.tag dec.image (cancelCodeword r.tag d2)

/-- The last codeword of a reconstruction has arrived (R64). -/
def reconstructed (c : Ctl) (tag : Nat) (peers : List Burst) (d : Dp) : Dp :=
  match findRead d tag with
  | none => d
  | some r =>
    let mine := fun (m : Mop) => match m.kind with
      | .peer t _ => t = tag
      | _ => false
    if r.peersOut = false ∨ (d.mops.any fun m => mine m && m.issued.isNone) then d
    else
      let pl := match r.kind with
        | .rebuild set row chan => (mkStripe set row, chan)
        | .patrol s k => (s, k)
        | _ => readPlace r
      let i := rebuildImage d pl.1 pl.2 (peers.map (·.image))
      let pos := chanPos (stripeRow pl.1) pl.2
      let want := match r.kind with
        | .rebuild _ _ _ => memberLabel d pl.1 pos i
        | .patrol _ _ => memberLabel d pl.1 pos i
        | _ => wantLabel d (secLine r.line) i
      let dec := outerDecode i want
      let d0 := arrivals c pl.1 (burstOf pl.2 {} peers) (d.mops.filter mine) (dropMops mine d)
      let d1 := countOut dec.cls
        (modRead tag (fun x => { x with ret := some (x.ret.getD d.now), recon := some d.now, peersOut := false }) d0)
      if dec.cls.good then reconGood c r dec d1 else reconFailed c tag dec.cls d1

/-- RECONSTRUCTION (R64): the last of the peer codewords arrives; the exclusive-OR is formed and outer-checked. -/
def execReconstruction (tag : Nat) (peers : List Burst) (s : State) : Host.Outcome State Fault Refusal :=
  onDp (fun c d => reconstructed c tag peers d) s

/-- Queue an STS to a package, once (R232, R327). -/
def queueSts (k w : Nat) (d : Dp) : Dp :=
  if d.mops.any fun m => m.chan = k && m.kind = .status w && m.issued.isNone then d
  else addMop k (32 * w) 0 4 (.status w) 0 d

/-- The issued read of a channel that an absent burst names by its number. -/
def absentMop (d : Dp) (k id : Nat) : Option Mop :=
  d.mops.find? fun m => m.chan = k && m.id = id && m.issued.isSome && m.kind.isRead && !m.absent

/-- An absent burst (R231, R327): a direct sector escalates, a codeword counts as an outer decode FAILED, and STS is
issued to the package. A read done for the block itself is marked, and its codeword counts as failed when the reads it
belongs to are over. -/
def absentReturned (c : Ctl) (k id : Nat) (d : Dp) : Dp :=
  match absentMop d k id with
  | none => d
  | some m =>
    let d0 := queueSts k (setWarp m.set) (modChan k (fun x => { x with absent := satInc 0xFF x.absent }) d)
    let d1 := dropMops (fun x => x.id = m.id) d0
    match m.kind with
    | .sector tag _ => escalate c tag d1
    | .codeword tag => codewordFailed c tag .failed (countOut .failed d1)
    | .peer tag _ => reconFailed c tag .failed (countOut .failed d1)
    | _ => { d0 with mops := mapIf (fun x => x.id = m.id) (fun x => { x with absent := true }) d0.mops }

/-- ABSENT_BURST (R231): no strobe preamble appears at a reserved read slot; `tag` is the number of the read. -/
def execAbsentBurst (chan : Nat) (tag : Nat) (s : State) : Host.Outcome State Fault Refusal :=
  onDp (fun c d => absentReturned c chan tag d) s

end Sys2Proof.Machine
end

