-- ==== Sys2Proof/Machine/Operands.lean ====
section
/-! DEFINITION. The words that cross the block's pins: media command words (R222), ready frames (R226), status
responses (R232), and bytes of the records the block writes. -/

namespace Sys2Proof.Machine

/-- A command word from its upper 39 bits: C[0] is even parity over the whole word (R222). -/
def cmdParity (u : BitVec 39) : BitVec 40 := u ++ (if popCount u % 2 = 1 then (1 : BitVec 1) else 0)

/-- SRD, a sector read (R222). -/
def srdWord (sec : Nat) (code : BitVec 6) (part row : Nat) : BitVec 40 :=
  cmdParity ((0 : BitVec 2) ++ BitVec.ofNat 2 sec ++ code ++ BitVec.ofNat 5 part ++ BitVec.ofNat 24 row)

/-- CRD, a codeword read (R222). -/
def crdWord (code : BitVec 6) (part row : Nat) : BitVec 40 :=
  cmdParity ((2 : BitVec 2) ++ (0 : BitVec 2) ++ code ++ BitVec.ofNat 5 part ++ BitVec.ofNat 24 row)

/-- PRG, a codeword programme (R222). -/
def prgWord (part row : Nat) : BitVec 40 :=
  cmdParity ((0x18 : BitVec 5) ++ (0 : BitVec 5) ++ BitVec.ofNat 5 part ++ BitVec.ofNat 24 row)

/-- PRS, a partition reset (R222). -/
def prsWord (part : Nat) : BitVec 40 :=
  cmdParity ((0x19 : BitVec 5) ++ (0 : BitVec 5) ++ BitVec.ofNat 5 part ++ (0 : BitVec 24))

/-- STS, a status read (R222). -/
def stsWord : BitVec 40 := cmdParity ((0x1A : BitVec 5) ++ (0 : BitVec 34))

/-- TMP, a temperature read (R222). -/
def tmpWord : BitVec 40 := cmdParity ((0x1B : BitVec 5) ++ (0 : BitVec 34))

/-- TRN, a training mode (R222, R233). -/
def trnWord (mode : Nat) : BitVec 40 := cmdParity ((0x1C : BitVec 5) ++ BitVec.ofNat 5 mode ++ (0 : BitVec 29))

/-- MDW, a mode-register write (R222). -/
def mdwWord (reg : Nat) (v : BitVec 8) : BitVec 40 :=
  cmdParity ((0x1D : BitVec 5) ++ BitVec.ofNat 5 reg ++ (0 : BitVec 21) ++ v)

/-- MDR, a mode-register read (R222). -/
def mdrWord (reg : Nat) : BitVec 40 := cmdParity ((0x1E : BitVec 5) ++ BitVec.ofNat 5 reg ++ (0 : BitVec 29))

/-- The command word of a media operation (R222, R463). -/
def mopWord (m : Mop) : BitVec 40 :=
  match m.kind with
  | .sector _ sec => srdWord sec m.code (m.set % 32) m.row
  | .reset _ => prsWord (m.set % 32)
  | .status _ => stsWord
  | .temperature _ => tmpWord
  | .train _ mode _ => trnWord mode
  | .mdw _ reg v => mdwWord reg v
  | _ => crdWord m.code (m.set % 32) m.row

/-- Results of a ready frame (R226). -/
inductive FrameResult where
  | verified | verifyFailed | resetDone | discarded
  deriving DecidableEq, Repr

/-- Partition of a ready frame: bits 1 to 5, most significant first; bit n of the frame is bit n of the word. -/
def framePart (f : BitVec 10) : Nat :=
  16 * b2n (f.getLsbD 1) + 8 * b2n (f.getLsbD 2) + 4 * b2n (f.getLsbD 3) + 2 * b2n (f.getLsbD 4) + b2n (f.getLsbD 5)

/-- Result of a ready frame: bits 6 and 7, bit 6 the more significant. -/
def frameResult (f : BitVec 10) : FrameResult :=
  match f.getLsbD 6, f.getLsbD 7 with
  | false, false => .verified
  | false, true => .verifyFailed
  | true, false => .resetDone
  | true, true => .discarded

/-- Whether a ready frame is well formed (R226): start low, odd parity over bits 1 to 7, stop high. -/
def frameOk (f : BitVec 10) : Bool :=
  !f.getLsbD 0 && f.getLsbD 9 && popCount (f.extractLsb' 1 8) % 2 = 1

/-- Byte n of a 16-byte package response. -/
def respByte (b : BitVec 128) (n : Nat) : BitVec 8 := b.extractLsb' (120 - 8 * n) 8

/-- The command word that failed parity, bytes 1 to 5 of an STS response (R232). -/
def stsCommand (b : BitVec 128) : BitVec 40 := b.extractLsb' 80 40

end Sys2Proof.Machine
end

