-- ==== Sys2Proof/Machine/Journal.lean ====
section
/-! DEFINITION. The mapping journal (R106 to R109): the layout of its stripes, writing the next stripe, and what is left
of it at a restart. -/

namespace Sys2Proof.Machine

/-- Type of a journal stripe (R107). -/
def JBody.typ : JBody → Nat
  | .change _ => 1
  | .checkpoint _ _ => 2
  | .sectors _ _ => 3
  | .intents _ _ => 4
  | .sealRec _ _ _ _ => 5
  | .replayed _ => 6

/-- Record count of a journal stripe's header (R106). -/
def JBody.count : JBody → Nat
  | .change r => r.length
  | .checkpoint _ e => e.length
  | .sectors _ r => r.length
  | .intents _ s => s.length
  | .sealRec _ _ _ _ => 0
  | .replayed _ => 0

/-- Bytes 16 to 31 of a journal stripe's header (R107). -/
def JBody.fields : JBody → List (BitVec 8)
  | .change _ => []
  | .checkpoint first _ => bytesLe 8 first
  | .sectors n _ => bytesLe 8 n
  | .intents n _ => bytesLe 8 n
  | .sealRec n k us cause => bytesLe 8 n ++ bytesLe 2 (sat 0xFFFF k) ++ bytesLe 2 (sat 0xFFFF us) ++ bytesLe 1 cause
  | .replayed n => bytesLe 8 n

/-- A change or media record of 16 bytes (R107, R144). -/
def ChgRec.bytes : ChgRec → List (BitVec 8)
  | .entry _ p v => bytesLe 8 v.toNat ++ bytesLe 4 p.toNat ++ bytesLe 4 0
  | .media _ s kind chan =>
    bytesLe 8 (s.toNat * 2 ^ 32 + kind.toNat * 64 + chan.toNat) ++ bytesLe 4 (2 ^ 31) ++ bytesLe 4 0

/-- The tag of a drain sector record (R107). -/
def DrainSector.tag (x : DrainSector) : Nat :=
  2 ^ 63 + b2n x.poison * 2 ^ 62 + x.slot.toNat * 2 ^ 56 + x.addr.toNat

/-- Groups of one tag slot and the data slots of its records (R107). -/
def sectorGroups : Nat → List DrainSector → List (BitVec 8)
  | 0, _ => []
  | n + 1, l =>
    padTo 64 ((l.take 8).flatMap fun x => bytesLe 8 x.tag) ++
    padTo (if n = 0 then 448 else 512) ((l.take 8).flatMap fun x => sectorBytes x.data) ++ sectorGroups n (l.drop 8)

/-- Slots 1 to 62 of a journal stripe (R107). -/
def JBody.records : JBody → List (BitVec 8)
  | .change r => r.flatMap ChgRec.bytes
  | .checkpoint _ e => e.flatMap fun v => bytesLe 8 v.toNat
  | .sectors _ r => sectorGroups 7 r
  | .intents _ s => s.flatMap fun x => bytesLe 8 (2 ^ 63 + x.toNat * 2 ^ 32)
  | .sealRec _ _ _ _ => []
  | .replayed _ => []

/-- The 4,096 bytes of a journal stripe (R106). -/
def journalBytes (seq : Nat) (b : JBody) : List (BitVec 8) :=
  padTo 64 (bytesLe 4 b.typ ++ bytesLe 4 b.count ++ bytesLe 8 seq ++ b.fields) ++ padTo 3968 b.records ++
    padTo 64 (bytesLe 8 seq)

/-- The 16 codewords of a metadata stripe. -/
def metaImages (m : Nat) (bytes : List (BitVec 8)) : List Image :=
  (List.range 16).map fun j => metaCodeword m j (bytes.drop (256 * j))

/-- The metadata index of a place in the journal range. -/
def journalIndex (loc : Nat) : Nat := journalBase + loc

/-- The stripe of a place in the journal range. -/
def journalStripe (d : Dp) (loc : Nat) : Stripe := metaStripe (stripeSets (cfgN d)) (journalIndex loc)

/-- The next place of the circle at or after one whose stripe is not retired (R111, R143). -/
def journalPlace (d : Dp) : Nat → Nat → Nat
  | 0, loc => loc % journalStripes (cfgN d)
  | n + 1, loc =>
    let x := loc % journalStripes (cfgN d)
    if retired d (journalStripe d x) then journalPlace d n (x + 1) else x

/-- Write a journal stripe of a given number at the next place: its members are queued for programming, one for each
available channel. -/
def putStripe (seq : Nat) (b : JBody) (d : Dp) : Dp :=
  let loc := journalPlace d 1024 d.jrn.head
  let l := d.jrn.stripes.filter fun x => x.loc ≠ loc
  let d1 := { d with jrn := { d.jrn with
    head := (loc + 1) % journalStripes (cfgN d)
    stripes := (l.filter fun x => x.seq < seq) ++ ⟨seq, loc, b, false⟩ :: l.filter fun x => seq < x.seq } }
  queueMembers (journalStripe d loc) (metaImages (journalIndex loc) (journalBytes seq b)) (fun j => .journal seq j) d1

/-- Write the next journal stripe (R106): its number is one greater than that of the one before. -/
def appendStripe (b : JBody) (d : Dp) : Dp :=
  putStripe (d.jrn.seq + 1) b { d with jrn := { d.jrn with seq := d.jrn.seq + 1 } }

/-- A journal stripe by its sequence number. -/
def findStripe (d : Dp) (seq : Nat) : Option JStripe := d.jrn.stripes.find? fun s => s.seq = seq

/-- The sequence numbers of the first and last stripes of the latest complete checkpoint pass (R117 step 2). -/
def lastPass (n : Nat) (l : List JStripe) : Option (Nat × Nat) :=
  let ends := (l.filter fun s => match s.body with
    | .checkpoint f es => f + es.length = hostPages n
    | _ => false).map (·.seq)
  match ends.getLast? with
  | none => none
  | some b =>
    ((l.filter fun s => s.seq ≤ b && (match s.body with
      | .checkpoint f _ => f = 0
      | _ => false)).map (·.seq)).getLast?.map fun a => (a, b)

/-- The latest complete checkpoint pass among the verified stripes. -/
def verifiedPass (d : Dp) : Option (Nat × Nat) := lastPass (cfgN d) (d.jrn.stripes.filter fun s => s.ok)

/-- The head pointer of the parameter store moves to the start of a checkpoint pass once the pass is complete and verified
(R117; DESIGN CHOICE, log entry 131: no rule says when it moves but at an erase, R392). -/
def moveHead (seq : Nat) (d : Dp) : Dp :=
  match verifiedPass d with
  | some (a, b) => if b = seq then modDev 34 (fun r => { r with journalHead := (findStripe d a).map (·.loc) }) d else d
  | none => d

/-- Mark a journal stripe verified: its changes become durable (R109). -/
def stripeVerified (seq : Nat) (d : Dp) : Dp :=
  moveHead seq { d with jrn := { d.jrn with stripes := mapIf (fun s => s.seq = seq) (fun s => { s with ok := true }) d.jrn.stripes } }

/-- A journal stripe that fails is retired, and its contents are written as the next journal stripe (R111, R143). They keep
their number: with a number left out, the journal would end there (R108), and they would be replayed after stripes written
later (DESIGN CHOICE, log entry 131). -/
def stripeFailed (seq : Nat) (chan : Nat) (d : Dp) : Dp :=
  match findStripe d seq with
  | none => d
  | some s =>
    let d1 := dropProgs (fun p => match p.kind with
      | .journal n _ => n = seq && p.st = .pending
      | _ => false) { d with jrn := { d.jrn with stripes := d.jrn.stripes.filter fun x => x.seq ≠ seq } }
    putStripe seq s.body (markRetired (journalStripe d s.loc) (BitVec.ofNat 5 chan) d1)

/-- Free stripes ahead of the journal's head (R109): those not needed for the mapping since the latest complete pass. -/
def journalFree (d : Dp) : Nat :=
  let first := match verifiedPass d with
    | some x => x.1
    | none => ((d.jrn.stripes.head?).map (·.seq)).getD (d.jrn.seq + 1)
  journalStripes (cfgN d) - (d.jrn.seq + 1 - first)

/-- Whether change and checkpoint stripes may be written: 16,384 free stripes stay ahead of the head for the drain (R109). -/
def journalRoom (d : Dp) : Bool := 16384 < journalFree d

/-- Write a change-stripe buffer (R109): the full one, or the one being filled; the records that waited take its room. Each
stripe owes a checkpoint stripe. -/
def writeChange (d : Dp) : Dp :=
  let l := if d.jrn.full = [] then d.jrn.open_ else d.jrn.full
  let rest := if d.jrn.full = [] then [] else d.jrn.open_
  let j := { d.jrn with
    full := [], open_ := [], late := [], owed := d.jrn.owed + 1
    bufNo := if d.jrn.full = [] then 1 - d.jrn.bufNo else d.jrn.bufNo }
  if l = [] then d
  else d.jrn.late.foldl (fun d r => appendChg r d) (rest.foldl (fun d r => putChg r d) (appendStripe (.change l) { d with jrn := j }))

/-- Write one checkpoint stripe: the next 496 entries of the table (R107, R109). At the start of each pass every media
record is appended again (R144). A stripe whose range holds a lost entry waits until that entry is restored (R49; DESIGN
CHOICE, log entry 146). -/
def writeCheckpoint (d : Dp) : Dp :=
  let first := d.jrn.ckptNext
  let n := min 496 (hostPages (cfgN d) - first)
  if d.map.lost.any fun p => first ≤ p && p < first + n then d
  else
  let d1 : Dp := if first = 0 then
      d.jrn.media.foldl (fun d m => appendChg (.media d.jrn.nextChg m.1 m.2.1 m.2.2)
        { d with jrn := { d.jrn with nextChg := d.jrn.nextChg + 1 } }) d
    else d
  let d2 := appendStripe (.checkpoint first ((List.range n).map fun i => curEntry d (first + i))) d1
  let next := first + n
  { d2 with jrn := { d2.jrn with
      owed := d2.jrn.owed - 1
      ckptNext := if hostPages (cfgN d) ≤ next then 0 else next
      ckptDone := if hostPages (cfgN d) ≤ next then d2.jrn.ckptDone + 1 else d2.jrn.ckptDone } }

/-- Write the checkpoint stripes that change stripes owe (R109). -/
def payOwed (d : Dp) : Dp := (List.range d.jrn.owed).foldl (fun d _ => writeCheckpoint d) d

end Sys2Proof.Machine
end

