-- ==== Sys2Proof/Machine/QueueOps.lean ====
section
/-! DEFINITION. Completions of commands (R281 to R288): the completion ring of a queue, host buffers, and the mailbox. -/

namespace Sys2Proof.Machine

/-- Oxsar completion status codes (R285). -/
inductive Status where
  | success | invalidOpcode | invalidParameter | invalidLength | busy | notPermitted | mediaError | bufferShort
  | invalidateDirty | lockLimit | abandoned | abortedRestart | authFailed | confirmMismatch
  deriving DecidableEq, Repr

/-- Value of a status (R285). -/
def Status.code : Status → Nat
  | .success => 0
  | .invalidOpcode => 1
  | .invalidParameter => 2
  | .invalidLength => 3
  | .busy => 4
  | .notPermitted => 5
  | .mediaError => 6
  | .bufferShort => 7
  | .invalidateDirty => 8
  | .lockLimit => 9
  | .abandoned => 10
  | .abortedRestart => 11
  | .authFailed => 12
  | .confirmMismatch => 13

/-- CXL return codes used (R288; their numbers PRESUMED from CXL 3.1, log entry 16). -/
inductive Ret where
  | success | background | invalidInput | unsupported | internalError | retry | busy | fwInProgress | fwOutOfOrder
  | fwVerify | invalidSlot
  | invalidHandle | invalidAddress | poisonLimit | invalidSecurity | incorrectPassphrase | invalidLength | invalidLog
  deriving DecidableEq, Repr

/-- Number of a return code. -/
def Ret.code : Ret → Nat
  | .success => 0
  | .background => 1
  | .invalidInput => 2
  | .unsupported => 3
  | .internalError => 4
  | .retry => 5
  | .busy => 6
  | .fwInProgress => 8
  | .fwOutOfOrder => 9
  | .fwVerify => 0xA
  | .invalidSlot => 0xB
  | .invalidHandle => 0xE
  | .invalidAddress => 0xF
  | .poisonLimit => 0x10
  | .invalidSecurity => 0x13
  | .incorrectPassphrase => 0x14
  | .invalidLength => 0x16
  | .invalidLog => 0x17

/-- The return code of an Oxsar status (R288). -/
def Status.ret : Status → Ret
  | .success => .success
  | .invalidateDirty => .success
  | .lockLimit => .success
  | .invalidOpcode => .unsupported
  | .invalidParameter => .invalidInput
  | .confirmMismatch => .invalidInput
  | .authFailed => .invalidInput
  | .invalidLength => .invalidLength
  | .bufferShort => .invalidLength
  | .busy => .busy
  | .notPermitted => .unsupported
  | .mediaError => .internalError
  | .abandoned => .retry
  | .abortedRestart => .retry

/-- Control-BAR offset of a register of queue k (R289). -/
def queOff (k r : Nat) : Nat := 0x400000 + k * 0x1000 + r

/-- A queue. -/
def qOf (d : Dp) (k : Nat) : Queue := smGet {} d.que.q k

/-- Change a queue. -/
def modQ (k : Nat) (f : Queue → Queue) (d : Dp) : Dp := { d with que := { d.que with q := smMod {} d.que.q k f } }

/-- QUE_k_CTL.en. -/
def queEn (c : Ctl) (k : Nat) : Bool := rb c (queOff k 0) 0

/-- Size of a completion ring (R281). -/
def ringSize (c : Ctl) (k : Nat) : Nat := 2 ^ rg c (queOff k 0x18) 0 4

/-- Whether a completion ring is full (R281). -/
def ringFull (c : Ctl) (d : Dp) (k : Nat) : Bool :=
  ((qOf d k).tail + 1) % ringSize c k = rg c (queOff k 0x1C) 0 12

/-- QUE_k_CRB.base. -/
def ringBase (c : Ctl) (k : Nat) : Nat := (crGet c (queOff k 0x10)).toNat + (crGet c (queOff k 0x14)).toNat * 2 ^ 32

/-- Post a completion entry at the tail of a ring, and its MSI-X message unless it is quiet (R281, R282, R284). -/
def postEntry (c : Ctl) (k : Nat) (status : Nat) (opcode tag : BitVec 16) (quiet : Bool) (rs : List (BitVec 64)) (d : Dp) :
    Dp :=
  let q := qOf d k
  let w0 : BitVec 64 := BitVec.ofNat 16 status ++ opcode ++ tag ++ (if q.phase then (1 : BitVec 1) else 0) ++ (0 : BitVec 1) ++
    BitVec.ofNat 6 k ++ (0 : BitVec 8)
  let next := (q.tail + 1) % ringSize c k
  let d1 := hostWrite (BitVec.ofNat 64 (ringBase c k + q.tail * 32)) [w0, rs.getD 0 0, rs.getD 1 0, rs.getD 2 0] d
  let d2 := modQ k (fun q => { q with tail := next, phase := if next = 0 then !q.phase else q.phase }) d1
  let d3 := if status = 0 then d2 else pmuCount c 23 0x12 1 d2
  if quiet then d3 else msix k d3

/-- Whether a mailbox opcode is vendor-specific (R287). -/
def vendorOp (op : BitVec 16) : Bool := 0xC000 ≤ op.toNat

/-- Finish the mailbox command: return code, output payload, doorbell cleared, vector 64 when enabled (R266). -/
def mailboxDone (ret : Ret) (payload : List (BitVec 64)) (d : Dp) : Dp :=
  let d1 := emit (.mailbox ret.code payload) { d with que := { d.que with
    cur := none, mboxRet := BitVec.ofNat 16 ret.code, mboxOut := payload, mboxBusy := false
    mboxLen := 8 * payload.length } }
  if d.que.mboxIrq then msix 64 d1 else d1

/-- Complete the command in hand with a status, results and, through the mailbox, buffer data (R282, R288). A queue's
buffer data has been written to host memory before. -/
def completeAs (c : Ctl) (st : Status) (ret : Ret) (rs : List (BitVec 64)) (data : List (BitVec 64)) (d : Dp) : Dp :=
  match d.que.cur with
  | none => d
  | some x =>
    match x.queue with
    | some k => postEntry c k st.code x.opcode x.tag x.quiet rs { d with que := { d.que with cur := none } }
    | none =>
      if vendorOp d.que.mboxCmd then
        mailboxDone ret ([BitVec.ofNat 64 st.code, rs.getD 0 0, rs.getD 1 0, rs.getD 2 0] ++ data) d
      else mailboxDone ret [] d

/-- Complete the command in hand. -/
def complete (c : Ctl) (st : Status) (rs : List (BitVec 64)) (d : Dp) : Dp := completeAs c st st.ret rs [] d

/-- Refuse the command in hand for its security state (R288, R390). -/
def refuseSecurity (c : Ctl) (d : Dp) : Dp := completeAs c .notPermitted .invalidSecurity [] [] d

/-- Complete the standard mailbox command in hand. -/
def mailboxReply (ret : Ret) (payload : List (BitVec 8)) (d : Dp) : Dp :=
  let d1 := mailboxDone ret (wordsOf ((payload.length + 7) / 8) payload) d
  { d1 with que := { d1.que with mboxLen := payload.length } }

/-- A parameter word of the command in hand. -/
def param (d : Dp) (n : Nat) : BitVec 64 := ((d.que.cur.map (·.params)).getD []).getD n 0

/-- Whether the command in hand came by the mailbox. -/
def byMailbox (d : Dp) : Bool := match d.que.cur with
  | some x => x.queue.isNone
  | none => false

/-- Complete with a status and data in the buffer described by the parameter words from i on (R283), or in the output
payload (R287). Data longer than the buffer is truncated; r1 then gives its full length, unless the status is itself an
error. -/
def completeBufferAs (c : Ctl) (st : Status) (i : Nat) (bytes : List (BitVec 8)) (rs : List (BitVec 64)) (d : Dp) : Dp :=
  let n := bytes.length
  let cut := if st = .success then (Status.bufferShort, [BitVec.ofNat 64 n]) else (st, rs)
  if byMailbox d then
    if 65536 < n + 32 then completeAs c cut.1 cut.1.ret cut.2 (wordsOf 8188 bytes) d
    else completeAs c st st.ret rs (wordsOf ((n + 7) / 8) bytes) d
  else
    let addr := param d i
    let len := (param d (i + 1)).toNat
    if addr.toNat % 64 ≠ 0 ∨ len % 64 ≠ 0 ∨ len < 64 ∨ 1048576 < len then complete c .invalidParameter [] d
    else
      let d1 := if n = 0 then d else hostWrite addr (wordsOf ((min n len + 7) / 8) (bytes.take len)) d
      if len < n then complete c cut.1 cut.2 d1 else complete c st rs d1

/-- Complete with SUCCESS and data in the buffer, or with BUFFER_SHORT where it is too small. -/
def completeBuffer (c : Ctl) (i : Nat) (bytes : List (BitVec 8)) (rs : List (BitVec 64)) (d : Dp) : Dp :=
  completeBufferAs c .success i bytes rs d

/-- Whether the buffer described by the parameter words from i on is good (R283); the mailbox has none (R287). -/
def bufferOk (d : Dp) (i : Nat) : Bool :=
  byMailbox d || ((param d i).toNat % 64 = 0 && (param d (i + 1)).toNat % 64 = 0 && 64 ≤ (param d (i + 1)).toNat &&
    (param d (i + 1)).toNat ≤ 1048576)

/-- The bytes a buffer has room for. -/
def bufferRoom (d : Dp) (i : Nat) : Nat := if byMailbox d then 65504 else (param d (i + 1)).toNat

/-- Whether the commands in hand are served: MP_1 runs, or the boot ROM serves the mailbox because no image verified
(R395). -/
def mp1Live (d : Dp) : Bool := d.que.mps.getD 1 1 = 0 || d.sec.running = 2

/-- Whether the command in hand is the Oxsar opcode X, from a queue or as vendor-specific opcode 0xC000 + X. -/
def inHand (d : Dp) (x : Nat) : Bool := match d.que.cur with
  | some y => y.opcode.toNat = x && (y.queue.isSome || vendorOp d.que.mboxCmd) && mp1Live d
  | none => false

/-- Whether the command in hand is a standard mailbox opcode (R267). -/
def stdInHand (d : Dp) (x : Nat) : Bool := match d.que.cur with
  | some y => y.queue.isNone && !vendorOp d.que.mboxCmd && d.que.mboxCmd.toNat = x && mp1Live d
  | none => false

/-- End the background operation with a return code: its status register, and vector 64 where enabled (R266). -/
def endBackgroundAs (ret : Ret) (d : Dp) : Dp :=
  match d.que.bg with
  | none => d
  | some b =>
    let d1 := { d with que := { d.que with
      bg := none, bgStatus := BitVec.ofNat 64 (b.opcode.toNat + 100 * 65536 + ret.code * 2 ^ 32) } }
    if d1.que.bgIrq then msix 64 d1 else d1

/-- The background operation is done. -/
def endBackground (d : Dp) : Dp := endBackgroundAs .success d

/-- Let no work under way report its end to a command any more. -/
def orphan (d : Dp) : Dp :=
  { d with
    pst := { d.pst with writes := d.pst.writes.map (fun w => { w with who := 0 }), storeCmd := false
                        cntPend := d.pst.cntPend.map fun x => (x.1, x.2.1, false) }
    lc := { d.lc with queue := d.lc.queue.map (fun m => { m with fromCmd := false })
                      cur := d.lc.cur.map fun m => { m with fromCmd := false } } }

/-- The lines that the maintenance request of the command in hand has acted on so far: r1 of MM_CACHE_OP (R286). -/
def linesActed (d : Dp) : List (BitVec 64) :=
  if inHand d 0x0200 then [BitVec.ofNat 64 (min (((d.lc.cur.filter (·.fromCmd)).map (·.acted)).getD 0) 0xFFFFFF)] else []

/-- Stop the command in hand with a status and results: DRAIN, a restart of MP_1 (R280). -/
def stopCommand (c : Ctl) (st : Status) (rs : List (BitVec 64)) (d : Dp) : Dp :=
  let d1 := { orphan d with que := { d.que with delayed := none } }
  if st = .abandoned && !linkUp d then { d1 with que := { d1.que with cur := none } }
  else
    match d.que.cur with
    | none => d1
    | some x => if x.queue.isNone && !vendorOp d.que.mboxCmd then mailboxDone st.ret [] d1 else complete c st rs d1

end Sys2Proof.Machine
end

