-- ==== Sys2Proof/Machine/StoreOps.lean ====
section
/-! DEFINITION. Page writes of the parameter store (R294 to R298): their steps on the media and their order. -/

namespace Sys2Proof.Machine

/-- The slot contents a page write is making (R293, R295): its number in the extension and its contents. -/
def writingSlot (d : Dp) (page : Nat) (data : BitVec 2048) : Nat × Slot :=
  let d1 := commitPage page data d
  match currentSlot d1 page with
  | some x => (slotKey d page x.1 - 65536, x.2)
  | none => (0, {})

/-- The 16 codewords of a stripe of the extension, by the slots it holds (R294); `n` and `s` replace one of them. -/
def storeImages (d : Dp) (m n : Nat) (s : Slot) : List Image :=
  (List.range 16).map fun j =>
    let x := if 8 * m + j / 2 = n then s else smGet {} d.pst.slots (65536 + 8 * m + j / 2)
    metaCodeword m j (if j % 2 = 0 then pageBytes x.data else headerBytes x)

/-- The stripe that holds a slot of the extension (R294). -/
def storeStripe (d : Dp) (n : Nat) : Stripe := metaStripe (stripeSets (cfgN d)) (n / 8)

/-- Queue the programmes of one step of a page write on the media (R295): 1 data, with the rest of a stripe never
programmed before; 2 header; 3 parity. A member with no readable copy is not programmed. -/
def storeStep (step : Nat) (page : Nat) (data : BitVec 2048) (d : Dp) : Dp :=
  let w := writingSlot d page data
  let m := w.1 / 8
  let t := w.1 % 8
  let s := metaStripe (stripeSets (cfgN d)) m
  let imgs := storeImages d m w.1 w.2
  let put := fun (j : Nat) (i : Image) (d : Dp) =>
    match writeLoc d s (if j < 16 then posChan (stripeRow s) j else parityChan (stripeRow s)) with
    | some loc => addProg (.store w.1 j) loc i d
    | none => d
  match step with
  | 1 =>
    let d1 := put (2 * t) (imgs.getD (2 * t) 0) d
    if m ∈ d.mh.metaUsed then d1
    else (List.range 16).foldl (fun d j => if j / 2 = t then d else put j (imgs.getD j 0) d) d1
  | 2 => put (2 * t + 1) (imgs.getD (2 * t + 1) 0) d
  | _ => put 16 (xorImages imgs) d

/-- Whether a programme of the store is outstanding. -/
def storeBusy (d : Dp) : Bool := d.mrg.progs.any fun p => match p.kind with
  | .store _ _ => true
  | _ => false

/-- Tell the one who waits for a page write that it has ended (R295, R297). -/
def pageWritten (c : Ctl) (w : PageWrite) (ok : Bool) (d : Dp) : Dp :=
  if w.who = 1 then complete c (if ok then .success else .mediaError) (if ok then w.rs else []) d
  else if w.who = 2 then mailboxReply (if ok then .success else .internalError) [] d
  else d

/-- Run the page writes at the head of the store mutex as far as they go (R295, R296): pages of the shadow array commit
at once; a page on the media takes its three steps, each waiting for its programmes. Once DRAIN or a reset has cut a write,
only a page whose header had been granted goes on, and it is committed when that has verified (R297). `fuel` bounds the pages. -/
def runWrites (c : Ctl) : Nat → Dp → Dp
  | 0, d => d
  | n + 1, d =>
    match d.pst.writes with
    | [] => d
    | w :: rest =>
      match w.pages with
      | [] =>
        runWrites c n (pageWritten c w true { d with pst := { d.pst with writes := rest } })
      | (page, data) :: pages =>
        let next := { d with pst := { d.pst with writes := { w with pages := pages, step := 0 } :: rest } }
        if onMedia d page = false then runWrites c n (commitPage page data next)
        else if storeBusy d then d
        else if w.step = 3 ∨ (w.cut ∧ w.step = 2) then runWrites c n (commitPage page data next)
        else
          runWrites c n (storeStep (w.step + 1) page data
            { d with pst := { d.pst with writes := { w with step := w.step + 1 } :: rest } })

/-- Write pages through R295, behind the writes already under way (R296). -/
def writePages (c : Ctl) (pages : List (Nat × BitVec 2048)) (who : Nat) (rs : List (BitVec 64)) (d : Dp) :
    Dp :=
  runWrites c (4 * pages.length + 4) { d with pst := { d.pst with writes := d.pst.writes ++ [⟨pages, 0, who, rs, false⟩] } }

/-- A programme of the store has verified, or its member is gone (R295). -/
def storeVerified (c : Ctl) (d : Dp) : Dp := runWrites c 64 d

/-- Whether a programme of the store is of a kind: codeword j of its slot's stripe. -/
def storeProg (f : Nat → Bool) (p : Prog) : Bool := match p.kind with
  | .store _ j => f j
  | _ => false

/-- A data or header programme of a page write has failed its second verify (R295): the page is not committed, its other
programmes are given up, and what waits for the write is told of a media error. -/
def storeFailed (c : Ctl) (d : Dp) : Dp :=
  match d.pst.writes with
  | [] => storeVerified c d
  | w :: rest =>
    if w.step = 3 then storeVerified c d
    else storeVerified c (pageWritten c w false (dropProgs (storeProg fun _ => true) { d with pst := { d.pst with writes := rest } }))

/-- Whether a group of pages is being written (R338). -/
def writing (d : Dp) (p : Nat → Bool) : Bool := d.pst.writes.any fun w => w.pages.any fun x => p x.1

/-- Cut every page write not yet finished (R297): programmes not granted are not issued. The page whose header had verified
is committed; one whose header had been granted goes on alone, and is committed when it verifies. -/
def cutWrites (d : Dp) : Dp :=
  let d1 := dropProgs (fun p => storeProg (fun _ => true) p && p.st = .pending) d
  match d.pst.writes with
  | [] => d1
  | w :: _ =>
    match w.pages with
    | [] => { d1 with pst := { d1.pst with writes := [] } }
    | (page, data) :: _ =>
      if w.step = 3 then commitPage page data { d1 with pst := { d1.pst with writes := [] } }
      else if w.step = 2 ∧ storeBusy d1 then
        { d1 with pst := { d1.pst with writes := [{ w with pages := [(page, data)], who := 0, cut := true }] } }
      else { d1 with pst := { d1.pst with writes := [] } }

/-- A loss of power, or a restart, in the middle of a page write (R297): a page whose header had verified is committed. -/
def writesLost (d : Dp) : Dp :=
  match d.pst.writes with
  | [] => d
  | w :: _ =>
    match w.pages with
    | [] => d
    | (page, data) :: _ => if w.step = 3 then commitPage page data d else d

/-- The store of deferred pages goes on (R298, R299): 2 µs a page (log entry 157); PST_COMMIT completes at its end. -/
def storeRuns (c : Ctl) (d : Dp) : Dp :=
  match d.pst.storing with
  | [] => d
  | p :: rest =>
    if elapsed d.pst.storeAt d.sup.clock < 2000 then d
    else
      let d1 := storePage p { d with pst := { d.pst with storing := rest, storeAt := d.sup.clock, storeCmd := d.pst.storeCmd && rest ≠ [] } }
      if rest = [] && d.pst.storeCmd && inHand d 0x0302 then complete c .success [] d1 else d1

/-- A CNT_INC's slot write and its read-back end (R302, R299): the increment is acknowledged. -/
def countRuns (c : Ctl) (d : Dp) : Ctl × Dp :=
  match d.pst.cntPend with
  | none => (c, d)
  | some (n, since, told) =>
    if elapsed since d.sup.clock < 500 then (c, d)
    else
      let c1 := cntInc n c
      let d1 := { d with pst := { d.pst with cntPend := none } }
      (c1, if told && inHand d 0x0304 then complete c1 .success [BitVec.ofNat 64 (cntValue c1 n)] d1 else d1)

/-- A counter's slot write that a loss of power cuts (R304). -/
def cutCount (cut : CntCut) (c : Ctl) (d : Dp) : Ctl :=
  match d.pst.cntPend with
  | none => c
  | some (n, _, _) =>
    let v := cntValue c n + 1
    match cut with
    | .unchanged => c
    | .written => cntInc n c
    | .failing bits =>
      let s := countOf (countGroup (countSlot n v (cntNext c n).2) ^^^ bits)
      if 2 ^ 48 ≤ v ∨ ((readCount s).filter (countValid n)).isSome then c else putCount n (cntNext c n).1 s c

end Sys2Proof.Machine
end

