-- ==== Sys2Proof/Machine/RewriteOps.lean ====
section
/-! DEFINITION. Page rewrites (R121 to R127), first mappings (R47, R125), whole-page writes (R88, R464), the rebuild of
lost members (R147 to R149), and how background work is taken (R120). -/

namespace Sys2Proof.Machine

/-- Whether a whole-page write of a page still has programmes outstanding (R464). -/
def wholeBusy (d : Dp) (p : Page) : Bool := d.mrg.progs.any fun x => x.st ≠ .worn && match x.kind with
  | .full q _ => q = p
  | .first q _ => q = p
  | .inPlace q _ => q = p
  | _ => false

/-- Whether an entry has a programme that holds the right or has been granted. -/
def entryInFlight (d : Dp) (id : Nat) : Bool :=
  d.mrg.progs.any fun x => x.kind = .data id && x.st ≠ .pending && x.st ≠ .worn

/-- Whether an entry waits for its page's rewrite to take it (R134, R143, R145): its own image is to be taken, or an
earlier one of its slot is, before which it cannot be programmed (R89). -/
def takeable (d : Dp) (e : MEntry) : Bool :=
  (e.st = .sealedImg || e.st = .programming) && !e.dataOk && !entryInFlight d e.id && !e.whole &&
  (e.pend || (d.mrg.entries.takeWhile fun x => x.id ≠ e.id).any fun x => x.line = e.line && x.pend && !x.parOk)

/-- Take into a page's rewrite the entries that wait for it: their pending programmes are dropped, their images become the
page's content and they are released with the rewrite. -/
def takeEntries (p : Page) (d : Dp) : Dp :=
  let ids := ((pageEntries d p).filter (takeable d)).map (·.id)
  let d1 := dropProgs (fun x => x.st ≠ .worn && match x.kind with
    | .data id => id ∈ ids
    | _ => false) d
  { d1 with mrg := { d1.mrg with
      entries := mapIf (fun e => e.id ∈ ids) (fun e => { e with whole := true, launched := true, waits := false, reading := false })
        d1.mrg.entries } }

/-- The rewrite of a page has been given up: the entries it had taken wait for another, which is queued (R125, R134). -/
def untake (p : Page) (d : Dp) : Dp :=
  let mine := fun (e : MEntry) => linePage e.line = p && e.whole && !e.dataOk
  let es := mapIf mine (fun e => { e with whole := false, pend := true, st := .sealedImg }) d.mrg.entries
  let d1 := { d with mrg := { d.mrg with entries := es } }
  if d.mrg.entries.any mine then addWork 2 (.epoch p) d1 else d1

/-- Drop the programmes of a stripe that had failed for good, with the images kept of them (R143). -/
def dropWorn (s : Stripe) (d : Dp) : Dp := dropProgs (fun p => p.st = .worn && mkStripe p.set p.row = s) d

/-- The youngest image a rewrite has taken for a position of its page. -/
def takenImage (d : Dp) (p : Page) (j : Nat) : Option Image :=
  ((pageEntries d p).reverse.find? fun e => e.whole && !e.dataOk && linePos e.line = j).map (·.image)

/-- Whether a copy read of a page is outstanding. -/
def copyOut? (d : Dp) (p : Page) : Bool := d.mops.any fun m => m.kind = .copy p

/-- The next position a pass of a rewrite copies. -/
def nextCopy (r : Rewrite) : Option Nat := (List.range 16).find? fun j => !r.copied.getLsbD j

/-- Programme a position of a relocating rewrite's destination (R122). -/
def programmeCopy (p : Page) (j : Nat) (i : Image) (d : Dp) : Dp :=
  match findRewrite d p with
  | none => d
  | some r =>
    let d1 := modRewrite p (fun r => { r with copied := setBit r.copied j, images := setAt r.images j i }) d
    if r.inPlace then d1
    else
      let row := stripeRow r.dst
      match memberLoc d r.dst (if j < 16 then posChan row j else parityChan row) with
      | some loc => addProg (.rewrite p j) loc i d1
      | none => d1

/-- Queue the copy of one position (R122): its codeword, or its 16 peers when it has no readable copy. -/
def queueCopy (c : Ctl) (p : Page) (j : Nat) (d : Dp) : Dp :=
  match findRewrite d p with
  | none => d
  | some r =>
    let e := curEntry d p.toNat
    let row := stripeRow r.src
    let k := posChan row j
    match memberLoc d r.src k with
    | some l => addMop l.2.2 l.1 l.2.1 3 (.copy p) (memberCode c d e j) d
    | none => queuePeerReads c (.copy p) r.src k e d

/-- Whether an entry of a page is SEALED or PROGRAMMING outside its rewrite (R123). -/
def entriesMoving (d : Dp) (p : Page) : Bool :=
  (pageEntries d p).any fun e => (e.st = .sealedImg || e.st = .programming) && !e.whole

/-- Copy the next position of the pass: a taken image at once, else a read. -/
def copyNext (c : Ctl) (p : Page) (j : Nat) (d : Dp) : Dp :=
  match takenImage d p j with
  | some i => programmeCopy p j i d
  | none => queueCopy c p j d

/-- Whether any destination programme of a page's rewrite is outstanding. -/
def rewriteBusy (d : Dp) (p : Page) : Bool := d.mrg.progs.any fun x => x.st ≠ .worn && match x.kind with
  | .rewrite q _ => q = p
  | .inPlace q _ => q = p
  | .first q _ => q = p
  | _ => false

/-- Forget the deltas, and their programmes, of a stripe that no longer holds its page (R122). The entries they covered are on
the media with the page's new stripe: they depend on its mapping change (R126). -/
def dropStripeDeltas (s : Stripe) (d : Dp) : Dp :=
  (d.mrg.deltas.filter fun x => x.stripe = s).foldl (fun d x =>
    let es := mapIf (fun e => e.delta = some x.id) (fun e => { e with parOk := true, chg := some (lastChg d) }) d.mrg.entries
    dropMops (fun m => m.kind = .oldParity x.id && m.issued.isNone)
      (dropProgs (fun q => q.kind = .parity x.id && q.st = .pending)
        (dropDelta x.id { d with mrg := { d.mrg with entries := es } }))) d

/-- The whole entries of a page are on the media under a change of its mapping entry. -/
def wholeDone (p : Page) (d : Dp) : Dp :=
  let n := d.jrn.nextChg - 1
  let es := mapIf (fun e => linePage e.line = p && e.whole)
    (fun e => { e with st := .verified, dataOk := true, parOk := true, chg := some n }) d.mrg.entries
  { d with mrg := { d.mrg with entries := es } }

/-- Seal the complete entries of a page, and launch those that wait (R88, R123). -/
def sealPage (c : Ctl) (p : Page) (d : Dp) : Dp :=
  relaunchPage c p ((pageEntries d p).foldl (fun d e => sealEntry c e.id d) d)

/-- Whether a disturb rewrite of a segment is queued or under way (R138). -/
def disturbPending (d : Dp) (seg : Nat) : Bool :=
  (d.mh.work.any fun w => match w.kind with
    | .disturb _ g => g = seg
    | _ => false) ||
  (d.mh.rewrites.any fun r => match r.why with
    | .disturb _ g => g = seg
    | _ => false)

/-- Whether a re-anchor rewrite is queued or under way (R137). -/
def reanchorPending (d : Dp) : Bool :=
  (d.mh.work.any fun w => match w.kind with
    | .reanchor _ => true
    | _ => false) ||
  (d.mh.rewrites.any fun r => match r.why with
    | .reanchor _ => true
    | _ => false)

/-- The re-anchor ends with its last rewrite, or when nothing of it is left to rewrite (R137). -/
def reanchorEnds (d : Dp) : Dp :=
  if d.mh.reanchor && !reanchorPending d then { d with mh := { d.mh with reanchor := false } } else d

/-- A disturb rewrite of a segment has ended: with the last one its counter clears (R138). -/
def disturbEnds (g : Nat) (d : Dp) : Dp :=
  if disturbPending d g then d
  else { d with mh := { d.mh with disturb := smErase d.mh.disturb g, segs := satInc 0xFFFFFFFF d.mh.segs,
                                  overrun := d.mh.overrun.filter (· ≠ g) } }

/-- What a finished rewrite lets end: its segment's counter (R138), the re-anchor (R137), the naming of lost lines
(R145), and the pending entries of the recurring-correction table (R173). -/
def rewriteEnds (r : Rewrite) (d : Dp) : Dp :=
  let d1 : Dp := match r.why with
    | .disturb _ g => disturbEnds g d
    | _ => d
  let d2 := reanchorEnds d1
  let lines := (List.range 16).map fun j => lineSec (pageLine r.page j) 0
  let d3 := { d2 with mh := { d2.mh with
    lostLines := d2.mh.lostLines.filter fun a => !(a ∈ lines)
    lostStripes := d2.mh.lostStripes.filter fun s => s ≠ r.src.toNat } }
  let rct := mapIf (fun x => match x.loc with
    | .media s _ => s = r.src
    | _ => false) (fun x => { x with count := 0, rewritten := true, pending := false }) d3.cod.rct
  { d3 with cod := { d3.cod with rct := rct } }

/-- Whether a rewrite is a tilling move. -/
def WorkKind.isTill : WorkKind → Bool
  | .till _ _ => true
  | _ => false

/-- A relocating rewrite is complete (R122 step 4): the mapping changes, the source is released under R51. -/
def finishRelocate (c : Ctl) (r : Rewrite) (d : Dp) : Dp :=
  let p := r.page
  let d1 := { d with mh := { d.mh with rewrites := d.mh.rewrites.filter fun x => x.page ≠ p } }
  let d2 := unhold r.dst (changeEntry c p.toNat (mkEntry r.dst r.horizon 0 0) d1)
  let d3 := waitStripe r.src (d2.jrn.nextChg - 1) (if r.retireSrc then some r.failChan else none)
    (wholeDone p (dropWorn r.src (dropStripeDeltas r.src d2)))
  let d4 := pmuCount c 23 0x16 1 d3
  let d5 := if r.why.isTill then pmuCount c 23 0x17 1 { d4 with mh := { d4.mh with moves := satInc 0xFFFFFFFF d4.mh.moves } } else d4
  updWithhold c (sealPage c p (releaseEntries (rewriteEnds r d5)))

/-- An in-place rewrite or full-stripe write is complete (R88, R127): the horizons change under R50. -/
def finishWhole (c : Ctl) (p : Page) (d : Dp) : Dp :=
  let s := entryStripe (curEntry d p.toNat)
  let h := ((findRewrite d p).map (·.horizon)).getD d.mh.now
  let d1 := wholeDone p (changeEntry c p.toNat (mkEntry s h 0 0) d)
  let d2 : Dp := match findRewrite d p with
    | some r => pmuCount c 23 0x16 1
        (rewriteEnds r { d1 with mh := { d1.mh with rewrites := d1.mh.rewrites.filter fun x => x.page ≠ p } })
    | none => d1
  updWithhold c (sealPage c p (releaseEntries d2))

/-- A first mapping is complete (R47). -/
def finishFirst (c : Ctl) (p : Page) (d : Dp) : Dp :=
  match findRewrite d p with
  | none => d
  | some r =>
    let d1 := { d with mh := { d.mh with rewrites := d.mh.rewrites.filter fun x => x.page ≠ p },
                       map := { d.map with lost := d.map.lost.filter (· ≠ p.toNat) } }
    let d2 := unhold r.dst (changeEntry c p.toNat (mkEntry r.dst r.horizon 0 0) d1)
    updWithhold c (sealPage c p (releaseEntries (wholeDone p d2)))

/-- An in-place rewrite takes 16 merge-buffer entries with the page's current images and programmes all members
(R127). They stand before the entries still ASSEMBLING, whose values are younger. -/
def startInPlace (r : Rewrite) (d : Dp) : Dp :=
  let p := r.page
  let slot := (slotOfDpa d (p.toNat * 4096)).getD 0
  let d1 := (List.range 16).foldl (fun d j =>
    let i := r.images.getD j 0
    let l := pageLine p j
    if (takenImage d p j).isSome then d
    else
      let e := { blankEntry (freeEntryId d) l slot d.now with
        st := .sealedImg, sv := 0xF, host := 0xF, poison := imgPoisons i, d0 := plainSector d l i 0,
        d1 := plainSector d l i 1, d2 := plainSector d l i 2, d3 := plainSector d l i 3, image := i, whole := true,
        launched := true, sealedAt := d.now }
      { d with mrg := { d.mrg with entries := e :: d.mrg.entries } }) (dropWorn r.src d)
  queueMembers r.src r.images (fun j => .inPlace p j) (modRewrite p (fun r => { r with parityOut := true }) d1)

/-- Whether an in-place rewrite has to let something of its row complete first (R127, R148, R464): an entry of the page
that is SEALED or PROGRAMMING, a parity delta, a rebuild. -/
def inPlaceWaits (d : Dp) (r : Rewrite) : Bool :=
  entriesMoving d r.page || (d.mrg.deltas.any fun x => x.stripe = r.src) || rowRebuilding d (stripeSet r.src) (stripeRow r.src)

/-- The positions of a page whose taken image is not the one copied. -/
def takenAnew (d : Dp) (r : Rewrite) : BitVec 16 :=
  (List.range 16).foldl (fun (a : BitVec 16) j =>
    if (takenImage d r.page j).isSome && takenImage d r.page j ≠ r.images[j]? then setBit a j else a) 0

/-- Move a rewrite on as far as it can go (R122, R123, R127). In DRAIN it goes no further (R110), nor while the page's entry is
lost (R49). -/
def advanceRewrite (c : Ctl) : Nat → Page → Dp → Dp
  | 0, _, d => d
  | n + 1, p, d0 =>
    match findRewrite d0 p with
    | none => d0
    | some r =>
      if d0.sup.mode = .drain || r.parked || (!r.first && pageLost d0 p.toNat) then d0
      else if r.first then (if rewriteBusy d0 p then d0 else finishFirst c p d0)
      else if copyOut? d0 p then d0
      else
        let d := takeEntries p d0
        if r.inPlace && !r.parityOut && inPlaceWaits d r then d
        else match nextCopy r with
          | some j => advanceRewrite c n p (copyNext c p j d)
          | none =>
            let again := r.dirty ||| takenAnew d r
            let recopy := fun (d : Dp) => modRewrite p (fun r => { r with copied := ~~~again, dirty := 0 }) d
            if r.inPlace then
              if r.parityOut then (if rewriteBusy d p then d else finishWhole c p d)
              else if again ≠ 0 then advanceRewrite c n p (recopy d)
              else if mergeFree d < 16 then d
              else advanceRewrite c n p (startInPlace r d)
            else if r.pass < 4 && r.dirty ≠ 0 then
              advanceRewrite c n p (recopy (modRewrite p (fun r => { r with pass := r.pass + 1 }) d))
            else if r.pass < 5 then advanceRewrite c n p (modRewrite p (fun r => { r with pass := 5 }) d)
            else if r.parityOut then (if rewriteBusy d p then d else finishRelocate c r d)
            else if entriesMoving d p then d
            else if again ≠ 0 then advanceRewrite c n p (recopy d)
            else
              advanceRewrite c n p
                (modRewrite p (fun r => { r with parityOut := true }) (programmeCopy p 16 (xorImages r.images) d))

/-- Enough steps for any one advance. -/
def advFuel : Nat := 80

/-- Move every page rewrite on: what one waited for may be over (R123, R127). -/
def pokeRewrites (c : Ctl) (d : Dp) : Dp :=
  (d.mh.rewrites.filter fun r => !r.first).foldl (fun d r => advanceRewrite c advFuel r.page d) d

/-- The destination of a tilling move (R129, R130): the lowest or highest wear among the next eight candidates; the
other seven return to the bitmap. -/
def allocateTill (hot : Bool) (d : Dp) : Option (Stripe × Dp) :=
  let got := (List.range 8).foldl (fun (a : List Stripe × Dp) _ =>
    match allocate a.2 with
    | some x => (a.1 ++ [x.1], x.2)
    | none => a) ([], d)
  let w := fun (s : Stripe) => smGet 0 d.mh.wear s.toNat
  let best := got.1.foldl (fun (a : Option Stripe) s => match a with
    | none => some s
    | some t => if (if hot then w s < w t else w t < w s) then some s else some t) none
  best.map fun b => (b, got.1.foldl (fun d s => if s = b then d else unhold s d) got.2)

/-- Begin a rewrite of a mapped page (R121 to R127). It does not begin while the page's entry is lost, another rewrite
or a whole-page write of the page is under way, or no destination or entry is free. -/
def startRewrite (c : Ctl) (p : Page) (why : WorkKind) (ret : Option (BitVec 5)) (fails : Nat) (inPlace : Bool) (d : Dp) :
    Option Dp :=
  let e := curEntry d p.toNat
  if pageLost d p.toNat || entryValid e = false || (findRewrite d p).isSome || wholeBusy d p then none
  else
    let src := entryStripe e
    let blank : Rewrite :=
      { page := p, src := src, dst := src, inPlace := true, first := false, why := why, copied := 0, dirty := 0,
        pass := 0, images := List.replicate 16 0, verified := 0, parityOut := false, fails := fails, horizon := d.mh.now,
        failChan := ret.getD 0x1F, retireSrc := ret.isSome }
    let go := fun (r : Rewrite) (d : Dp) =>
      advanceRewrite c advFuel p { d with mh := { d.mh with rewrites := d.mh.rewrites ++ [r] } }
    if inPlace then
      if 64 ≤ (d.mh.rewrites.filter fun r => r.inPlace).length || mergeFree d < 16 then none
      else some (go { blank with retireSrc := false } d)
    else
      let dst := match why with
        | .till _ hot => allocateTill hot d
        | _ => allocate d
      dst.map fun x => go { blank with dst := x.1, inPlace := false } x.2

/-- Whether a page holds a position that can be neither read nor rebuilt (R145). -/
def pageHasLost (d : Dp) (p : Page) : Bool :=
  2 ≤ (lostMembers d (entryStripe (curEntry d p.toNat))).length ||
  (List.range 16).any fun j => lineSec (pageLine p j) 0 ∈ d.mh.lostLines

/-- The form a rewrite takes (R121, R145, R153): tilling relocates; FALLOW rewrites in place; a page with lost data relocates
where spare remains, a rebuild or not. -/
def formInPlace (d : Dp) (why : WorkKind) (p : Page) : Bool :=
  if why.isTill then false
  else d.sup.mode = .fallow || (if pageHasLost d p then spare d = 0 else !relocating d)

/-- A programme fails in a stripe its page is not yet mapped to (R125): the destination is retired; the rewrite starts
again, is dropped or is retried in place after three; a first mapping goes on. -/
def rewriteFailed (c : Ctl) (p : Page) (chan : Nat) (d : Dp) : Dp :=
  match findRewrite d p with
  | none => d
  | some r =>
    let d1 := dropProgs (fun x => match x.kind with
      | .rewrite q _ => q = p && x.st = .pending
      | .first q _ => q = p && x.st = .pending
      | _ => false) (dropMops (fun m => m.kind = .copy p) d)
    let d2 := markRetired r.dst (BitVec.ofNat 5 chan)
      (unhold r.dst { d1 with mh := { d1.mh with rewrites := d1.mh.rewrites.filter fun x => x.page ≠ p } })
    let fails := r.fails + 1
    let msg := fun (d : Dp) => if fails = 3 then raise 0x5B 0x06 r.dst.toNat 0 0x06 3 d else d
    let again := fun (inPlace : Bool) (d : Dp) =>
      (startRewrite c p r.why (if r.retireSrc then some r.failChan else none) fails inPlace d).getD
        (addWorkAs { prio := if r.why.isTill then 5 else 2, kind := r.why, fails := fails, inPlace := inPlace } d)
    if r.first then startFirst p ((slotOfDpa d (p.toNat * 4096)).getD 0) fails r.images (msg d2)
    else if fails < 3 then again false d2
    else if r.why.isTill then untake p (msg d2)
    else again true (msg d2)

/-- Whether a row's stripe is being written whole, or is a destination in progress: its rebuild waits, because its
contents are not settled (R148). -/
def rowUnsettled (d : Dp) (set row : Nat) : Bool :=
  (mkStripe set row).toNat ∈ d.map.heldDst ||
  (d.mrg.progs.any fun p => p.set = set && p.row = row && p.st ≠ .worn && (match p.kind with
    | .data _ => false
    | .parity _ => false
    | .rebuild _ _ _ => false
    | _ => true))

/-- The rows of a stripe set that hold data or are about to: stripes in use, destinations, rows with programmes. -/
def rowsInUse (d : Dp) (set : Nat) : List Nat :=
  (((stripesInUse d ++ d.map.heldDst.map (BitVec.ofNat 31)).filter fun s => stripeSet s = set).map stripeRow ++
    (d.mrg.progs.filter fun p => p.set = set).map (·.row)).filter fun r => rowRole r ≠ .reserve

/-- The lowest row of a stripe set in use, at or after a row. -/
def nextRowInUse (d : Dp) (set row : Nat) : Option Nat :=
  (rowsInUse d set).foldl (fun (a : Option Nat) r =>
    if row ≤ r then some (min r (a.getD r)) else a) none

/-- Whether a set's rebuild cursor has completed. -/
def cursorDone (d : Dp) (k set : Nat) : Bool := 2 ^ 24 ≤ cursorOf d set k

/-- Set a rebuild cursor. -/
def setCursor (set chan row : Nat) (d : Dp) : Dp :=
  { d with mh := { d.mh with cursors := smSet 0 d.mh.cursors (set * 32 + chan) row } }

/-- Replace the list of rebuilds under way. -/
def setRebuilds (l : List (Nat × BitVec 4)) (d : Dp) : Dp :=
  match l with
  | [] => { d with mh := { d.mh with rebActive := false, rebChan := 0x1F, rebWarps := 0, rebMore := []
                                     work := d.mh.work.filter fun w => w.kind ≠ .rebuild } }
  | r :: more => { d with mh := { d.mh with rebActive := true, rebChan := r.1, rebWarps := r.2, rebMore := more } }

/-- A rebuild is complete when every cursor of it is (R149). -/
def rebuildCheck (d : Dp) : Dp :=
  (rebuilds d).foldl (fun d r =>
    if (rebuildSets d r.2).all (cursorDone d r.1) then raise 0x5B 0x36 0 r.1 0x04 noAccess (setRebuilds ((rebuilds d).erase r) d) else d) d

/-- Whether a stripe set has a rebuild of a row under way. -/
def setRebuilding (d : Dp) (set : Nat) : Bool :=
  (d.acc.reads.any fun r => match r.kind with
    | .rebuild a _ _ => a = set
    | _ => false) ||
  (d.mrg.progs.any fun p => match p.kind with
    | .rebuild a _ _ => a = set
    | _ => false)

/-- A loss is left unrebuilt, in whole or in part (R149). -/
def leaveUnbuilt (d : Dp) : Dp := { d with mh := { d.mh with unbuilt := true } }

/-- What a rebuilt row costs a channel's DQ, spread over MH_CTL.reb_share percent of its time (R148), in ns, rounded up: 21 ns
each. -/
def rowShare (c : Ctl) : Nat := (2100 + rg c 0xE0100 24 7 - 1) / rg c 0xE0100 24 7

/-- Whether MH_CTL.reb_share lets the rebuild start another row now (R148; DESIGN CHOICE, log entry 148). -/
def shareOpen (c : Ctl) (d : Dp) : Bool := rg c 0xE0100 24 7 ≠ 0 && decide (d.mh.rebNext.toNat ≤ d.now.toNat)

/-- A row has been started: the next one starts no earlier than its share of the time (R148). -/
def takeShare (c : Ctl) (d : Dp) : Dp :=
  { d with mh := { d.mh with rebNext := BitVec.ofNat 64 (max d.now.toNat d.mh.rebNext.toNat + rowShare c) } }

/-- Start the rebuild of the next row of one stripe set (R148): free and retired stripes are passed without a
programme, and so is a row whose rebuild location lies on an isolated unit (R149). A member that cannot be rebuilt because
another is unavailable is marked failed, so that it is not read from a location never programmed (DESIGN CHOICE, log entry
128). -/
def rebuildSet (c : Ctl) (k set : Nat) (d : Dp) : Dp :=
  match nextRowInUse d set (cursorOf d set k) with
  | none => setCursor set k (2 ^ 24) d
  | some row =>
    let s := mkStripe set row
    let loc := rebuildLoc (cfgN d) set row k
    let e := curEntry d ((stripeOwner d s).getD 0)
    if rowUnsettled d set row then d
    else if memberFailed d s k then setCursor set k (row + 1) d
    else if unitIsolated d loc.2.2 (setWarp loc.1) then leaveUnbuilt (setCursor set k (row + 1) d)
    else if !reconstructable d s k then setCursor set k (row + 1) (markFailed s k d)
    else if !shareOpen c d then d
    else
      let tag := d.acc.nextTag
      let r := { tag := tag, line := 0, kind := .rebuild set row k, slot := 0, arrived := d.now, ceiling := false,
                 phase := .media, entry := e, route := .lost, alloc := false, escalated := false, cwOut := false,
                 peersOut := false, speculative := false, fault := true, tagged := false, accept := d.now,
                 translate := none, issue := none, ret := none, decode := none, recon := none : Read }
      queuePeers c tag s e k false
        (takeShare c { setCursor set k row d with acc := { d.acc with nextTag := tag + 1, reads := d.acc.reads ++ [r] } })

/-- Whether a rebuild has a set whose next row may start. -/
def rebuildOpen (d : Dp) : Bool :=
  (rebuilds d).any fun r => (rebuildSets d r.2).any fun s => !cursorDone d r.1 s && !setRebuilding d s

/-- One step of the rebuilds (R148): every covered set with nothing under way starts its next row. -/
def rebuildStep (c : Ctl) (d : Dp) : Dp :=
  rebuildCheck ((rebuilds d).foldl (fun d r => (rebuildSets d r.2).foldl (fun d s =>
    if cursorDone d r.1 s || setRebuilding d s then d else rebuildSet c r.1 s d) d) d)

/-- Whether the loss of the package of a channel at a warp can be rebuilt (R149): not where another channel of the same warp
is rebuilt or has been. -/
def rebuildable (d : Dp) (k w : Nat) : Bool :=
  !(d.mh.cursors.any fun x => x.1 % 32 ≠ k && setWarp (x.1 / 32) = w) &&
  !((rebuilds d).any fun r => r.1 ≠ k && r.2.getLsbD w)

/-- Start the rebuild of a lost unit at once (R146, R147), beside those under way; what cannot be rebuilt is left unrebuilt
(R149). -/
def startRebuild (k : Nat) (warps : BitVec 4) (d : Dp) : Dp :=
  let ws := (List.range (cfgN d)).filter fun w => warps.getLsbD w
  let good : BitVec 4 := (ws.filter (rebuildable d k)).foldl setBit 0
  let d1 := if ws.all (rebuildable d k) then d else leaveUnbuilt d
  if good = 0 then d1 else addWork 1 .rebuild (setRebuilds (rebuilds d1 ++ [(k, good)]) d1)

end Sys2Proof.Machine
end

