-- ==== Sys2Proof/Machine/ProgOps.lean ====
section
/-! DEFINITION. Programmes at the media (R63, R92 to R96, R134, R143, R464): when one may be granted, what its grant
does, what follows its verification or failure, and the isolation of a unit (R146). -/

namespace Sys2Proof.Machine

/-- A programme by its number. -/
def findProg (d : Dp) (id : Nat) : Option Prog := d.mrg.progs.find? fun p => p.id = id

/-- The stripe of a programme's slot. -/
def progStripe (p : Prog) : Stripe := mkStripe p.set p.row

/-- Whether a page's whole-page write has something before it (R464): an entry of the page created before it that has not
verified, or an open delta or intent of its row. -/
def partialBefore (d : Dp) (p : Page) (s : Stripe) : Bool :=
  ((pageEntries d p).any (fun e => e.whole && !e.parOk) &&
    (pageEntries d p).any fun x => !x.whole && !x.dataOk && !earlierWhole d x) ||
  (d.mrg.deltas.any fun x => x.stripe = s)

/-- Whether a pending programme may take the programming right (R49, R89, R92, R148, R464). -/
def progReady (d : Dp) (p : Prog) : Bool :=
  let whole := fun (page : Page) =>
    let s := entryStripe (curEntry d page.toNat)
    !pageLost d page.toNat && !partialBefore d page s && !rowRebuilding d (stripeSet s) (stripeRow s)
  match p.kind with
  | .data id =>
    match findEntry d id with
    | none => true
    | some e => !pageLost d (linePage e.line).toNat && dataReady d e (entryStripe (curEntry d (linePage e.line).toNat))
  | .full page _ => whole page
  | .inPlace page _ => whole page
  | .parity id => match d.mrg.deltas.find? fun x => x.id = id with
    | some x => !rowRebuilding d (stripeSet x.stripe) (stripeRow x.stripe)
    | none => true
  | .first page _ => match findRewrite d page with
    | some r => !partialBefore d page r.dst
    | none => true
  | .journal seq _ => match findStripe d seq with
    | some x => let s := journalStripe d x.loc; !rowRebuilding d (stripeSet s) (stripeRow s)
    | none => true
  | .store slot _ => let s := storeStripe d slot; !rowRebuilding d (stripeSet s) (stripeRow s)
  | .rewrite _ _ => true
  | .rebuild _ _ _ => true
  | .overwrite => true

/-- Whether a programme is being carried out at its partition. -/
def progFlying (p : Prog) : Bool := p.st = .granted || p.st = .resetting || p.st = .overrun

/-- The wear and heat counters of a granted programme of a stripe (R128), sampled by free bits: wear with probability
1/2,048, heat of a data programme with probability 1/64. -/
def sampleWear (c : Ctl) (stripe : Stripe) (page : Option Nat) (d : Dp) : Dp :=
  let x := Config.wearSample d.free
  let s := stripe.toNat
  let d1 := if x.extractLsb' 0 11 = 0 then
      bgAccess c .wear s { d with mh := { d.mh with wear := smMod 0 d.mh.wear s (satInc 65535) } }
    else d
  let d2 : Dp := match page with
    | some q => if x.extractLsb' 11 6 = 0 then
        bgAccess c .heat q { d1 with mh := { d1.mh with heat := smMod 0 d1.mh.heat q (satInc 255) } } else d1
    | none => d1
  bump d2

/-- Note the first programme of a metadata stripe (R140). -/
def noteMeta (p : Prog) (d : Dp) : Dp :=
  if rowRole p.row = .metadata then
    { d with mh := { d.mh with metaUsed := addOnce (metaIndex (stripeSets (cfgN d)) (progStripe p)) d.mh.metaUsed } }
  else d

/-- The horizon check of a data programme (R134): none where the grant is refused, else the entry to be written, if it
changes. -/
def horizonCheck (now : BitVec 8) (e : BitVec 64) (j : Nat) : Option (Option (BitVec 64)) :=
  let s := entryStripe e
  let m := entryMask e
  if m = 0 then some (some (mkEntry s (entryBase e) now (setBit 0 j)))
  else if entryRecent e = now then
    if m.getLsbD j then some none
    else if setBit m j = 0xFFFF then some (some (mkEntry s now 0 0))
    else some (some (mkEntry s (entryBase e) now (setBit m j)))
  else none

/-- What a data programme's grant does to its page and row: the mapping change, the dirty bit of a rewrite (R123), the
delta (R92). A refused one leaves its page to an epoch rewrite (R134): `none`. -/
def grantData (c : Ctl) (p : Prog) (e : MEntry) (d : Dp) : Option Dp :=
  let page := linePage e.line
  let m := curEntry d page.toNat
  let j := linePos e.line
  match horizonCheck d.mh.now m j with
  | none => none
  | some change =>
    let d1 : Dp := match change with
      | some v => changeEntry c page.toNat v d
      | none => d
    let d2 : Dp := match findRewrite d1 page with
      | some r => if !r.first && !r.inPlace && r.copied.getLsbD j then
                    modRewrite page (fun r => { r with dirty := setBit r.dirty j }) d1
                  else d1
      | none => d1
    let d3 := if e.st = .programming then d2 else contribute c (entryStripe m) j e.id (entryDelta e) d2
    some (modEntry e.id (fun x => { x with st := .programming, chg := some (d3.jrn.nextChg - 1) })
      (sampleWear c (progStripe p) (some page.toNat) d3))

/-- Whether the programming right is lifted in DRAIN: once the accepted reads are answered (R96, R110). The replay steps of
RISE are whole commands. -/
def lifted (d : Dp) : Bool := d.sup.mode = .drain && outReads d = 0

/-- The command and data of a granted programme leave on the channel (R222, R227), in the DQ slots it reserves (R229); the
right is held for 500 ns (R154). -/
def issuePrg (c : Ctl) (p : Prog) (d : Dp) : Dp :=
  let slot := progSlot d p
  let d1 := modProg p.id (fun x => { x with st := .granted, begun := true, granted := d.now, dataEnd := dataEndOf d slot })
    (reserve p.chan slot.toList (noteMeta p d))
  let d2 := if lifted d then d1 else { d1 with mrg := { d1.mrg with holdUntil := smSet 0 d1.mrg.holdUntil p.set (d1.now + 500) } }
  let d3 := match p.kind with
    | .parity _ => pmuCount c 19 0x19 1 d2
    | _ => d2
  pmuBytes (2 + p.chan) 288 <| pmuCount c (1 + p.chan) 0x11 1 <|
    emit (.prgData p.chan (writeBurst p.image)) (emit (.mediaCmd p.chan (setWarp p.set) (prgWord (p.set % 32) p.row)) d3)

/-- A programme of a step that carries it out whole, verification and all: the replay of a RISE, the seal of a drain (R96,
R463). -/
def wholePrg (c : Ctl) (loc : Nat × Nat × Nat) (i : Image) (page : Option Nat) (d : Dp) : Dp :=
  pmuBytes (2 + loc.2.2) 288 <| pmuCount c (1 + loc.2.2) 0x11 1 <|
    emit (.prgData loc.2.2 (writeBurst i)) (portSend loc.2.2 2 (setWarp loc.1) (prgWord (loc.1 % 32) loc.2.1)
      (sampleWear c (mkStripe loc.1 loc.2.1) page d))

/-- Note the first programme of a rewrite's destination: its horizon (R121). -/
def noteFirst (page : Page) (d : Dp) : Dp :=
  modRewrite page (fun r => if r.verified = 0 then { r with verified := 1, horizon := d.mh.now } else r) d

/-- Change the entries a whole-page write holds for a position of its page. -/
def modWhole (page : Page) (pos : Nat) (f : MEntry → MEntry) (d : Dp) : Dp :=
  { d with mrg := { d.mrg with
      entries := mapIf (fun e => linePage e.line = page && e.whole && linePos e.line = pos && !e.dataOk) f d.mrg.entries } }

/-- Grant a member of a whole-page write: its entry is PROGRAMMING (R87), its page's heat is sampled. -/
def grantWhole (c : Ctl) (p : Prog) (page : Page) (pos : Nat) (d : Dp) : Dp :=
  issuePrg c p (modWhole page pos (fun e => { e with st := .programming })
    (noteFirst page (sampleWear c (progStripe p) (if pos < 16 then some page.toNat else none) d)))

/-- Grant a programme at the channel issue port (R63, R134). A data programme that is refused leaves its entry to a rewrite of
the page, the one under way or a new one. -/
def grantProg (c : Ctl) (p : Prog) (d : Dp) : Dp :=
  match p.kind with
  | .data id =>
    match findEntry d id with
    | none => dropProgs (fun x => x.id = p.id) d
    | some e =>
      match grantData c p e d with
      | some d1 => issuePrg c p d1
      | none =>
        let page := linePage e.line
        let d1 := pendEntry id (dropProgs (fun x => x.id = p.id) d)
        if (findRewrite d page).isSome then advanceRewrite c advFuel page d1 else addWork 2 (.epoch page) d1
  | .first page j => grantWhole c p page j d
  | .rewrite page j => grantWhole c p page j d
  | .full page j => grantWhole c p page j d
  | .inPlace page j => grantWhole c p page j d
  | .parity _ => issuePrg c p (sampleWear c (progStripe p) none d)
  | .journal _ _ => issuePrg c p (sampleWear c (progStripe p) none d)
  | .store _ _ => issuePrg c p (sampleWear c (progStripe p) none d)
  | .rebuild _ _ _ => issuePrg c p (sampleWear c (progStripe p) none d)
  | .overwrite => issuePrg c p (sampleWear c (progStripe p) none d)

/-- A full-stripe write is complete when none of its programmes is outstanding; not in DRAIN, which drops those not granted
(R110), nor while the page's entry is lost (R49). -/
def checkFull (c : Ctl) (p : Page) (d : Dp) : Dp :=
  if d.sup.mode = .drain || pageLost d p.toNat || d.mrg.progs.any (fun x => x.st ≠ .worn && match x.kind with
    | .full q _ => q = p
    | _ => false) then d
  else if (pageEntries d p).any (fun e => e.whole && !e.parOk) && (findRewrite d p).isNone then finishWhole c p d
  else d

/-- A journal stripe is verified when none of its programmes is outstanding. -/
def checkJournal (c : Ctl) (seq : Nat) (d : Dp) : Dp :=
  if d.mrg.progs.any (fun x => match x.kind with
    | .journal n _ => n = seq
    | _ => false) then d
  else updWithhold c (releaseEntries (stripeVerified seq d))

/-- Rows of a stripe set that Sanitize overwrites (R392 step 6). -/
def overwritten (d : Dp) (set row : Nat) : Bool :=
  !retired d (mkStripe set row) &&
  match rowRole row with
  | .metadata => journalBase ≤ metaIndex (stripeSets (cfgN d)) (mkStripe set row)
  | .general => true
  | .reserve => true

/-- The row a stripe set's overwrite has reached. -/
def eraseRow (d : Dp) (set : Nat) : Nat := smGet 0 d.sec.eraseRows set

/-- The lowest row not yet finished in every stripe set (R392). -/
def eraseLow (d : Dp) : Nat :=
  (List.range (stripeSets (cfgN d))).foldl (fun a s => min a (eraseRow d s)) (2 ^ 24)

/-- Whether a stripe set has overwrite programmes outstanding. -/
def overwriting (d : Dp) (set : Nat) : Bool := d.mrg.progs.any fun p => p.kind = .overwrite && p.set = set

/-- Queue the overwrite of a stripe set's row (R392 step 6): the all-zero codeword in every member that can be written.
No set starts row r + 1 before every set has finished row r − 1. -/
def overwriteSet (set : Nat) (d : Dp) : Dp :=
  let row := eraseRow d set
  if overwriting d set ∨ 2 ^ 24 ≤ row ∨ eraseLow d + 1 < row then d
  else if overwritten d set row then
    (List.range 17).foldl (fun d k =>
      if unitIsolated d k (setWarp set) then d else addProg .overwrite (set, row, k) 0 d) d
  else { d with sec := { d.sec with eraseRows := smSet 0 d.sec.eraseRows set (row + 1) } }

/-- An overwrite programme has ended: its set goes on when the row is finished. -/
def overwriteDone (set : Nat) (d : Dp) : Dp :=
  if overwriting d set then d
  else
    let d1 := { d with sec := { d.sec with eraseRows := smSet 0 d.sec.eraseRows set (eraseRow d set + 1) } }
    (List.range (stripeSets (cfgN d))).foldl (fun d s => overwriteSet s d) d1

/-- What follows once a programme's slot holds its codeword, or its member is gone: its entry, delta, page, stripe or
row moves on. -/
def progMoves (c : Ctl) (p : Prog) (d : Dp) : Dp :=
  let done := fun (e : MEntry) => { e with st := .verified, dataOk := true }
  match p.kind with
  | .data id =>
    let d1 := ((findEntry d id).map fun e => lineWritten e.line (modEntry id done d)).getD d
    let d2 := (d1.mrg.deltas.filter fun x => x.closed && x.recompute && !x.reading).foldl (fun d x => readOldParity c x d) d1
    match findEntry d id with
    | some e => advanceRewrite c advFuel (linePage e.line) d2
    | none => d2
  | .parity id => dropDelta id (parityCovered id d)
  | .first page pos => advanceRewrite c advFuel page (modWhole page pos done d)
  | .rewrite page pos => advanceRewrite c advFuel page (modWhole page pos (fun e => { e with st := .verified }) d)
  | .inPlace page pos => advanceRewrite c advFuel page (modWhole page pos done d)
  | .full page pos => checkFull c page (lineWritten (pageLine page pos) (modWhole page pos done d))
  | .journal seq _ => checkJournal c seq d
  | .store slot j => storeVerified c { d with pst := { d.pst with mediaBad := smSet 0 d.pst.mediaBad (16 * (slot / 8) + j) 0 } }
  | .rebuild set row chan => if cursorOf d set chan ≤ row then rebuildCheck (setCursor set chan (row + 1) d) else d
  | .overwrite => overwriteDone p.set d

/-- Something that others wait for is over: entries are released (R94), waiting writes and rewrites are tried again (R123,
R127). -/
def moveOn (c : Ctl) (d : Dp) : Dp := updWithhold c (pokeRewrites c (retryWaiting c (releaseEntries d)))

/-- A programme has ended: what it was for moves on, and what waited for it is tried again. -/
def progSettled (c : Ctl) (p : Prog) (d : Dp) : Dp := moveOn c (progMoves c p d)

/-- A programme has verified (R94, R173). -/
def progVerified (c : Ctl) (p : Prog) (d : Dp) : Dp :=
  progSettled c p (rctWritten (.media (progStripe p) p.chan) (dropProgs (fun x => x.id = p.id) d))

/-- The stripe and the channel of the member that a programme writes, by its name in the stripe and not by where it lies
(R143, R147). -/
def progMember (d : Dp) (p : Prog) : Stripe × Nat :=
  let at_ := fun (s : Stripe) (pos : Nat) => (s, if pos < 16 then posChan (stripeRow s) pos else parityChan (stripeRow s))
  match p.kind with
  | .data id => match findEntry d id with
    | some e => at_ (entryStripe (curEntry d (linePage e.line).toNat)) (linePos e.line)
    | none => (progStripe p, p.chan)
  | .parity id => match d.mrg.deltas.find? fun x => x.id = id with
    | some x => at_ x.stripe 16
    | none => (progStripe p, p.chan)
  | .full page pos => at_ (entryStripe (curEntry d page.toNat)) pos
  | .inPlace page pos => at_ (entryStripe (curEntry d page.toNat)) pos
  | .rebuild set row chan => (mkStripe set row, chan)
  | _ => (progStripe p, p.chan)

/-- The page whose data a programme's stripe holds. -/
def progPage (d : Dp) (p : Prog) : Option Page :=
  match p.kind with
  | .data id => (findEntry d id).map fun e => linePage e.line
  | .parity id => ((d.mrg.deltas.find? fun x => x.id = id).bind fun x => stripeOwner d x.stripe).map (BitVec.ofNat 31)
  | .full page _ => some page
  | .inPlace page _ => some page
  | .first page _ => some page
  | .rewrite page _ => some page
  | _ => none

/-- A programme that failed twice in a stripe that holds its page's data (R143): with spare remaining the page
relocates, its pending data coming from the persistence domain, and the stripe is retired; the image of the slot is kept for
reconstructions until then (R64). A relocating rewrite that is already under way becomes that relocation; an in-place one is
given up, and what it was for is queued again. Without spare, the member is marked failed. -/
def wornMember (c : Ctl) (p : Prog) (page : Page) (d : Dp) : Dp :=
  let m := progMember d p
  if 0 < spare d then
    let d1 := dropProgs (fun x => x.st = .pending && (match x.kind with
      | .full q _ => q = page
      | .inPlace q _ => q = page
      | _ => false)) (modProg p.id (fun x => { x with st := .worn }) d)
    let d2 : Dp := match findRewrite d1 page with
      | some r =>
        if r.inPlace then
          let d2 := { d1 with mh := { d1.mh with rewrites := d1.mh.rewrites.filter fun x => x.page ≠ page } }
          match r.why with
          | .disturb q g => addWork 3 (.disturb q g) d2
          | _ => d2
        else modRewrite page (fun r => { r with retireSrc := true, failChan := BitVec.ofNat 5 m.2 }) d1
      | none => d1
    let d3 := match p.kind with
      | .data id => pendEntry id d2
      | _ => { d2 with mrg := { d2.mrg with
          entries := mapIf (fun e => linePage e.line = page && e.whole && !e.parOk)
            (fun e => { e with whole := false, pend := true, dataOk := false, st := .sealedImg }) d2.mrg.entries } }
    if (findRewrite d3 page).isSome then advanceRewrite c advFuel page d3 else addWork 2 (.retire page (BitVec.ofNat 5 m.2)) d3
  else progSettled c p (checkLost c m.1 (markFailed m.1 m.2 (dropProgs (fun x => x.id = p.id) d)))

/-- A programme has failed verify (R125, R143): it is retried once in its slot, except into a stripe its page is not yet
mapped to. -/
def progFailed (c : Ctl) (p : Prog) (d : Dp) : Dp :=
  let s := progStripe p
  let m := progMember d p
  let d1 := raise p.chan 0x05 s.toNat p.chan (progMaster d p) 3 d
  let gone := dropProgs (fun x => x.id = p.id)
  let again := modProg p.id fun x => { x with st := .pending, retried := true }
  match p.kind with
  | .first page _ => rewriteFailed c page p.chan (gone d1)
  | .rewrite page _ => rewriteFailed c page p.chan (gone d1)
  | _ =>
    if p.retried = false then again d1
    else match p.kind with
      | .journal seq _ =>
        if (findStripe d1 seq).any fun x => journalStripe d1 x.loc = s then stripeFailed seq p.chan (gone d1)
        else checkJournal c seq (gone d1)
      | .store _ _ => storeFailed c (markRetired s (BitVec.ofNat 5 p.chan) (gone d1))
      | .rebuild _ _ _ => progSettled c p (markFailed m.1 m.2 (gone d1))
      | .overwrite => overwriteDone p.set (markRetired s (BitVec.ofNat 5 p.chan) (gone d1))
      | _ => match progPage d p with
        | some page => wornMember c p page d1
        | none => progSettled c p (gone d1)

/-- Redrive what was bound for a lost unit (R146): a data programme becomes a degraded-stripe write, others go on
without the member. An entry of a stripe that has lost two members waits for its page's relocation (R145). -/
def redrive (c : Ctl) (p : Prog) (d : Dp) : Dp :=
  let d1 := dropProgs (fun x => x.id = p.id) d
  match p.kind with
  | .data id =>
    match findEntry d id with
    | none => d1
    | some e =>
      let s := entryStripe (curEntry d (linePage e.line).toNat)
      if p.st = .worn then d1
      else if 2 ≤ (lostMembers d s).length then addWork 2 (.relocate (linePage e.line)) (pendEntry id d1)
      else if e.st = .programming then progSettled c p d1
      else updWithhold c (releaseEntries (degradedWrite c s e d1))
  | .overwrite => overwriteDone p.set d1
  | .rebuild _ _ _ => progSettled c p (leaveUnbuilt d1)
  | _ => if p.st = .worn then d1 else progSettled c p d1

/-- Reissue a media read that a lost unit held (R75, R146): host reads and their peers become reconstructions and fault
reads; background reads are queued again without the unit. A row whose parity member is gone has its delta discarded (R92); one
whose parity was to be recomputed from a data member that is gone keeps no parity. An answer does not depend on the
speculative peers of an escalation whose codeword is still out. -/
def reissue (c : Ctl) (m : Mop) (d : Dp) : Dp :=
  let d1 := dropMops (· = m) d
  match m.kind with
  | .sector tag _ => reconstruct c tag .lost (modRead tag (fun r => { r with fault := true }) d1)
  | .codeword tag =>
    let d2 := modRead tag (fun r => { r with fault := true, cwOut := false }) d1
    match findRead d2 tag with
    | none => d2
    | some r => if r.phase = .done then dropRead tag d2 else if r.peersOut then faultPeers tag d2
                else reconstruct c tag .lost d2
  | .peer tag host =>
    let d2 := giveUp (isPeerOf tag) (modRead tag (fun r => { r with fault := r.fault || host, peersOut := false }) d1)
    match findRead d2 tag with
    | none => d2
    | some r =>
      match r.kind with
      | .rebuild _ _ _ => addWork 1 .rebuild (dropRead tag d2)
      | .patrol _ _ => dropRead tag d2
      | _ => if r.cwOut then d2 else reconstruct c tag .lost d2
  | .rmw id => match findEntry d1 id with
    | some e => queueRmw c e (giveUp (fun x => x.kind = .rmw id) d1)
    | none => d1
  | .oldParity id =>
    match d1.mrg.deltas.find? fun x => x.id = id with
    | some x =>
      let d2 := parityCovered id (dropDelta id (giveUp (fun x => x.kind = .oldParity id) d1))
      if unavailable d2 x.stripe (parityChan (stripeRow x.stripe)) then d2
      else markFailed x.stripe (parityChan (stripeRow x.stripe)) d2
    | none => d1
  | .copy page => advanceRewrite c advFuel page (giveUp (fun x => x.kind = .copy page) d1)
  | _ => d1

/-- Whether a channel and stripe set lie on a unit: a whole channel, or the packages of a mask of warps. -/
def onUnit (k : Nat) (whole : Bool) (warps : BitVec 4) (chan set : Nat) : Bool :=
  chan = k && (whole || warps.getLsbD (setWarp set))

/-- The end of a harrow lap (R142), once every channel engine in service has completed its walk. -/
def lapCheck (c : Ctl) (d : Dp) : Dp :=
  if (List.range 17).all fun k => d.mh.hrwDone.getLsbD k || (chanOf d k).isolated then
    let t := elapsed d.mh.lapStart d.now
    { d with mh := { d.mh with
      hrwDone := 0, hrwNext := [], lapStart := d.now, lastLap := sat 0xFFFF (t / 60000000000)
      lapDormant := 0, lapSaid := false
      overLimit := d.mh.overLimit && decide (rg c 0xE0500 8 8 * 3600000000000 + d.mh.lapDormant < t) } }
  else d

/-- Whether an operation is a status command. -/
def MopKind.isStatus : MopKind → Bool
  | .status _ => true
  | .temperature _ => true
  | _ => false

/-- Whether no status command reaches a package: its channel is isolated, or it is, in W2 to W4 (R237, R327). -/
def statusGone (d : Dp) (k w : Nat) : Bool :=
  (chanOf d k).isolated || ((chanOf d k).pkgIso.getLsbD w && cfgN d ≠ 1)

/-- Isolate a unit (R146, R237): it is marked, its record kept, its reads reissued and its programmes redriven, stripes
that lose a second member enter the lost-data state, a rebuild starts, and a harrow lap that waited for the unit alone ends
(R142). A unit isolated already is left. -/
def isolateUnit (c : Ctl) (k : Nat) (whole : Bool) (warps : BitVec 4) (d : Dp) : Dp :=
  let ch := chanOf d k
  if nChan ≤ k ∨ ch.isolated ∨ (whole = false ∧ warps &&& ~~~ch.pkgIso = 0) then d
  else
    let d1 := modChan k (fun x => if whole then { x with isolated := true, ck := false } else { x with pkgIso := x.pkgIso ||| warps }) d
    let d2 := eventRecord c 2 1 0 (modDev 33 (fun r => if whole then { r with isoChan := setBit r.isoChan k }
      else { r with isoPkg := modAt r.isoPkg k (· ||| warps) }) d1)
    let d3 := if whole then emit (.chanPins k true) d2 else d2
    let mine := fun (chan set : Nat) => onUnit k whole warps chan set
    let d4 := (d3.mrg.progs.filter fun p => mine p.chan p.set).foldl (fun d p => redrive c p d) d3
    let d5 := (d4.mops.filter fun m => mine m.chan m.set && !(m.kind.isStatus && !statusGone d4 k (setWarp m.set))).foldl (fun d m => if m ∈ d.mops then reissue c m d else d) d4
    let d6 := (stripesInUse d5).foldl (fun d s => checkLost c s d) d5
    let sets := (List.range (stripeSets (cfgN d))).filter fun s => smGet 0 d6.mrg.right s = k && mine k s
    let d7 := { d6 with mrg := { d6.mrg with holdUntil := sets.foldl (fun m s => smErase m s) d6.mrg.holdUntil } }
    lapCheck c (moveOn c (startRebuild k (if whole then 0xF else warps) d7))

end Sys2Proof.Machine
end

