-- ==== Sys2Proof/Machine/MediaEvents.lean ====
section
/-! DEFINITION. Events of the media channels: ready frames (R226, R230, R231), overruns (R231), alerts and status
responses (R232), the programming right (R95, R154), the channel issue port (R27 to R29, R463), the read-disturb
counters (R138, R139), the harrow's walk (R140), the watchdog (R325) and the periodic checks (R235). -/

namespace Sys2Proof.Machine

/-- Whether an operation is a partition reset. -/
def MopKind.isReset : MopKind → Bool
  | .reset _ => true
  | _ => false

/-- The programme being carried out at a partition. -/
def flyingProg (d : Dp) (k set : Nat) : Option Prog := d.mrg.progs.find? fun p => p.chan = k && p.set = set && progFlying p

/-- The partition reset in progress at a partition. -/
def resetOut (d : Dp) (k set : Nat) : Option Mop :=
  d.mops.find? fun m => m.chan = k && m.set = set && m.kind.isReset && m.issued.isSome

/-- Histogram bucket of a tPRG (R331). -/
def tprgBucket (t : Nat) : Nat := if t < 400 then 0 else if t < 675 then 1 + (t - 400) / 25 else if t ≤ 700 then 12 else 13

/-- Drop the partition resets queued for a programme and not issued. -/
def dropResets (id : Nat) (d : Dp) : Dp := dropMops (fun m => m.kind = .reset id && m.issued.isNone) d

/-- Make the host reads that wait at a partition, and those that depend on a peer read there, fault reads (R75, R232). -/
def faultWaiting (k set : Nat) (d : Dp) : Dp :=
  (partReads d k set).foldl (fun d m => match m.kind with
    | .sector t _ => modRead t (fun r => { r with fault := true }) d
    | .codeword t => modRead t (fun r => { r with fault := true }) d
    | .peer t host => if host then modRead t (fun r => { r with fault := true }) d else d
    | _ => d) d

/-- A partition is to recover from an overrun: the reads there now are fault reads (R75). -/
def beginRecovery (k set : Nat) (d : Dp) : Dp :=
  faultWaiting k set (modChan k (fun x => { x with recover := addOnce set x.recover }) d)

/-- A partition has recovered from an overrun: the reads that came while it recovered are fault reads too (R75). -/
def endRecovery (k set : Nat) (d : Dp) : Dp :=
  if set ∈ (chanOf d k).recover then
    faultWaiting k set (modChan k (fun x => { x with recover := x.recover.filter (· ≠ set) }) d)
  else d

/-- A partition reset is complete (R65, R230): a programme it met is abandoned and waits to be reissued. -/
def resetReady (c : Ctl) (k set : Nat) (d : Dp) : Dp :=
  match resetOut d k set with
  | none => d
  | some m =>
    let d1 := dropMops (· = m) (endRecovery k set d)
    match d1.mrg.progs.find? fun p => p.chan = k && p.set = set && (p.st = .resetting || p.st = .overrun) with
    | none => d1
    | some p =>
      let d2 := modProg p.id (fun x => { x with st := .pending, abandoned := true }) d1
      if p.st = .resetting then pmuCount c (1 + k) 0x14 1 d2 else d2

/-- A programme overrun (R231): a partition reset goes ahead of everything, and the programme is reissued under the
shuttle schedule. Its tPRG is recorded as the 700 ns at which it is detected. -/
def overranProg (k set : Nat) (d : Dp) : Dp :=
  match flyingProg d k set with
  | none => d
  | some p =>
    if p.st ≠ .granted || p.told then d
    else
      let d1 := recHist (2 + k) 13 700 (modChan k (fun x => { x with overruns := satInc 0xFF x.overruns }) d)
      let d2 := raise k 0x13 (progStripe p).toNat (setWarp set) (progMaster d p) 3 (beginRecovery k set d1)
      addMopFirst k set p.row 4 (.reset p.id) 0 (modProg p.id (fun x => { x with st := .overrun }) (dropResets p.id d2))

/-- A reset overrun (R231, R327): the partition stays busy and the package is reported as not responding. -/
def overranReset (k set : Nat) (d : Dp) : Dp :=
  match resetOut d k set with
  | none => d
  | some _ =>
    raise k 0x11 0 (setWarp set) 0xFF 4
      (beginRecovery k set (modChan k (fun x => { x with overruns := satInc 0xFF x.overruns }) d))

/-- A frame that is discarded for its parity or its stop bit is the overrun case of R231 (R226), of the partition its
field names; where nothing is out there, the overrun shows when no frame comes (DESIGN CHOICE, log entry 125). -/
def frameLost (k set : Nat) (d : Dp) : Dp :=
  if (resetOut d k set).isSome then overranReset k set d else overranProg k set d

/-- A package has discarded a programme and says so by frame 0b11 (R231). What was discarded is told by the STS that follows
its alert, not by the frame: the programme is noted. A frame for a partition with no programme out is discarded. -/
def progDiscarded (k set tprg : Nat) (d : Dp) : Dp :=
  let d1 := modChan k (fun x => { x with stuck := false }) d
  match flyingProg d1 k set with
  | none => d1
  | some p =>
    if p.st = .granted then dropResets p.id (modProg p.id (fun x => { x with told := true }) (recHist (2 + k) 15 tprg d1)) else d1

/-- A ready frame decoded (R226, R230, R231). -/
def frameDecoded (c : Ctl) (k w : Nat) (f : BitVec 10) (tprg : Nat) (d : Dp) : Dp :=
  let set := 32 * w + framePart f
  if nChan ≤ k ∨ 4 ≤ w ∨ unitIsolated d k w then d
  else if frameOk f = false then frameLost k set d
  else
    match frameResult f with
    | .verified =>
      match flyingProg d k set with
      | none => d
      | some p => progVerified c p (dropResets p.id (pmuCount c (1 + k) 0x12 1 (recHist (2 + k) (tprgBucket tprg) tprg d)))
    | .verifyFailed =>
      match flyingProg d k set with
      | none => d
      | some p => progFailed c p (dropResets p.id (pmuCount c (1 + k) 0x13 1 (recHist (2 + k) 14 tprg d)))
    | .resetDone => resetReady c k set d
    | .discarded => progDiscarded k set tprg d

/-- READY_FRAME (R226): a 10-bit ready frame of the package at a warp, with the tPRG it ends. -/
def execReadyFrame (chan : Nat) (warp : Nat) (frame : BitVec 10) (tprgNs : Nat) (s : State) :
    Host.Outcome State Fault Refusal :=
  onDp (fun c d => frameDecoded c chan warp frame tprgNs d) s

/-- PROGRAMME_OVERRUN (R231). -/
def execProgrammeOverrun (chan : Nat) (set : Nat) (s : State) : Host.Outcome State Fault Refusal :=
  onDp (fun _ d => overranProg chan set d) s

/-- RESET_OVERRUN (R231). -/
def execResetOverrun (chan : Nat) (set : Nat) (s : State) : Host.Outcome State Fault Refusal :=
  onDp (fun _ d => overranReset chan set d) s

/-- Whether a package is in use (R4) and not isolated. -/
def pkgLive (d : Dp) (k w : Nat) : Bool := (chanOf d k).used.getLsbD w && !unitIsolated d k w

/-- Queue an operation at the port of every channel in service, for each of its packages in use (R463). -/
def everyPackage (kind : Nat → MopKind) (d : Dp) : Dp :=
  (List.range 17).foldl (fun d k => (List.range 4).foldl (fun d w =>
    if pkgLive d k w then addMop k (32 * w) 0 4 (kind w) 0 d else d) d) d

/-- Change every channel in service. -/
def everyChannel (f : Chan → Chan) (d : Dp) : Dp :=
  (List.range 17).foldl (fun d k => if (chanOf d k).isolated then d else modChan k f d) d

/-- Whether a package answers status commands: in W1 an isolated one does, its channel's engine stays in service for them
(R327). -/
def pkgAnswers (d : Dp) (k w : Nat) : Bool := (chanOf d k).used.getLsbD w && !statusGone d k w

/-- Queue an STS to every populated position in turn (R232). -/
def stsAll (k : Nat) (d : Dp) : Dp := (List.range 4).foldl (fun d w => if pkgAnswers d k w then queueSts k w d else d) d

/-- ALERT_N falls (R232); it is ignored while the alert is stuck and on an isolated channel (R237). -/
def alertFalls (c : Ctl) (k : Nat) (d : Dp) : Dp :=
  let ch := chanOf d k
  if nChan ≤ k ∨ ch.isolated ∨ ch.stuck then d
  else stsAll k (pmuCount c (1 + k) 0x1C 1
    (modChan k (fun x => { x with alerts := satInc 0xFF x.alerts, alertLow := true, stsRound := 1 }) d))

/-- ALERT_N (R232). -/
def execAlertN (chan : Nat) (s : State) : Host.Outcome State Fault Refusal :=
  onDp (fun c d => alertFalls c chan d) s

/-- Whether a latched word, which failed parity, can be what a package received of a command word: one bit of it came wrong
(DEDUCED, log entry 151). -/
def wordLatched (sent latched : BitVec 40) : Bool :=
  ((List.range 40).filter fun i => (sent ^^^ latched).getLsbD i).length = 1

/-- Reissue the command a package discarded for its parity (R231, R232): a PRG under the right it still holds; a PRS,
STS, TMP, TRN or MDW by registering it again. A discarded read has become an absent burst. `since` is the grant of the STS. A
frame 0b11 that came for the latched partition field of a PRG says nothing of the programme there. -/
def reissueDiscarded (k w : Nat) (cmd : BitVec 40) (since : Stamp) (d : Dp) : Dp :=
  let mops := mapIf (fun m => m.chan = k && setWarp m.set = w && !m.kind.isRead && m.issued.isSome && wordLatched (mopWord m) cmd)
    (fun m => { m with issued := none }) d.mops
  let here := fun (p : Prog) => p.chan = k && setWarp p.set = w && p.st = .granted
  let progs := mapIf
    (fun p => here p && wordLatched (prgWord (p.set % 32) p.row) cmd && elapsed since d.now ≤ elapsed p.granted d.now)
    (fun p => { p with st := .hasRight })
    (mapIf (fun p => here p && cmd.extractLsb' 35 5 = 0x18 && cmd.extractLsb' 30 5 = BitVec.ofNat 5 (p.set % 32))
      (fun p => { p with told := false }) d.mrg.progs)
  { d with mops := mops, mrg := { d.mrg with progs := progs } }

/-- The programmes of a package for which a frame 0b11 has come, whose write bursts it found bad (R231): each is issued again
under the right it still holds. -/
def reissueTold (k w : Nat) (d : Dp) : Dp :=
  let progs := mapIf (fun p => p.chan = k && setWarp p.set = w && p.st = .granted && p.told)
    (fun p => { p with st := .hasRight, told := false }) d.mrg.progs
  { d with mrg := { d.mrg with progs := progs } }

/-- The end of a round of STS responses (R232): ALERT_N has been released, or every package is read once more; a line still
low after the second round is stuck. `low` is the level of ALERT_N. -/
def alertRound (k : Nat) (low : Bool) (d : Dp) : Dp :=
  let ch := chanOf d k
  let left := d.mops.any fun m => m.chan = k && (match m.kind with
    | .status _ => true
    | _ => false)
  if ch.alertLow = false ∨ left then d
  else if !low then modChan k (fun x => { x with alertLow := false, stsRound := 0 }) d
  else if ch.stsRound < 2 then stsAll k (modChan k (fun x => { x with stsRound := x.stsRound + 1 }) d)
  else raise k 0x14 0 0 0xFF noAccess (modChan k (fun x => { x with alertLow := false, stsRound := 0, stuck := true }) d)

/-- What the causes of an STS response say (R231, R232): CA parity, bad write bursts, an internal fault. -/
def stsCauses (c : Ctl) (k w : Nat) (b : BitVec 128) (since : Stamp) (d : Dp) : Dp :=
  let cause := respByte b 0
  let d1 : Dp := if cause.getLsbD 0 then
      reissueDiscarded k w (stsCommand b) since
        (raise k 0x19 0 w 0xFF noAccess (modChan k (fun x => { x with caParity := satInc 0xFF x.caParity }) d))
    else d
  let told := (d1.mrg.progs.filter fun p => p.chan = k && setWarp p.set = w && p.st = .granted && p.told).length
  let d2 := if cause.getLsbD 1 then
      (List.range told).foldl (fun d _ =>
        pmuCount c (1 + k) 0x1B 1
          (raise k 0x18 0 1 0xFF 3 (modChan k (fun x => { x with wrCrc := satInc 0xFFFF x.wrCrc }) d))) (reissueTold k w d1)
    else d1
  if cause.getLsbD 3 then raise k 0x12 0 w 0xFF noAccess d2 else d2

/-- An STS response (R224, R232, R327): a package's status bytes, or no response at all. One whose CRC-16 fails is counted
and its STS is issued again (DESIGN CHOICE, log entry 125). -/
def stsReturned (c : Ctl) (k w : Nat) (x : ShortBurst) (low : Bool) (d : Dp) : Dp :=
  match d.mops.find? fun m => m.chan = k && m.kind = .status w && m.issued.isSome with
  | none => d
  | some m =>
    let d1 := (if x.absent then id else track k w) (dropMops (· = m) d)
    if x.absent then
      alertRound k low (raise k 0x11 0 w 0xFF 0 (modChan k (fun y => { y with absent := satInc 0xFF y.absent }) d1))
    else if shortOk x = false then queueSts k w (slotFails c k 0xFF d1)
    else alertRound k low (stsCauses c k w x.bytes (m.issued.getD 0) d1)

/-- STS_RESPONSE (R232): a package's status bytes, or no response at all; `low` is the level of ALERT_N. -/
def execStsResponse (chan : Nat) (warp : Nat) (resp : ShortBurst) (low : Bool) (s : State) :
    Host.Outcome State Fault Refusal :=
  onDp (fun c d => stsReturned c chan warp resp low d) s

/-- The next channel a set's programming right visits after one: isolated channels are skipped (R95). -/
def nextHolder (d : Dp) (set k : Nat) : Nat :=
  ((List.range 17).map fun i => (k + 1 + i) % 17).find? (fun x => !unitIsolated d x (setWarp set)) |>.getD k

/-- Whether the holder of a set's right keeps it: a programme with the right, one under way, or the 500 ns of R154. -/
def rightHeld (d : Dp) (set k : Nat) : Bool :=
  (d.mrg.progs.any fun p => p.chan = k && p.set = set && (progFlying p || (p.st = .hasRight && progReady d p))) ||
  (d.mrg.holdUntil.any fun x => x.1 = set)

/-- Give the right to a channel: its oldest pending programme of the set that may be programmed takes it. -/
def takeRight (set k : Nat) (d : Dp) : Dp :=
  match d.mrg.progs.find? fun p => p.chan = k && p.set = set && p.st = .pending && progReady d p with
  | some p => modProg p.id (fun x => { x with st := .hasRight, mark := d.nextMop }) d
  | none => d

/-- A set's programming right visits the next channel (R95). A programme that may no longer be granted, because its
row's delta has closed, gives the right up. -/
def visitRight (set : Nat) (d : Dp) : Dp :=
  let k := smGet 0 d.mrg.right set
  if stripeSets (cfgN d) ≤ set ∨ lifted d ∨ rightHeld d set k then d
  else
    let k' := nextHolder d set k
    let progs := mapIf (fun p => p.chan = k && p.set = set && p.st = .hasRight) (fun p => { p with st := .pending }) d.mrg.progs
    takeRight set k' { d with mrg := { d.mrg with right := smSet 0 d.mrg.right set k', progs := progs } }

/-- PROGRAMMING_RIGHT (R95). -/
def execProgrammingRight (set : Nat) (s : State) : Host.Outcome State Fault Refusal :=
  onDp (fun _ d => visitRight set d) s

/-- The 500 ns hold of a set's right ends (R154). -/
def holdEnds (set : Nat) (d : Dp) : Dp := { d with mrg := { d.mrg with holdUntil := smErase d.mrg.holdUntil set } }

/-- PROGRAMMING_RIGHT_HOLD_END (R154). -/
def execProgrammingRightHoldEnd (set : Nat) (s : State) : Host.Outcome State Fault Refusal :=
  onDp (fun _ d => holdEnds set d) s

/-- Whether a read is served ahead of a programme that holds the right (R63). -/
def aheadOf (m : Mop) (p : Prog) : Bool :=
  m.id < p.mark || (match m.kind with
    | .codeword _ => true
    | .peer _ host => host
    | _ => false)

/-- Whether a partition can start an operation: no programme, reset or read is in service on it. -/
def partitionFree (d : Dp) (k set : Nat) : Bool :=
  (flyingProg d k set).isNone && (resetOut d k set).isNone && !((partReads d k set).any fun m => m.issued.isSome)

/-- Whether a read may be served now: its slot holds no indeterminate content (R65), and no programme that holds the right
goes before it. -/
def readAllowed (d : Dp) (m : Mop) : Bool :=
  !indeterminate d (m.set, m.row, m.chan) &&
  match d.mrg.progs.find? fun p => p.chan = m.chan && p.set = m.set && p.st = .hasRight with
  | none => true
  | some p => aheadOf m p

/-- Whether a read is the first of its partition's queue that may be served. -/
def readFirst (d : Dp) (m : Mop) : Bool :=
  match d.mops.find? fun x => x.chan = m.chan && x.set = m.set && x.kind.isRead && x.issued.isNone && x.req ≠ 5 && readAllowed d x with
  | some x => x.id = m.id
  | none => m.req = 5

/-- Whether a media operation is registered at its channel's issue port: one that could be granted now. -/
def registered (d : Dp) (m : Mop) : Bool :=
  m.issued.isNone && !(if m.kind.isStatus then statusGone d m.chan (setWarp m.set) else unitIsolated d m.chan (setWarp m.set)) &&
  (match m.kind with
   | .reset id => (match findProg d id with
       | some p => progFlying p
       | none => true) && (resetOut d m.chan m.set).isNone
   | .status _ => true
   | .temperature _ => true
   | .train _ _ _ => true
   | .mdw _ _ _ => true
   | _ => partitionFree d m.chan m.set && readAllowed d m && readFirst d m)

/-- Whether a programme is registered at its channel's issue port (R63): it holds the right, or the right is lifted
(R96), and no read is served ahead of it. -/
def progRegistered (d : Dp) (p : Prog) : Bool :=
  (p.st = .hasRight || (lifted d && p.st = .pending)) && progReady d p && partitionFree d p.chan p.set &&
  !unitIsolated d p.chan (setWarp p.set) &&
  (lifted d || !(d.mops.any fun m => m.chan = p.chan && m.set = p.set && m.kind.isRead && m.issued.isNone &&
    !indeterminate d (m.set, m.row, m.chan) && aheadOf m p))

/-- What a requester of the port offers (R463). -/
inductive Offer where
  | mop (m : Mop)
  | prog (p : Prog)
  deriving DecidableEq, Repr

/-- The oldest registered operation of a ring requester. -/
def offerOf (d : Dp) (k r : Nat) : Option Offer :=
  if r = 2 then (d.mrg.progs.find? fun p => p.chan = k && progRegistered d p).map .prog
  else (d.mops.find? fun m => m.chan = k && m.req = r && registered d m).map .mop

/-- Whether an offer's DQ slots are free at this decision (R229). -/
def offerFits (d : Dp) : Offer → Bool
  | .mop m => (dqSlots d m).isSome
  | .prog p => (progSlot d p).isSome

/-- The ring requesters in the order of this decision: those passed over before, then the ring after the last winner (R27,
R229). -/
def portOrder (ch : Chan) : List Nat :=
  ch.passed ++ ((List.range 5).map fun i => (ch.lastWin + 1 + i) % 5).filter fun r => !(r ∈ ch.passed)

/-- What the registered ring requesters offer, in the order of this decision. -/
def ringOffers (d : Dp) (k : Nat) : List (Nat × Offer) :=
  (portOrder (chanOf d k)).filterMap fun r => (offerOf d k r).map fun o => (r, o)

/-- The ring requester granted (R27, R229): the first whose slots are free. -/
def ringWinner (d : Dp) (k : Nat) : Option (Nat × Offer) := (ringOffers d k).find? fun x => offerFits d x.2

/-- The ring after a decision (R27, R229): the requesters passed over keep their place ahead of it; one that is granted from
such a place does not move the ring's. -/
def afterDecision (d : Dp) (k : Nat) (win : Option Nat) (ch : Chan) : Chan :=
  let os := ringOffers d k
  let skipped := (os.takeWhile fun x => !offerFits d x.2).map (·.1)
  let kept := ch.passed.filter fun r => !(r ∈ skipped) && os.any (fun x => x.1 = r) && win ≠ some r
  { ch with
    passed := skipped ++ kept
    lastWin := match win with
      | some r => if r ∈ ch.passed then ch.lastWin else r
      | none => ch.lastWin }

/-- Key of a read-disturb segment (R138). -/
def segKey (k set row : Nat) : Nat := (k * 128 + set) * 4096 + row / 4096

/-- The mapped pages with a member in a segment, rebuilt members included (R138). -/
def segPages (d : Dp) (key : Nat) : List Nat :=
  let k := key / 4096 / 128
  (mappedPages d).filterMap fun e =>
    let s := entryStripe e.2
    let here := (List.range 17).any fun k' => match memberLoc d s k' with
      | some l => l.2.2 = k && segKey l.2.2 l.1 l.2.1 = key
      | none => false
    if here then some e.1 else none

/-- Count a media read in its segment (R138, R139): once the threshold is reached a disturb rewrite of each page of the segment is
queued, at twice the threshold the overrun is reported once. -/
def countDisturb (c : Ctl) (k set row : Nat) (d : Dp) : Dp :=
  let key := segKey k set row
  let n := smGet 0 d.mh.disturb key + 1
  let d1 := counterUpdate c key { d with mh := { d.mh with disturb := smSet 0 d.mh.disturb key n } }
  let thr := rg c 0xE0400 0 24
  if thr ≤ n ∧ !disturbPending d1 key then
    let ps := segPages d1 key
    if ps = [] then { d1 with mh := { d1.mh with disturb := smErase d1.mh.disturb key } }
    else ps.foldl (fun d p => addWork 3 (.disturb (BitVec.ofNat 31 p) key) d) d1
  else if 2 * thr ≤ n ∧ disturbPending d1 key ∧ !(key ∈ d1.mh.overrun) then
    raise 0x5B 0x32 (mkStripe set row).toNat 0 0x06 0 { d1 with mh := { d1.mh with overrun := key :: d1.mh.overrun } }
  else d1

/-- What a word of an HBM structure that a command read says by its check bits (R168). `err` are the bits that read wrong. By
linearity of the code they decide, whatever the word holds. An uncorrectable word is handled by its structure: its wear
counters go to the maximum, its heat counters to 0, its disturb counters to the threshold, and the word is written again; the
bits of a bitmap or stripe-state word are recomputed, and it is written again, as background work, at priority 5 (DESIGN CHOICE,
log entry 138). -/
def hbmFound (c : Ctl) (s : HStr) (word : Nat) (err : BitVec 288) (d : Dp) : Dp :=
  let x := structPos d s word
  let elems := (List.range s.perWord).map fun i => word * s.perWord + i
  match (hbmRead 0 (hbmVas x.1 x.2.1 x.2.2.1 x.2.2.2) err).1 with
  | .good => d
  | .corrected => hbmCorrected c x.1 x.2.1 x.2.2.1 x.2.2.2 d
  | .uncorrectable =>
    let d0 := raise (0x20 + x.1) 0x21 (hbmAddr x.2.1 x.2.2.1 x.2.2.2) 0 0x06 2 d
    let d1 := if s = .bitmap || s = .state then d0 else postWord 2 s word d0
    match s with
    | .wear => { d1 with mh := { d1.mh with
        wear := (elems.filter fun i => stripeExists (cfgN d) (BitVec.ofNat 31 i)).foldl (fun m i => smSet 0 m i (maxWear d)) d1.mh.wear } }
    | .heat => { d1 with mh := { d1.mh with heat := elems.foldl (fun m i => smErase m i) d1.mh.heat } }
    | .disturb =>
      let thr := rg c 0xE0400 0 24
      elems.foldl (fun d i =>
        let d2 := { d with mh := { d.mh with disturb := smSet 0 d.mh.disturb i thr } }
        if disturbPending d2 i then d2
        else (segPages d2 i).foldl (fun d p => addWork 3 (.disturb (BitVec.ofNat 31 p) i) d) d2) d1
    | .bitmap => addWork 5 (.bitmapWord word) { d1 with map := { d1.map with unsure := addOnce word d1.map.unsure } }
    | .state => addWork 5 (.stateWord word) { d1 with map := { d1.map with unsureState := addOnce word d1.map.unsureState } }
    | .firmware => d1

/-- A command of the media engines with the bits that read wrong in the HBM words that were being read, in the order of their
reads, those of the command itself last; none where the list has ended (R168, log entry 138). -/
def withHbm (errs : List (BitVec 288)) (f : Ctl → Dp → Dp) (c : Ctl) (d : Dp) : Dp :=
  let d1 := f c d
  (d1.hbm.touched.zip errs).foldl (fun d x => hbmFound c x.1.1 x.1.2 x.2 d) { d1 with hbm := { d1.hbm with touched := [] } }

/-- Stamp the issue of a read's first media operation (R420). -/
def stampIssue (m : Mop) (d : Dp) : Dp :=
  let f := fun (r : Read) => { r with issue := some (r.issue.getD d.now) }
  match m.kind with
  | .sector t _ => modRead t f d
  | .codeword t => modRead t f d
  | .peer t _ => modRead t f d
  | _ => d

/-- Whether every mode-register write of a channel has been issued. -/
def mdwDone (d : Dp) (k : Nat) : Bool := !(d.mops.any fun m => m.chan = k && m.issued.isNone && (match m.kind with
  | .mdw _ _ _ => true
  | _ => false))

/-- Grant a media operation at the channel issue port: its command word leaves on the channel (R222) and its DQ slots are
reserved (R229). A read counts in its segment; a partition reset is in progress; the second TRN of a write-eye check
follows the first; after the last write of standby CK stops (R236). -/
def grantMop (c : Ctl) (m : Mop) (d : Dp) : Dp :=
  let w := setWarp m.set
  let d1 := emit (.mediaCmd m.chan w (mopWord m)) (reserve m.chan ((dqSlots d m).getD [])
    { d with mops := mapIf (fun x => x.id = m.id) (fun x => { x with issued := some d.now }) d.mops })
  match m.kind with
  | .reset id => pmuCount c (1 + m.chan) 0x15 1
      (modProg id (fun p => if p.st = .granted then { p with st := .resetting } else p) d1)
  | .status _ => d1
  | .temperature _ => d1
  | .train w mode drift => if mode = 3 then addMopFirst m.chan m.set 0 4 (.train w 4 drift) 0 d1 else d1
  | .mdw w reg v =>
    let d2 := emit (.mdw m.chan w reg v) d1
    if reg = 3 ∧ v = 1 ∧ mdwDone d2 m.chan then modChan m.chan (fun x => { x with ck := false }) d2 else d2
  | _ => stampIssue m (countDisturb c m.chan m.set m.row (pmuCount c (1 + m.chan) 0x10 1 d1))

/-- The slots of a channel the harrow reads (R140): its members of the stripes in use that have a readable copy, rebuilt
ones at their reserve rows; each with its slot number and the stripe it belongs to. A slot left indeterminate is not
read (R65). -/
def harrowSlots (d : Dp) (k : Nat) : List (Nat × Stripe) :=
  (stripesInUse d).flatMap fun s => (List.range 17).filterMap fun k' =>
    match memberLoc d s k' with
    | some l => if l.2.2 = k && !indeterminate d l then some (l.1 * 2 ^ 24 + l.2.1, s) else none
    | none => none

/-- The next slot of a channel's walk. -/
def harrowNext (d : Dp) (k : Nat) : Option (Nat × Stripe) :=
  let start := smGet 0 d.mh.hrwNext k
  (harrowSlots d k).foldl (fun (a : Option (Nat × Stripe)) x =>
    if x.1 < start then a
    else match a with
      | none => some x
      | some y => if x.1 < y.1 then some x else some y) none

/-- Whether a media operation is a harrow read. -/
def MopKind.isHarrow : MopKind → Bool
  | .harrow _ _ _ => true
  | _ => false

/-- Whether the harrow may issue a read on a channel. -/
def harrowOpen (c : Ctl) (d : Dp) (k : Nat) : Bool :=
  rb c 0xE0500 31 && serving d && d.que.mps.getD 2 1 = 0 && !d.mh.hrwDone.getLsbD k && !(chanOf d k).isolated &&
  !(d.mops.any fun m => m.chan = k && m.kind.isHarrow)

/-- Whether the lap's pace lets a channel read its next slot now (R140): of a lap of HRW_CTL.target_h hours of the time not
spent in DORMANT, at least the share that its walk has done is over (DESIGN CHOICE, log entry 149). -/
def harrowPaced (c : Ctl) (d : Dp) (k : Nat) : Bool :=
  let all := harrowSlots d k
  let done := (all.filter fun x => x.1 < smGet 0 d.mh.hrwNext k).length
  decide (done * (rg c 0xE0500 0 8 * 3600000000000) ≤ (elapsed d.mh.lapStart d.now - d.mh.lapDormant) * all.length)

/-- The reference code of the member of a stripe held on a slot. A metadata stripe has no mapping entry, and the spec gives its
members no age: the code is that of page 0's entry (DESIGN CHOICE, log entry 133). -/
def harrowCode (c : Ctl) (d : Dp) (s : Stripe) (k' : Nat) : BitVec 6 :=
  memberCode c d (curEntry d ((stripeOwner d s).getD 0)) (chanPos (stripeRow s) k')

/-- The channel whose member of a stripe lies on a slot. -/
def slotMember (d : Dp) (s : Stripe) (set row k : Nat) : Nat :=
  ((List.range 17).find? fun k' => memberLoc d s k' = some (set, row, k)).getD k

/-- The idle-only requester (R28, R463): a Scan Media read, else the harrow's next read (R140). -/
def idleGrant (c : Ctl) (k : Nat) (d : Dp) : Dp :=
  match d.mops.find? fun m => m.chan = k && m.req = 5 && registered d m with
  | some m => if (dqSlots d m).isSome then grantMop c m d else d
  | none =>
    if harrowOpen c d k = false then d
    else match harrowNext d k with
      | none => lapCheck c { d with mh := { d.mh with hrwDone := setBit d.mh.hrwDone k } }
      | some x =>
        let set := x.1 / 2 ^ 24
        let row := x.1 % 2 ^ 24
        let k' := slotMember d x.2 set row k
        let m : Mop := ⟨d.nextMop, k, set, row, 5, .harrow x.2 k' (stripeOwner d x.2), harrowCode c d x.2 k', none, false⟩
        if harrowPaced c d k && partitionFree d k set && readAllowed d m && (dqSlots d m).isSome then
          grantMop c m { d with mops := d.mops ++ [m], nextMop := d.nextMop + 1,
                                mh := { d.mh with hrwNext := smSet 0 d.mh.hrwNext k (x.1 + 1) } }
        else d

/-- A decision of a channel's issue port (R27 to R29, R229), while its CK runs (R236). The idle-only requester is granted
only where no ring requester is registered (R28). A grant is an acceptance: it restarts the watchdog's count (R325). -/
def portDecides (c : Ctl) (k : Nat) (d0 : Dp) : Dp :=
  let d := pruneMops d0
  if nChan ≤ k ∨ (chanOf d k).isolated ∨ (chanOf d k).ck = false then d
  else match ringWinner d k with
    | some (r, o) =>
      let d1 := modChan k (fun x => afterDecision d k (some r) (Chan.alive d.now x)) d
      match o with
      | .mop m => grantMop c m d1
      | .prog p => grantProg c p d1
    | none => if ringOffers d k = [] then idleGrant c k d else modChan k (afterDecision d k none) d

/-- ISSUE_PORT_DECISION (R27). -/
def execIssuePortDecision (chan : Nat) (hbm : List (BitVec 288)) (s : State) : Host.Outcome State Fault Refusal :=
  onDp (withHbm hbm fun c d => portDecides c chan d) s

/-- Isolate a unit as a whole: the spread counter of isolations counts it (R301, R304). -/
def isolateCounted (k : Nat) (whole : Bool) (warps : BitVec 4) (c : Ctl) (d : Dp) : Ctl × Dp :=
  let d1 := isolateUnit c k whole warps d
  (if (chanOf d1 k).isolated && !(chanOf d k).isolated then cntInc 8 c else c, d1)

/-- The watchdog of a channel engine expires (R325): 10 µs with a handshake outstanding and no sign of life. It is reported,
and the whole channel is isolated. -/
def watchdogExpires (k : Nat) (c : Ctl) (d : Dp) : Ctl × Dp :=
  if nChan ≤ k ∨ (chanOf d k).isolated ∨ engineBusy d k = false ∨ elapsed (chanOf d k).tick d.now < 10000 then (c, d)
  else
    let d1 := raise k 0x10 0 0 0xFF 7 { d with flt := { d.flt with wdog := setBit d.flt.wdog k } }
    isolateCounted k true 0 c d1

/-- WATCHDOG (R325). -/
def execWatchdog (chan : Nat) (s : State) : Host.Outcome State Fault Refusal :=
  onBoth (fun c d => watchdogExpires chan c d) s

/-- A progress tick restarts a channel's watchdog (R325). -/
def progressTicks (k : Nat) (d : Dp) : Dp :=
  if engineBusy d k then modChan k (Chan.alive d.now) d else d

/-- PROGRESS_TICK (R325). -/
def execProgressTick (chan : Nat) (s : State) : Host.Outcome State Fault Refusal :=
  onDp (fun _ d => progressTicks chan d) s

/-- Control-BAR offset of MC_k_CTL (R240). -/
def mcCtl (k : Nat) : Nat := 0x200000 + 0x10000 * k

/-- Queue an operation of the firmware-and-status requester for a package, once. -/
def queueStatus (k w : Nat) (kind : MopKind) (d : Dp) : Dp :=
  if d.mops.any fun m => m.chan = k && m.kind = kind && m.issued.isNone then d else addMop k (32 * w) 0 4 kind 0 d

/-- A write-eye check of one package (R235): the TRN pair is queued; what it will find, lane by lane, re-centres the
lanes by their delays once it has passed. -/
def eyeCheck (c : Ctl) (k w : Nat) (drift : List (BitVec 6)) (d : Dp) : Dp :=
  if rb c (mcCtl k) 0 && serving d && pkgLive d k w then queueStatus k w (.train w 3 drift) d else d

/-- WRITE_EYE_CHECK (R235). -/
def execWriteEyeCheck (chan : Nat) (warp : Nat) (drift : List (BitVec 6)) (s : State) : Host.Outcome State Fault Refusal :=
  onDp (fun c d => eyeCheck c chan warp drift d) s

/-- The TMP period of a channel (R235): TMP to every package. -/
def tmpDue (k : Nat) (d : Dp) : Dp :=
  if serving d then (List.range 4).foldl (fun d w => if pkgAnswers d k w then queueStatus k w (.temperature w) d else d) d
  else d

/-- TMP_PERIOD (R235). -/
def execTmpPeriod (chan : Nat) (s : State) : Host.Outcome State Fault Refusal :=
  onDp (fun _ d => tmpDue chan d) s

end Sys2Proof.Machine
end

