-- ==== Sys2Proof/Machine/WriteBack.lean ====
section
/-! DEFINITION. The way of dirty data towards the media: the merge hold and the read-modify-write (R88, R89), parity
deltas (R92, R93), the cleaner (R97, R192) and the end of a store stream (R85). -/

namespace Sys2Proof.Machine

/-- Give up the rewrite of a page whose entry cannot be restored. -/
def dropRewrite (p : Page) (d : Dp) : Dp :=
  match findRewrite d p with
  | none => d
  | some r =>
    let d1 := untake p (dropProgs (fun x => x.st = .pending && (match x.kind with
      | .rewrite q _ => q = p
      | .inPlace q _ => q = p
      | _ => false)) (giveUp (fun m => m.kind = .copy p) d))
    let d2 := { d1 with mh := { d1.mh with rewrites := d1.mh.rewrites.filter fun x => x.page ≠ p } }
    if r.inPlace then d2 else unhold r.dst d2

/-- MP_2 restores a lost entry from the journal, or maps the page to a poisoned stripe (R49). -/
def restoreEntry (c : Ctl) (page : Page) (d : Dp) : Dp :=
  let p := page.toNat
  if pageLost d p = false ∨ d.que.mps.getD 2 1 ≠ 0 then d
  else if (cacheLine d p).any (·.pinned) then { d with map := { d.map with lost := d.map.lost.filter (· ≠ p) } }
  else match journalEntry d p with
    | some e =>
      let write := fun (pc : Nat) (x : Nat × Nat × Nat × Nat) => (⟨pc, x.2.1, x.2.2.1, x.2.2.2, .back 3, 1, false⟩ : HbmEnt)
      let x := entryPos d p
      moveOn c (checkFull c page (relaunchPage c page
        { d with hbm := { d.hbm with wait := d.hbm.wait ++ [write x.1 x, write (partner x.1) x] }, map := { d.map with
            lost := d.map.lost.filter (· ≠ p), copyA := smSet 0 d.map.copyA p e, copyB := smSet 0 d.map.copyB p e
            stranded := d.map.stranded.filter (· ≠ (entryStripe e).toNat) } }))
    | none =>
      if (findRewrite d page).any (·.first) then d
      else
        let slot := (slotOfDpa d (p * 4096)).getD 0
        let d1 := startFirst page slot 0 ((List.range 16).map (poisonImage d slot page)) (dropRewrite page d)
        let d2 := raise 0x5B 0x04 (pageSec page).toNat 64 0x0A 0 d1
        (List.range 64).foldl (fun d k => poisonAdd (pageSec page + BitVec.ofNat 37 k) false d) d2

/-- MAP_ENTRY_RESTORE (R49). -/
def execMapEntryRestore (page : Page) (s : State) : Host.Outcome State Fault Refusal :=
  onDp (fun c d => restoreEntry c page d) s

/-- The outer decode of the member of a stripe on channel k, against the label sought (R164). -/
def backDecode (d : Dp) (s : Stripe) (k : Nat) (i : Image) : Decoded :=
  outerDecode i (memberLabel d s (chanPos (stripeRow s) k) i)

/-- Report a codeword whose label is not the one sought (R164). -/
def noteMisplaced (s : Stripe) (pos master : Nat) (x : Decoded) (d : Dp) : Dp :=
  if x.cls = .misplaced then raiseFailed .misplaced s pos master d else d

/-- Whether the member of a stripe on channel k itself was read, and not its peers. -/
def ownRead (d : Dp) (s : Stripe) (k : Nat) (ms : List Mop) : Bool :=
  ms.any fun m => memberLoc d s k = some (m.set, m.row, m.chan)

/-- The codeword of a background read, by its outer decode. -/
def Back.of (x : Decoded) : Back := if x.cls.good then .got x.image else .lost

/-- The image that a background read gave. -/
def Back.image : Back → Option Image
  | .got i => some i
  | _ => none

/-- The codeword reads done for the member of a stripe on channel k are over (R60, R64, R88, R164, R231): what they came to,
and the state after their bursts and messages. Where the member itself does not decode, or its burst did not come, it is
rebuilt from the 16 others, which are read for it. -/
def backRead (c : Ctl) (s : Stripe) (k : Nat) (ms : List Mop) (raw : Burst) (peers : List Burst) (d : Dp) : Back × Dp :=
  let imgs := peers.map (·.image)
  let note := fun (x : Decoded) (d : Dp) => noteMisplaced s (chanPos (stripeRow s) k) ((ms.head?.map (mopMaster d)).getD 0xFF) x d
  let absent := ms.any (·.absent)
  let d1 := arrivals c s (burstOf k raw peers) ms d
  let rebuilt := backDecode d s k (rebuildImage d s k imgs)
  if ownRead d s k ms then
    let own := backDecode d s k raw.image
    let d2 := if absent then d1 else note own d1
    if own.cls.good && !absent then (.got own.image, d2)
    else if !reconstructable d s k then (.lost, d2)
    else if peersToRead d s k ≠ [] then (.peers, d2)
    else (Back.of rebuilt, note rebuilt d2)
  else if absent then (.lost, d1)
  else (Back.of rebuilt, note rebuilt d1)

/-- The media operations of a kind, and the state without them. -/
def takeMops (k : MopKind) (d : Dp) : List Mop × Dp := (d.mops.filter fun m => m.kind = k, dropMops (fun m => m.kind = k) d)

/-- Fill the missing sectors of an entry from its slot's image (R88): the image is its old image. Missing sectors of a
slot that can be neither read nor reconstructed are poisoned, and the entry has no old image (R92, R162). -/
def fillEntry (c : Ctl) (e : MEntry) (i : Option Image) (d : Dp) : Dp :=
  let missing := (List.range 4).filter fun k => !e.sv.getLsbD k
  match i with
  | some i =>
    let fill := fun (x : MEntry) => missing.foldl (fun x k => x.fillMissing k (plainSector d e.line i k) (imgPoison i k)) x
    pmuCount c 22 0x11 missing.length
      (modEntry e.id (fun x => { fill x with old := some i, noOld := false, reading := false }) d)
  | none =>
    let d1 := modEntry e.id (fun x =>
      { missing.foldl (fun x k => x.fillMissing k 0 true) x with noOld := true, old := none, reading := false }) d
    missing.foldl (fun d k => nameLine (lineSec e.line k) d) d1

/-- Fill the missing sectors of an entry with zeros: its page is unmapped (R47, R88). -/
def fillZero (e : MEntry) (d : Dp) : Dp :=
  modEntry e.id (fun x => (List.range 4).foldl (fun x k => x.fillMissing k 0 false) x) d

/-- An entry reaches MRG_CTL.hold (R88): incomplete, it takes its missing sectors from the earlier entry of its slot
(R89), from an unmapped page's zeros (R47) or by reading its slot; complete, it is launched as a partial update. -/
def holdExpires (c : Ctl) (id : Nat) (d : Dp) : Dp :=
  match findEntry d id with
  | none => d
  | some e =>
    let p := linePage e.line
    if !serving d || e.reading || pageLost d p.toNat then d
    else if e.st ≠ .assembling then launchEntry c id d
    else if e.sv = 0xF then launchEntry c id (sealEntry c id d)
    else match earlierEntry d e with
      | some x =>
        if x.st = .assembling then d
        else launchEntry c id (sealEntry c id (fillEntry c e (some x.image) d))
      | none =>
        let m := curEntry d p.toNat
        if entryValid m = false then launchEntry c id (sealEntry c id (fillZero e d))
        else
          let s := entryStripe m
          let k := posChan (stripeRow s) (linePos e.line)
          if unavailable d s k && !reconstructable d s k then launchEntry c id (sealEntry c id (fillEntry c e none d))
          else queueRmw c e d

/-- MERGE_HOLD_EXPIRY (R88). -/
def execMergeHoldExpiry (entry : Nat) (held : List HeldEcc) (s : State) : Host.Outcome State Fault Refusal :=
  onDp (fun c d => holdExpires c entry (heldEccs c held d)) s

/-- Whether every media operation of a kind has been issued, and there is one. -/
def allIssued (d : Dp) (k : MopKind) : Bool :=
  d.mops.any (fun m => m.kind = k) && d.mops.all fun m => m.kind ≠ k || m.issued.isSome

/-- The read of an entry's slot returns (R88). -/
def rmwReturned (c : Ctl) (id : Nat) (raw : Burst) (peers : List Burst) (d : Dp) : Dp :=
  match findEntry d id with
  | none => d
  | some e =>
    if e.reading = false ∨ allIssued d (.rmw id) = false then d
    else
      let s := entryStripe (curEntry d (linePage e.line).toNat)
      let k := posChan (stripeRow s) (linePos e.line)
      let t := takeMops (.rmw id) d
      let x := backRead c s k t.1 raw peers t.2
      match x.1 with
      | .peers => queuePeerReads c (.rmw id) s k (curEntry d (linePage e.line).toNat) x.2
      | _ => moveOn c (launchEntry c id (sealEntry c id (fillEntry c e x.1.image x.2)))

/-- READ_MODIFY_WRITE_RETURN (R88): the slot's codeword arrives, or the 16 others that were read in its place. -/
def execReadModifyWriteReturn (entry : Nat) (raw : Burst) (peers : List Burst) (s : State) :
    Host.Outcome State Fault Refusal :=
  onDp (fun c d => rmwReturned c entry raw peers d) s

/-- A parity-delta entry reaches MRG_CTL.delta_age (R92). -/
def deltaAges (c : Ctl) (s : Stripe) (d : Dp) : Dp :=
  if !serving d then d
  else match d.mrg.deltas.find? fun x => x.stripe = s && !x.closed with
    | some x => closeDelta c 0x17 x d
    | none => d

/-- DELTA_AGE_EXPIRY (R92). -/
def execDeltaAgeExpiry (stripe : Stripe) (s : State) : Host.Outcome State Fault Refusal :=
  onDp (fun c d => deltaAges c stripe d) s

/-- The 16 data members of a stripe as they count for its recomputed parity (R92): a slot being programmed by its image,
a codeword read by its decode. None when a member has no readable copy or fails. -/
def memberImages (d : Dp) (s : Stripe) (members : List Image) : Option (List Image) :=
  (List.range 16).mapM fun j =>
    match memberLoc d s (posChan (stripeRow s) j) with
    | none => none
    | some loc => match slotImage d loc with
      | some i => some i
      | none =>
        let x := backDecode d s (posChan (stripeRow s) j) (members.getD j 0)
        if x.cls.good then some x.image else none

/-- Report the data members read for a recomputed parity whose labels are not their own (R164). -/
def noteMembers (d0 : Dp) (s : Stripe) (members : List Image) (d : Dp) : Dp :=
  (List.range 16).foldl (fun d j =>
    if (memberLoc d0 s (posChan (stripeRow s) j)).any fun loc => (slotImage d0 loc).isNone then
      noteMisplaced s j 6 (backDecode d0 s (posChan (stripeRow s) j) (members.getD j 0)) d
    else d) d

/-- Queue the parity programme of a delta (R92); a parity member lost meanwhile ends it (R92, third case). -/
def queueParity (id : Nat) (s : Stripe) (i : Image) (d : Dp) : Dp :=
  match memberLoc d s (parityChan (stripeRow s)) with
  | some loc => addProg (.parity id) loc i d
  | none => releaseEntries (parityCovered id (dropDelta id d))

/-- What arrived of member ch for the close of a delta: the old parity, or the data members by position. -/
def parityBurst (s : Stripe) (raw : Burst) (members : List Burst) (ch : Nat) : Burst :=
  if ch = parityChan (stripeRow s) then raw else members.getD (chanPos (stripeRow s) ch) {}

/-- Whether a row's parity is not settled: a delta, a programme or a rewrite of it is outstanding. -/
def rowMoving (d : Dp) (s : Stripe) : Bool :=
  (d.mrg.deltas.any fun x => x.stripe = s) || (d.mrg.progs.any fun p => progStripe p = s) ||
  (d.mh.rewrites.any fun r => r.inPlace && r.src = s)

/-- The members of a reserve stripe: each stripe in use with a member rebuilt there, and that member's channel. -/
def rebuiltAt (d : Dp) (s : Stripe) : List (Stripe × Nat) :=
  (stripesInUse d).flatMap fun x => (List.range 17).filterMap fun k => match memberLoc d x k with
    | some l => if l.1 = stripeSet s && l.2.1 = stripeRow s && x ≠ s then some (x, k) else none
    | none => none

/-- The members that a reserve stripe holds have arrived (R172 step 3): those that decode are written again in place, under an
intent record; one that does not is left to the rewrite of its own page. -/
def reserveReturned (s : Stripe) (raw : Burst) (members : List Burst) (d : Dp) : Dp :=
  let t := takeMops (.check s) d
  (t.1.filter fun m => !m.absent).foldl (fun d m =>
    match (rebuiltAt d s).find? fun x => memberLoc d x.1 x.2 = some (m.set, m.row, m.chan) with
    | none => d
    | some x =>
      let y := backDecode d x.1 x.2 (parityBurst s raw members m.chan).image
      if y.cls.good then addProg (.rebuild (stripeSet x.1) (stripeRow x.1) x.2) (m.set, m.row, m.chan) y.image d
      else harrowRewrite 2 x.1 (raiseFailed y.cls x.1 (chanPos (stripeRow x.1) x.2) 6 d)) t.2

/-- The parity check of a stripe (R118): its 17 codewords have arrived. Where one does not decode, the page is rewritten;
where their exclusive OR is not zero, the parity is programmed anew from the data members, under an intent record (DEDUCED
from step 4 of R117, log entry 132). The check goes on behind the stripe, or repeats it where its row moved meanwhile or the
delta buffer has no room (R92). -/
def checkReturned (c : Ctl) (s : Stripe) (raw : Burst) (members : List Burst) (d : Dp) : Dp :=
  if allIssued d (.check s) = false then d
  else if rowRole (stripeRow s) = .reserve then reserveReturned s raw members d
  else
    let t := takeMops (.check s) d
    let absent := t.1.any (·.absent)
    let d1 := arrivals c s (parityBurst s raw members) t.1 { t.2 with mh := { t.2.mh with checkNext := s.toNat + 1 } }
    let chan := fun (j : Nat) => if j < 16 then posChan (stripeRow s) j else parityChan (stripeRow s)
    let dec := fun (j : Nat) => backDecode d s (chan j) (if j < 16 then (members.getD j {}).image else raw.image)
    let bad := (List.range 17).filter fun j => !(dec j).cls.good
    if bad ≠ [] || absent then
      harrowRewrite 2 s (bad.foldl (fun d j => raiseFailed (dec j).cls s j 6 d) d1)
    else
      let data := xorImages ((List.range 16).map fun j => (dec j).image)
      if rowMoving d1 s then { d1 with mh := { d1.mh with checkNext := s.toNat } }
      else if data = (dec 16).image then d1
      else if 6144 ≤ d1.mrg.deltas.length then { d1 with mh := { d1.mh with checkNext := s.toNat } }
      else
        let id := d1.mrg.nextId
        queueParity id s data (pmuCount c 19 0x15 1 { d1 with mrg := { d1.mrg with
          nextId := id + 1, deltas := d1.mrg.deltas ++ [⟨id, s, 0, 0, d1.now, true, true, true, freeDelta d1⟩] } })

/-- What a delta's close was waiting for has arrived (R92): the old parity with the delta, or the parity recomputed from
the data members. A row whose parity cannot be had goes on without it: its parity member is marked failed. -/
def parityReturned (c : Ctl) (s : Stripe) (raw : Burst) (members : List Burst) (d : Dp) : Dp :=
  match d.mrg.deltas.find? fun x => x.stripe = s && x.closed && x.reading with
  | none => checkReturned c s raw members d
  | some x =>
    if allIssued d (.oldParity x.id) = false then d
    else
      let t := takeMops (.oldParity x.id) d
      let absent := t.1.any (·.absent)
      let d1 := arrivals c s (parityBurst s raw members) t.1 t.2
      if x.recompute && !(t.1.any fun m => m.chan = parityChan (stripeRow s)) then
        let imgs := members.map (·.image)
        let d2 := if absent then d1 else noteMembers d s imgs d1
        match if absent then none else memberImages d s imgs with
        | some is => queueParity x.id s (xorImages is) d2
        | none => checkLost c s (releaseEntries (parityCovered x.id (dropDelta x.id
            (markFailed s (parityChan (stripeRow s)) d2))))
      else
        let dec := outerDecode raw.image parityLabel
        if dec.cls.good && !absent && !x.recompute then queueParity x.id s (dec.image ^^^ x.delta) d1
        else
          let x' := { x with recompute := true, reading := false }
          readOldParity c x' (modDelta x.id (fun _ => x') (if absent then d1 else noteMisplaced s 16 6 dec d1))

/-- What the SRAM codes find in the delta of a row (R169): an uncorrectable word discards it; the parity is then recomputed
from the row's 16 data members. -/
def deltaEcc (c : Ctl) (s : Stripe) (ecc : WordEcc) (d : Dp) : Dp :=
  match d.mrg.deltas.find? fun x => x.stripe = s && x.closed with
  | none => d
  | some x =>
    let place := fun (w : Nat) => x.entry * 36 + w % 36
    match ecc with
    | .ok => d
    | .corrected w => wordEcc c 0x58 0x21 221184 (.corrected (place w)) d
    | .uncorrectable w => modDelta x.id (fun y => { y with delta := 0, recompute := true })
        (wordEcc c 0x58 0x21 221184 (.uncorrectable (place w)) d)

/-- OLD_PARITY_READ_RETURN (R92): the old parity codeword, or the 16 data members where the parity is recomputed; both for
a parity check (R118). -/
def execOldParityReadReturn (stripe : Stripe) (raw : Burst) (members : List Burst) (ecc : WordEcc) (s : State) :
    Host.Outcome State Fault Refusal :=
  onDp (fun c d => pokeRewrites c (parityReturned c stripe raw members (deltaEcc c stripe ecc d))) s

/-- The dirty ways, as keys. -/
def dirtyWays (d : Dp) : List Nat := (d.lc.ways.filter fun w => w.2.sd ≠ 0).map (·.1)

/-- The dirty way whose oldest dirty sector is oldest (R97). -/
def oldestDirty (d : Dp) : Option Nat :=
  (dirtyWays d).foldl (fun (a : Option Nat) k => match a with
    | none => some k
    | some j => if elapsed (getWay d j).since d.now < elapsed (getWay d k).since d.now then some k else some j) none

/-- Whether the cleaner or the maintenance engine may copy a line out: it joins an entry, or more entries are free than
W (R192). -/
def mayCopyOut (d : Dp) (l : LineAddr) : Bool := (assembling d l).isSome || wOf d < mergeFree d

/-- Whether the cleaner has a reason to work (R97): the oldest line has reached clean_age, D exceeds clean_pct percent of
the ceiling, or the background clean of a Global Persistent Flush is under way (R119). -/
def cleanDue (c : Ctl) (d : Dp) (key : Nat) : Bool :=
  d.lc.flush || d.lc.gpfClean || rg c 0xC0800 8 8 * 100000 ≤ elapsed (getWay d key).since d.now ||
  rg c 0xC0800 16 8 * ceilBytes c < 64 * dSectors d * 100

/-- Copy out a line and every other dirty line of its page (R97). -/
def cleanPage (c : Ctl) (p : Page) (d : Dp) : Dp :=
  (dirtyWays d).foldl (fun d k =>
    let l := lineOfWay k (getWay d k)
    if linePage l = p ∧ mayCopyOut d l then pmuCount c 18 0x15 1 (copyOut c k true d) else d) d

/-- One step of the cleaner (R97). -/
def cleanStep (c : Ctl) (d : Dp) : Dp :=
  if !serving d then d
  else match oldestDirty d with
    | none => { d with lc := { d.lc with flush := false, gpfClean := false } }
    | some k => if cleanDue c d k then updWithhold c (cleanPage c (linePage (lineOfWay k (getWay d k))) d) else d

/-- CLEANER (R97). -/
def execCleaner (held : List HeldEcc) (s : State) : Host.Outcome State Fault Refusal :=
  onDp (fun c d => cleanStep c (heldEccs c held d)) s

/-- A stream tracker is freed (R85). -/
def streamEnds (t : Nat) (d : Dp) : Dp :=
  { d with lc := { d.lc with trackers := d.lc.trackers.filter fun x => x.id ≠ t } }

/-- STREAM_END (R85). -/
def execStreamEnd (tracker : Nat) (s : State) : Host.Outcome State Fault Refusal :=
  onDp (fun _ d => streamEnds tracker d) s

end Sys2Proof.Machine
end

