-- ==== Sys2Proof/Machine/Health.lean ====
section
/-! DEFINITION. The media-health engines (R120 to R142): background work, the copies of page rewrites, tilling, the
horizon tick, the harrow's outcomes, the rebuild cursors and the age of the recurring-correction table (R174). -/

namespace Sys2Proof.Machine

/-- Remove a piece of queued work. -/
def dropWork (k : WorkKind) (d : Dp) : Dp := { d with mh := { d.mh with work := d.mh.work.filter fun w => w.kind ≠ k } }

/-- Free the entries of the recurring-correction table whose rewrite is pending, at stripes of the media that satisfy a test
(R172). -/
def rctForget (p : Stripe → Bool) (d : Dp) : Dp :=
  let gone := fun (x : Rct) => x.pending && match x.loc with
    | .media s _ => p s
    | _ => false
  { d with cod := { d.cod with rct := d.cod.rct.filter fun x => !gone x } }

/-- Queued work on a page that needs no rewrite any more goes; the re-anchor may end with it (R137), and the entries of the
recurring-correction table that waited for it are freed where their stripes are free or retired (R172). -/
def forgetWork (k : WorkKind) (d : Dp) : Dp :=
  rctForget (fun s => rowRole (stripeRow s) = .general && (stripeOwner d s).isNone) (reanchorEnds (dropWork k d))

/-- Begin the rewrite a piece of work asks for (R121). Work on a page that is no longer mapped is dropped; none while
the rewrite cannot begin. One that is tried again goes on with its failures and its form (R125). -/
def workRewrite (c : Ctl) (w : Work) (p : Page) (ret : Option (BitVec 5)) (inPlace : Bool) (d : Dp) : Option Dp :=
  if entryValid (curEntry d p.toNat) = false ∧ pageLost d p.toNat = false ∧ (findRewrite d p).isNone then
    some (forgetWork w.kind d)
  else startRewrite c p w.kind ret w.fails (inPlace || w.inPlace) (dropWork w.kind d)

/-- The relocation of a page whose programme failed twice (R143): with no spare left the member is marked failed, and what
failed there goes on as degraded-stripe writes (R151). -/
def workRetire (c : Ctl) (w : Work) (p : Page) (chan : BitVec 5) (d : Dp) : Option Dp :=
  if 0 < spare d ∨ w.inPlace then workRewrite c w p (some chan) false d
  else
    let s := entryStripe (curEntry d p.toNat)
    let d1 := dropWork w.kind d
    let d2 := if chan.toNat < 17 then checkLost c s (markFailed s chan.toNat d1) else d1
    let worn := d2.mrg.progs.filter fun x => x.st = .worn && progStripe x = s
    some (untake p (worn.foldl (fun d x => progSettled c x (dropProgs (fun y => y.id = x.id) d)) d2))

/-- A rewrite of a page whose stripe has lost two members is held while no spare remains (R145). -/
def lostHeld (d : Dp) (p : Page) : Bool :=
  2 ≤ (lostMembers d (entryStripe (curEntry d p.toNat))).length && spare d = 0

/-- Rewrite a metadata stripe in place with its contents, or read the members a reserve stripe holds, to write them again
(R172 step 3); one that holds no data by then loses its entries. No rule writes the recorder archive (R44) or gives its format:
the model leaves its stripes unwritten, and to rewrite one does nothing (DESIGN CHOICE, log entry 142). -/
def rewriteMeta (c : Ctl) (s : Stripe) (d : Dp) : Dp :=
  let m := metaIndex (stripeSets (cfgN d)) s
  let free := rctForget (· = s) d
  if rowRole (stripeRow s) = .metadata then
    if journalBase ≤ m then
      match d.jrn.stripes.find? fun x => x.loc = m - journalBase with
      | some x => queueMembers s (metaImages m (journalBytes x.seq x.body)) (fun j => .journal x.seq j) d
      | none => free
    else if m < 16384 then
      queueMembers s (storeImages d m 0 (smGet {} d.pst.slots (65536 + 8 * m))) (fun j => .store (8 * m) j) d
    else free
  else if rebuiltAt d s = [] then free
  else (rebuiltAt d s).foldl (fun d x => match memberLoc d x.1 x.2 with
      | some l => addMop l.2.2 l.1 l.2.1 3 (.check s)
          (memberCode c d (curEntry d ((stripeOwner d x.1).getD 0)) (chanPos (stripeRow x.1) x.2)) d
      | none => d) d

/-- Merge the logged sectors kept at replay, once their key slot can be used (R117). -/
def mergeHeldSectors (c : Ctl) (d : Dp) : Dp := takeHeld c (fun _ => true) d

/-- The stripe that the parity check takes next: the lowest one in use that it has not passed. -/
def nextCheck (d : Dp) : Option Stripe :=
  (stripesInUse d).foldl (fun (a : Option Stripe) s =>
    if d.mh.checkNext ≤ s.toNat then match a with
      | none => some s
      | some t => if s < t then some s else some t
    else a) none

/-- The parity check after a dirty shutdown goes on (R118): the 17 codewords of the next stripe are read. One with an
unavailable member is passed. It ends behind the last stripe. -/
def checkStep (c : Ctl) (d : Dp) : Option Dp :=
  if d.mops.any fun m => match m.kind with
    | .check _ => true
    | _ => false then none
  else match nextCheck d with
    | none => some (dropWork .parityCheck { d with mh := { d.mh with parityCheck := false, checkNext := 0 } })
    | some s =>
      if rowMoving d s then none
      else if lostMembers d s ≠ [] then some { d with mh := { d.mh with checkNext := s.toNat + 1 } }
      else
        let e := curEntry d ((stripeOwner d s).getD 0)
        some ((List.range 17).foldl (fun d k => match memberLoc d s k with
          | some l => addMop l.2.2 l.1 l.2.1 3 (.check s) (memberCode c d e (chanPos (stripeRow s) k)) d
          | none => d) { d with mh := { d.mh with checkNext := s.toNat } })

/-- The entries of a stripe-state word are rebuilt from the media records (R144, R168). -/
def stateRebuilt (w : Nat) (d : Dp) : Dp :=
  let mine := d.jrn.media.filter fun r => r.1.toNat / 32 = w
  let m0 := (List.range 32).foldl (fun m i => smErase m (w * 32 + i)) d.map.state
  let d0 := { d with map := { d.map with
    state := m0, failed := d.map.failed.filter (fun x => x.1 / 32 ≠ w), unsureState := d.map.unsureState.filter (· ≠ w) } }
  mine.foldl (fun d r => putState r.1 r.2.1 r.2.2 d) d0

/-- Begin one piece of background work; none where it cannot begin now. -/
def startWork (c : Ctl) (w : Work) (d : Dp) : Option Dp :=
  let k := w.kind
  let page := fun (p : Page) => workRewrite c w p none (formInPlace d k p) d
  match k with
  | .rebuild =>
    if d.mh.rebActive = false then some (dropWork k d) else if rebuildOpen d then some (rebuildStep c d) else none
  | .relocate p => if lostHeld d p then none else page p
  | .retire p chan => workRetire c w p chan d
  | .epoch p => page p
  | .disturb p g =>
    if p.toNat ∈ segPages d g || (findRewrite d p).isSome || pageLost d p.toNat then page p else some (disturbEnds g (dropWork k d))
  | .refresh p => page p
  | .reanchor p => page p
  | .till p _ =>
    if d.sup.mode = .fallow || spare d = 0 || d.mh.rebActive then none else workRewrite c w p none false d
  | .poisonLost p => workRewrite c w p none (spare d = 0) d
  | .firstMap p =>
    let slot := ((pageEntries d p).head?.map (·.slot)).getD 0
    match findRewrite d p with
    | some r =>
      if !r.parked then some (dropWork k d)
      else if freeGeneral d = 0 then none
      else some (startFirst p slot r.fails r.images
        (dropWork k { d with mh := { d.mh with rewrites := d.mh.rewrites.filter fun x => x.page ≠ p } }))
    | none =>
      if entryValid (curEntry d p.toNat) then some (dropWork k d)
      else if freeGeneral d = 0 || pageLost d p.toNat || firstWaits d p then none
      else some (startFirst p slot 0 [] (dropWork k d))
  | .mergeHeld => if d.sec.mediaKey.isNone then none else some (mergeHeldSectors c (dropWork k d))
  | .parityCheck => checkStep c d
  | .metadata s =>
    if d.mops.any fun m => m.kind = .check s then none else some (rewriteMeta c s (dropWork k d))
  | .bitmapWord w => some (postWord 2 .bitmap w (dropWork k { d with map := { d.map with unsure := d.map.unsure.filter (· ≠ w) } }))
  | .stateWord w => some (postWord 2 .state w (dropWork k (stateRebuilt w d)))

/-- Take the first piece of work of a priority that can begin, in order of arrival. -/
def takeWork (c : Ctl) (prio : Nat) (d : Dp) : Option Dp :=
  (d.mh.work.filter fun w => w.prio = prio).findSome? fun w => startWork c w d

/-- In W3 and W4 a page whose read needed a group correction is rewritten to its other slot as background work (R295). -/
def rewriteMended (d : Dp) : Dp :=
  if cfgN d < 3 then d
  else match d.pst.again with
    | [] => d
    | p :: _ => storePage p d

/-- The media-health engines take the highest-priority work (R120). -/
def backgroundStep (c : Ctl) (d : Dp) : Dp :=
  if !serving d then d
  else (((List.range 7).findSome? fun p => takeWork c p d)).getD (rewriteMended d)

/-- BACKGROUND_WORK (R120). -/
def execBackgroundWork (hbm : List (BitVec 288)) (s : State) : Host.Outcome State Fault Refusal :=
  onDp (withHbm hbm backgroundStep) s

/-- A source codeword of a rewrite returns (R122): decoded, or rebuilt from its peers, it is programmed unchanged, and a
relocating rewrite installs it as a clean line (R179, R183); a position that can be neither read nor rebuilt is lost and goes on poisoned (R145). -/
def copyReturned (c : Ctl) (p : Page) (raw : Burst) (peers : List Burst) (d : Dp) : Dp :=
  match findRewrite d p with
  | none => d
  | some r =>
    if allIssued d (.copy p) = false then d
    else match nextCopy r with
      | none => dropMops (fun m => m.kind = .copy p) d
      | some j =>
        let k := posChan (stripeRow r.src) j
        let t := takeMops (.copy p) d
        let x := backRead c r.src k t.1 raw peers t.2
        match x.1 with
        | .got i =>
          advanceRewrite c advFuel p (programmeCopy p j i (if r.inPlace then x.2 else installCodeword c 2 (pageLine p j) i x.2))
        | .peers => queuePeerReads c (.copy p) r.src k (curEntry d p.toNat) x.2
        | .lost =>
          let slot := (slotOfDpa d (p.toNat * 4096)).getD 0
          advanceRewrite c advFuel p (programmeCopy p j (poisonImage d slot p j) (nameLost (pageLine p j) x.2))

/-- REWRITE_COPY_RETURN (R122): the position's codeword, or the 16 others that were read in its place. -/
def execRewriteCopyReturn (page : Page) (raw : Burst) (peers : List Burst) (s : State) :
    Host.Outcome State Fault Refusal :=
  onDp (fun c d => copyReturned c page raw peers d) s

/-- Whether a mapped page is hot: its heat and its stripe's wear ask for a hot move (R129). -/
def pageHot (c : Ctl) (d : Dp) (p : Nat) : Bool :=
  rg c 0xE0200 16 8 ≤ smGet 0 d.mh.heat p &&
  meanWear d + rg c 0xE0200 0 16 ≤ smGet 0 d.mh.wear (entryStripe (curEntry d p)).toNat

/-- Whether a mapped page is cold (R130). -/
def pageCold (c : Ctl) (d : Dp) (p : Nat) : Bool :=
  smGet 0 d.mh.heat p = 0 &&
  smGet 0 d.mh.wear (entryStripe (curEntry d p)).toNat + rg c 0xE0200 0 16 < meanWear d

/-- Choose a page for a tilling move (R129 to R131): queued at priority 5 within the move rate. -/
def tillPage (c : Ctl) (p : Page) (d : Dp) : Dp :=
  let recent := d.mh.moveAt.filter fun t => elapsed t d.now < 1000000000
  let hot := pageHot c d p.toNat
  if rb c 0xE0200 31 = false ∨ d.sup.mode ≠ .serve ∨ spare d = 0 ∨ d.mh.rebActive ∨
      entryValid (curEntry d p.toNat) = false ∨ rg c 0xE0200 24 7 * 1000 ≤ recent.length ∨
      (hot = false ∧ pageCold c d p.toNat = false) then d
  else addWork 5 (.till p hot) { d with mh := { d.mh with moveAt := recent ++ [d.now] } }

/-- TILLING_MOVE (R129). -/
def execTillingMove (page : Page) (s : State) : Host.Outcome State Fault Refusal :=
  onDp (fun c d => tillPage c page d) s

/-- Halve every heat counter (R128). -/
def halveHeat (d : Dp) : Dp :=
  { d with mh := { d.mh with heat := (d.mh.heat.map fun e => (e.1, e.2 / 2)).filter fun e => e.2 ≠ 0 } }

/-- A tick during a relocating rewrite sets the dirty bit of every position already programmed into the destination, so
that all positions carry the new horizon (R124). -/
def tickRewrite (now : BitVec 8) (r : Rewrite) : Rewrite :=
  if r.inPlace || r.first || r.verified = 0 then r
  else { r with dirty := r.dirty ||| r.copied, horizon := now, parityOut := false }

/-- Age of a mapped page's base horizon in ticks. -/
def baseAge (d : Dp) (e : BitVec 64) : Nat := ageOf d.mh.now (entryBase e)

/-- Queue the horizon refreshes that are due, and report, once each, the pages that have reached 168 hours (R135): those move
to the head of priority 4. -/
def queueRefresh (c : Ctl) (d : Dp) : Dp :=
  let due := (mappedPages d).filter fun e => hoursToTicks c (rg c 0xE0300 8 8) ≤ baseAge d e.2
  let late := (mappedPages d).filter fun e => 168 ≤ ticksToHours c (baseAge d e.2)
  let d1 := due.foldl (fun d e =>
    if (findRewrite d (BitVec.ofNat 31 e.1)).isSome then d else addWork 4 (.refresh (BitVec.ofNat 31 e.1)) d) d
  let isLate := fun (w : Work) => match w.kind with
    | .refresh p => late.any fun e => e.1 = p.toNat
    | _ => false
  let d2 := { d1 with mh := { d1.mh with
    deadline := late ≠ [], latePages := late.map (·.1)
    work := d1.mh.work.filter isLate ++ d1.mh.work.filter fun w => !isLate w } }
  (late.filter fun e => !(e.1 ∈ d.mh.latePages)).foldl (fun d _ => raise 0x5B 0x31 0 0 0x06 noAccess d) d2

/-- The horizon ticks (R132). -/
def tickHorizon (c : Ctl) (d : Dp) : Dp :=
  if d.sup.mode = .off then d
  else
    let d1 := halveHeat { d with mh := { d.mh with now := d.mh.now + 1 } }
    let d2 := { d1 with mh := { d1.mh with rewrites := d1.mh.rewrites.map (tickRewrite d1.mh.now) } }
    queueRefresh c d2

/-- Whether an inner status of a codeword is low margin (R165). -/
def lowMargin (inner : BitVec 12) : Bool :=
  (List.range 4).any fun j => let x := (inner.extractLsb' (3 * j) 3).toNat; x = 3 || x = 4

/-- The reconstruction that follows a harrow read which does not decode (R141): its peers are read. -/
def harrowRebuild (c : Ctl) (s : Stripe) (k : Nat) (d : Dp) : Dp :=
  if !reconstructable d s k then harrowLost s (chanPos (stripeRow s) k) d
  else
    let tag := d.acc.nextTag
    let e := curEntry d ((stripeOwner d s).getD 0)
    queuePeers c tag s e k false { d with acc := { d.acc with
      nextTag := tag + 1
      reads := d.acc.reads ++ [{ lookupRecord tag 0 d.now with kind := .patrol s k, entry := e, route := .lost }] } }

/-- A harrow read returns (R141). The read of a stripe that has changed hands meanwhile says nothing of it. -/
def harrowReturned (c : Ctl) (k : Nat) (raw : Burst) (d : Dp) : Dp :=
  match d.mops.find? fun m => m.chan = k && m.kind.isHarrow && m.issued.isSome with
  | none => d
  | some m =>
    let d0 := dropMops (· = m) d
    let d1 := if m.absent then d0 else cwIn c m raw d0
    match m.kind with
    | .harrow s k' owner =>
      if stripeOwner d s ≠ owner then d1
      else
        let dec := if m.absent then ⟨.failed, 0⟩ else backDecode d s k' raw.image
        if dec.cls.good then
          if rg c 0xE0500 16 8 ≤ dec.cls.bits ∨ lowMargin raw.inner then
            harrowRewrite 3 s (corrPersistent
              (if dec.cls.bits = 0 then d1 else raise 0x5A 0x01 s.toNat dec.cls.bits 0x03 0 d1))
          else d1
        else harrowRebuild c s k' (raiseFailed dec.cls s (chanPos (stripeRow s) k') 3 d1)
    | _ => d1

/-- Queue the codeword read of a line (R183, R267); an unavailable member is read through its peers. -/
def queueLine (c : Ctl) (l : LineAddr) (kind : MopKind) (req : Nat) (d : Dp) : Dp :=
  let e := curEntry d (linePage l).toNat
  let s := entryStripe e
  let k := posChan (stripeRow s) (linePos l)
  match memberLoc d s k with
  | some x => addMop x.2.2 x.1 x.2.1 req kind (memberCode c d e (linePos l)) d
  | none => queuePeerReads c kind s k e d

/-- The codeword of a line from a firmware or scan read; with its peers still to be read, they are queued. -/
def lineRead (c : Ctl) (l : LineAddr) (kind : MopKind) (ms : List Mop) (raw : Burst) (peers : List Burst) (d : Dp) : Back × Dp :=
  let e := curEntry d (linePage l).toNat
  let s := entryStripe e
  let k := posChan (stripeRow s) (linePos l)
  let x := backRead c s k ms raw peers d
  if x.1 = .peers then (.peers, queuePeerReads c kind s k e x.2) else x

/-- Whether a media operation belongs to Scan Media. -/
def isScan (m : Mop) : Bool := match m.kind with
  | .scan _ => true
  | _ => false

/-- The first line from l on that lies in a mapped page. -/
def nextMapped (d : Dp) (l : LineAddr) : Option LineAddr :=
  if entryValid (curEntry d (linePage l).toNat) then some l
  else
    match ((mappedPages d).map (·.1)).foldl (fun (a : Option Nat) p =>
        if p ≤ (linePage l).toNat then a else match a with
          | none => some p
          | some q => some (min p q)) none with
    | some p => some (pageLine (BitVec.ofNat 31 p) 0)
    | none => none

/-- Scan Media goes on to its next line (R267): unmapped pages hold no codeword. -/
def scanNext (c : Ctl) (d : Dp) : Dp :=
  match d.que.bg with
  | none => d
  | some b =>
    if b.opcode ≠ 0x4304 || !serving d || d.mops.any isScan then d
    else match nextMapped d b.next with
      | none => endBackground d
      | some l =>
        if b.endLine.toNat ≤ l.toNat then endBackground d
        else queueLine c l (.scan l) 5 { d with que := { d.que with bg := some { b with next := l } } }

/-- Lines found uncorrectable join the results and the poison list (R267). -/
def scanFound (l : LineAddr) (d : Dp) : Dp :=
  (List.range 4).foldl (fun d k =>
    let a := lineSec l k
    poisonAdd a false { d with logs := { d.logs with scan := if a ∈ d.logs.scan then d.logs.scan else d.logs.scan ++ [a] } }) d

/-- The codeword of a line being scanned arrives (R267): decoded, its lines named where it is lost, and the scan goes on. -/
def scanReturned (c : Ctl) (l : LineAddr) (raw : Burst) (peers : List Burst) (d : Dp) : Dp :=
  let mine := d.mops.filter isScan
  if mine.any fun m => m.issued.isNone then d
  else
    let s := entryStripe (curEntry d (linePage l).toNat)
    let x := lineRead c l (.scan l) mine raw peers (dropMops isScan d)
    let d1 := x.2
    let here := mine.all fun m => (List.range 17).any fun k' => memberLoc d s k' = some (m.set, m.row, m.chan)
    if !here || entryValid (curEntry d (linePage l).toNat) = false then scanNext c (dropMops isScan d1)
    else if x.1 = .peers then d1
    else
      let d2 := if x.1.image.isSome then d1 else scanFound l d1
      match d2.que.bg with
      | none => d2
      | some b =>
        let total := max 1 (b.endLine.toNat - b.start.toNat)
        scanNext c { d2 with que := { d2.que with
          bg := some { b with next := l + 1, percent := (l.toNat + 1 - b.start.toNat) * 100 / total } } }

/-- A codeword read at the harrow's priority arrives: the harrow's own, or Scan Media's. -/
def patrolReturned (c : Ctl) (k : Nat) (raw : Burst) (peers : List Burst) (d : Dp) : Dp :=
  match d.mops.find? fun m => m.chan = k && isScan m && m.issued.isSome with
  | some m => match m.kind with
    | .scan l => scanReturned c l raw peers d
    | _ => d
  | none => lapCheck c (harrowReturned c k raw d)

/-- HARROW_READ_RETURN (R141): the codeword read, and the peers read where it fails. -/
def execHarrowReadReturn (chan : Nat) (raw : Burst) (peers : List Burst) (s : State) :
    Host.Outcome State Fault Refusal :=
  onDp (fun c d => patrolReturned c chan raw peers d) s

/-- A harrow lap passes HRW_CTL.limit_h hours (R142): reported once in each lap. -/
def lapOverLimit (c : Ctl) (d : Dp) : Dp :=
  if serving d = false ∨ d.mh.lapSaid then lapCheck c d
  else raise 0x5B 0x33 0 0 0x03 noAccess (lapCheck c { d with mh := { d.mh with overLimit := true, lapSaid := true } })

/-- HARROW_OVER_LIMIT (R142). -/
def execHarrowOverLimit (s : State) : Host.Outcome State Fault Refusal := onDp lapOverLimit s

/-- REBUILD_CURSOR_WRITE (R148): the rebuild cursors are written to the device records. -/
def execRebuildCursorWrite (s : State) : Host.Outcome State Fault Refusal :=
  onDp (fun _ d => modDev 35 (fun r => { r with cursors := d.mh.cursors }) d) s

/-- Entries of the recurring-correction table older than COD_RCT_CTL.age_h hours are freed (R174). -/
def rctAges (c : Ctl) (d : Dp) : Dp :=
  { d with cod := { d.cod with
      rct := d.cod.rct.filter fun e => elapsed e.last d.now ≤ rg c 0xE0700 8 8 * 3600000000000 } }

/-- RCT_AGE_EXPIRY (R174). -/
def execRctAgeExpiry (s : State) : Host.Outcome State Fault Refusal := onDp rctAges s

end Sys2Proof.Machine
end

