-- ==== Sys2Proof/Machine/SampleOps.lean ====
section
/-! DEFINITION. Core samples (R335 to R338) and the host view of the sticky and severe bits (R330). -/

namespace Sys2Proof.Machine

/-- The sticky bits of word i in their host view (R330). -/
def hostSticky (full hv : SMap Word) (i : Nat) : Word :=
  let f := smGet 0 full i
  let h := smGet 0 hv i
  let m : Word := if i = 0 then 0x1FFFF else if i = 2 then 0x4000000 else 0
  (f &&& ~~~m) ||| (h &&& m)

/-- A live histogram (R331). -/
def histLive (d : Dp) (h : Nat) : Hist := smGet {} d.rec_.live h

/-- A bucket of a live histogram. -/
def histBkt (d : Dp) (h b : Nat) : Nat := smGet 0 (histLive d h).b b

/-- The least raw value as 32 bits; all ones while the total is 0 (R340). -/
def histMin (d : Dp) (h : Nat) : Word := match (histLive d h).mn with
  | some v => BitVec.ofInt 32 v
  | none => 0xFFFFFFFF

/-- The greatest raw value as 32 bits (R340). -/
def histMax (d : Dp) (h : Nat) : Word := match (histLive d h).mx with
  | some v => BitVec.ofInt 32 v
  | none => 0

/-- The rebuild cursor of a stripe set as a core sample carries it (R336). -/
def sampleCursor (d : Dp) (set : Nat) : Nat :=
  if stripeSets (cfgN d) ≤ set then 0
  else
    let k := (rebuildChan d set).getD d.mh.rebChan
    cursorOf d set k % 2 ^ 24 + b2n ((rebuildChan d set).isSome && cursorOf d set k < 2 ^ 24) * 2 ^ 31

/-- The isolation record's bytes 1,536 to 1,547 (R336). -/
def isoBytes (chan : BitVec 17) (pkg : List (BitVec 4)) : List (BitVec 8) :=
  bytesLe 3 chan.toNat ++ bytesLe 9 (pkg.zipIdx.foldl (fun a x => a + x.1.toNat * 16 ^ x.2) 0)

/-- Bytes 0 to 2,039 of a core sample (R336). -/
def sampleBody (seq cause drainCause faulty pendingLog : Nat) (d : Dp) : List (BitVec 8) :=
  bytesLe 4 0x4D415343 ++ bytesLe 2 1 ++ bytesLe 2 2048 ++ bytesLe 8 seq ++ bytesLe 8 d.rec_.foldAt.toNat ++
  bytesLe 8 (cxlTime d).toNat ++ bytesLe 1 cause ++ bytesLe 1 d.sup.mode.code ++ bytesLe 1 d.mh.now.toNat ++
  bytesLe 1 drainCause ++ bytesLe 4 faulty ++ bytesLe 4 d.ceil.breach ++ bytesLe 4 d.ceil.faultReads ++
  bytesLe 2 d.ceil.maxNs ++ bytesLe 2 d.ceil.lastNs ++ bytesLe 4 d.flt.received ++ bytesLe 8 d.ceil.lastTs.toNat ++
  (List.range 32).flatMap (fun b => bytesLe 8 (histBkt d 0 b)) ++
  (List.range 32).flatMap (fun b => bytesLe 8 (histBkt d 1 b)) ++
  (List.range 17).flatMap (fun k => bytesLe 2 (sat 0xFFFF (histMax d (2 + k)).toNat) ++
    [13, 14, 15].flatMap fun b => bytesLe 2 (sat 0xFFFF (histBkt d (2 + k) b))) ++
  (List.range 10).flatMap (fun z => bytesLe 2 (histMin d (19 + z)).toNat ++ bytesLe 2 (histMax d (19 + z)).toNat) ++
  [29, 30, 31].flatMap (fun h => (List.range 16).flatMap fun b => bytesLe 4 (sat 0xFFFFFFFF (histBkt d h b))) ++
  (List.range 8).flatMap (fun i => bytesLe 4 (hostSticky d.flt.sticky d.flt.stickyHv i).toNat) ++
  (List.range 8).flatMap (fun i => bytesLe 4 (hostSticky d.flt.severe d.flt.severeHv i).toNat) ++
  (List.range 128).flatMap (fun s => bytesLe 4 (sampleCursor d s)) ++
  bytesLe 16 pendingLog ++ isoBytes d.pst.dev.isoChan d.pst.dev.isoPkg ++ List.replicate 492 0

/-- The 2,048 bytes of a core sample (R336). -/
def sampleBytes (body : List (BitVec 8)) : List (BitVec 8) :=
  padTo 2040 body ++ bytesLe 4 (crc32 (padTo 2040 body)).toNat ++ bytesLe 3 0 ++ [0x5A]

/-- The first page of a core sample's place in the ring (R335). -/
def samplePage0 (seq : Nat) : Nat := 576 + 8 * (seq % 16)

/-- Page j of a core sample. -/
def samplePage (s : CoreSample) (j : Nat) : BitVec 2048 := packBytes 2048 ((s.words.drop (32 * j)).take 32 |>.flatMap wordBytes)

/-- Whether a core sample is valid (R337): all its eight pages are stored as it was written. -/
def sampleOk (d : Dp) (s : CoreSample) : Bool :=
  (List.range 8).all fun j => storedPage d (samplePage0 s.seq + j) = some (samplePage s j)

/-- The valid core samples (R337). -/
def validSamples (d : Dp) : List CoreSample :=
  ((List.range 16).filterMap fun q => smGet none d.rec_.ring q).filter (sampleOk d)

/-- The valid core sample with the highest sequence number (R337). -/
def newestSample (d : Dp) : Option CoreSample :=
  (validSamples d).foldl (fun (a : Option CoreSample) s => match a with
    | none => some s
    | some x => if x.seq < s.seq then some s else some x) none

/-- Whether a core sample is being written (R338). -/
def sampleBusy (d : Dp) : Bool := writing d fun p => 576 ≤ p && p < 704

/-- Form the next core sample and put it in the ring (R335): it and its eight pages. -/
def takeSample (cause drainCause faulty : Nat) (d : Dp) : CoreSample × Dp :=
  let pendingLog := if cause = 1 then d.flt.pendingAtDrain.getD 0 else 0
  let seq := d.rec_.nextSeq
  let x : CoreSample :=
    { seq := seq, words := wordsOf 256 (sampleBytes (sampleBody seq cause drainCause faulty pendingLog d)),
      horizon := d.mh.now, isoChan := d.pst.dev.isoChan, isoPkg := d.pst.dev.isoPkg, cursors := d.mh.cursors,
      logPending := pendingLog, drain := if cause = 1 then some (d.sup.drainSeq.getD d.jrn.seq) else none }
  (x, { d with rec_ := { d.rec_ with nextSeq := seq + 1, ring := smSet none d.rec_.ring (seq % 16) (some x) } })

/-- The pages of a core sample, in ascending order. -/
def samplePages (x : CoreSample) : List (Nat × BitVec 2048) :=
  (List.range 8).map fun j => (samplePage0 x.seq + j, samplePage x j)

/-- Write a core sample as one multi-page write (R335, R296); `who` is told at its end with the sample's number. -/
def writeSample (c : Ctl) (cause drainCause faulty who : Nat) (d : Dp) : Dp :=
  let r := takeSample cause drainCause faulty d
  writePages c (samplePages r.1) who [BitVec.ofNat 64 r.1.seq] (pmuCount c 23 0x14 1 r.2)

end Sys2Proof.Machine
end

