-- ==== Sys2Proof/Machine/LinkOps.lean ====
section
/-! DEFINITION. The link going down and coming up, and what FLR and the other resets do to the host interface (R251,
R261, R262). -/

namespace Sys2Proof.Machine

/-- The link goes down (R262): the credits are void, the IDE keys and their streams are gone, the answers of the requests
accepted so far are discarded, and a request that DORMANT has held, being accepted only after its exit (R253), is lost. -/
def linkDown (c : Ctl) (d0 : Dp) : Dp :=
  let d := { d0 with acc := { d0.acc with pend := d0.acc.pend.map (fun (p : Pend) => { p with void := true }), held := [] } }
  flushAnswers c { d with hif := { d.hif with
    rate := 0, width := 0, flit := 0, ltssm := 0, hr := 0, hw := 0, unreturned := 0, returned := 0, drs := 0, ndr := 0,
    resps := [], ideKeys := [], ideActive := 0, ideSecure := false, pcieSecure := false, ideFailed := false,
    l1 := false, sub := 0, clkReq := true, gpf := none } }

/-- A queue after a reset (R289): every pointer, the open packet and the records of bad packets are cleared. The words stay in
the SRAM, which the rule does not name (log entry 30). -/
def Queue.cleared (q : Queue) : Queue := { sram := q.sram }

/-- A queue reset (QUE_k_CTL.reset, R289), which restarts the ring at tail 0 and phase 1. -/
def resetQueue (k : Nat) (d : Dp) : Dp := modQ k Queue.cleared d

/-- Enabling a queue restarts its completion ring at tail 0 and phase 1; its contents are kept (R281, R289, log entry 30). -/
def restartRing (k : Nat) (d : Dp) : Dp := modQ k (fun q => { q with tail := 0, phase := true }) d

/-- Whether an offset lies in the CMQ window. -/
def inCmq (off : Nat) : Bool := 0x400000 ≤ off && off < 0x440000

/-- The control fields after FLR: the queues are disabled and their ring registers reset (R262, log entry 31). -/
def flrCtl (c : Ctl) : Ctl := { c with cr := c.cr.filter fun e => !inCmq e.1 }

/-- What FLR does to the function (R262, R246, R423): the mailbox command is aborted, queues and completion rings are
reset, MSI-X is masked and cleared, held posted writes are discarded, and the PMU BAR is closed to user space. -/
def flrDp (d0 : Dp) : Dp :=
  let d := match d0.que.cur with
    | some x => if x.queue.isNone then orphan d0 else d0
    | none => d0
  { d with
    hif := { d.hif with vecMask := BitVec.allOnes 96, vecPend := 0, msixTable := [], heldWrites := [], busMaster := false }
    que := { d.que with
      q := (d.que.q.map fun x => (x.1, x.2.cleared)).filter fun x => x.2 ≠ {}
      cur := match d.que.cur with
        | some x => if x.queue.isNone then none else some x
        | none => none
      delayed := none, mboxBusy := false, mboxIrq := false, bgIrq := false }
    pmu := { d.pmu with userEn := false } }

/-- FLR's effects on control fields and datapath. -/
def flrBoth (c : Ctl) (d : Dp) : Ctl × Dp := (flrCtl c, flrDp d)

/-- Every decoder as a conventional reset leaves it (R261). -/
def clearDecoders (d : Dp) : Dp :=
  { d with hif := { d.hif with decoders := List.replicate 4 {}, memActive := false } }

/-- Initial credits of the S2M channels (log entry 12). -/
def s2mInitial : Nat := 64

/-- The RwD credits that R98 leaves room for: the dirty ceiling, the free merge-buffer entries and the pool. -/
def rwdRoom (c : Ctl) (d : Dp) : Nat :=
  min (256 - outWrites d) (min (ceilBytes c / 64 - dSectors d - outWrites d) (mergeFree d - outWrites d))

/-- Advertise the whole pool afresh (R251): what is not outstanding, RwD as far as R98 allows. -/
def advertise (c : Ctl) (d : Dp) : Dp :=
  if noCredits d || d.hif.ideFailed then { d with hif := { d.hif with hr := 0, hw := 0, unreturned := 512 - outReads d - outWrites d } }
  else
    let hw := rwdRoom c d
    let hr := 512 - outReads d - outWrites d - hw
    emit (.credit hr hw)
      { d with hif := { d.hif with hr := hr, hw := hw, unreturned := 0, withheld := hw < 256 - outWrites d } }

end Sys2Proof.Machine
end

