-- ==== Sys2Proof/Machine/ModeOps.lean ====
section
/-! DEFINITION. Mode changes as shared operations (R341 to R360): drains, FALLOW, the power-down sequence, what power-off
leaves of the state, and the start of a warm RISE. -/

namespace Sys2Proof.Machine

/-- Change the mode, recording the cause (R341); vector 72 tells the host while the link is up. -/
def setMode (m : Mode) (cause : BitVec 8) (d : Dp) : Dp :=
  let d1 := { d with sup := { d.sup with mode := m, cause := cause } }
  if d.sup.mode ≠ .off ∧ m ≠ .off ∧ m ≠ d.sup.mode ∧ linkUp d then msix 72 d1 else d1

/-- Halted processors resume (R32, R401, R404). -/
def resumeHalted (d : Dp) : Dp := { d with que := { d.que with mps := d.que.mps.map fun m => if m = 2 then 0 else m } }

/-- Close the debug session (R401). -/
def closeDebug (d : Dp) : Dp := if d.sec.open_ then resumeHalted { d with sec := { d.sec with open_ := false } } else d

/-- DRN_LAST.cause of a cause code (R116). -/
def drainCauseOf (cause : BitVec 8) : BitVec 3 :=
  match cause.toNat with
  | 0x02 => 0
  | 0x04 => 1
  | 0x06 => 1
  | 0x08 => 2
  | 0x14 => 4
  | _ => 3

/-- Whether a media operation is done for the block itself and not for an accepted request; a TRN under way takes effect
with its end (R235). -/
def internalMop (d : Dp) (m : Mop) : Bool :=
  match m.kind with
  | .sector _ _ => false
  | .codeword _ => false
  | .peer tag _ => !(d.acc.reads.any fun r => r.tag = tag)
  | .reset _ => false
  | .rmw _ => true
  | .oldParity _ => true
  | .copy _ => true
  | .dropped => true
  | .other => true
  | .status _ => false
  | .temperature _ => false
  | .train _ _ _ => m.issued.isNone
  | .mdw _ _ _ => false
  | .harrow _ _ _ => true
  | .check _ => true
  | .scan _ => true

/-- Whether a read serves an accepted request (R70). -/
def hostRead (r : Read) : Bool :=
  match r.kind with
  | .host => true
  | .partialWr _ _ _ => true
  | .spec => false
  | .rebuild _ _ _ => false
  | .patrol _ _ => false

/-- Whether a programme goes on in DRAIN (R110): granted ones complete, abandoned ones are reissued, and journal stripes
already formed are written. -/
def progKept (p : Prog) : Bool :=
  progFlying p || p.abandoned || p.st = .worn || (match p.kind with
    | .journal _ _ => true
    | _ => false)

/-- Background engines stop (R110, R352): queued work and copies are given up, a page rewrite leaves its source
authoritative. An in-place rewrite keeps its intent (R127). -/
def stopBackground (d : Dp) : Dp :=
  let gone := d.mh.rewrites.filter fun r => !r.inPlace
  let d1 := gone.foldl (fun d r => unhold r.dst d) d
  { d1 with
    mh := { d1.mh with work := [], rewrites := d1.mh.rewrites.filter fun r => r.inPlace }
    acc := { d1.acc with reads := d1.acc.reads.filter hostRead } }

/-- Give up the media operations done for the block itself: those not issued are dropped, an issued read goes on at its
package and is told to nobody (R223). -/
def dropInternal (d : Dp) : Dp :=
  let d1 := dropMops (fun m => internalMop d m && (m.issued.isNone || !m.kind.isRead)) d
  { d1 with mops := mapIf (fun m => internalMop d m) (fun m => { m with kind := .dropped }) d1.mops }

/-- VDD_CORE is to move to a set point: its steps are those of VCORE_STEP (R25). -/
def moveVcore (target : Nat) (cause : BitVec 4) (d : Dp) : Dp := { d with fab := { d.fab with target := target, cause := cause } }

/-- The voltage of SERVE: FAB_VCORE.vset (R23). -/
def vset (c : Ctl) : Nat := rg c 0xA0000 0 10

/-- A programme that has begun and is not being carried out, nor to be reissued as abandoned, is not issued again in DRAIN; its
image is kept for reconstructions of its row (R64, R110). -/
def keepBegun (d : Dp) : Dp :=
  { d with mrg := { d.mrg with
      progs := mapIf (fun p => p.begun && !progFlying p && !p.abandoned && !(match p.kind with
        | .journal _ _ => true
        | _ => false)) (fun p => { p with st := .worn }) d.mrg.progs } }

/-- DRAIN phase A as it begins (R110): no further credits, background work stops, open deltas close, the command in hand
and the maintenance request are abandoned (R187, R280), the store in W1 and W2 begins (R298), halted processors
resume (R404), and log records not yet written are counted (R324). VDD_CORE moves to vset, so that none of it stays below
0.70 V (R24, R369; DESIGN CHOICE, log entry 124: the set point of DRAIN). -/
def beginDrain (c : Ctl) (cause : BitVec 8) (d : Dp) : Dp :=
  let d1 := moveVcore (vset c) 0 (setMode .drain cause d)
  let d2 := { d1 with
    sup := { d1.sup with
      entering := false, waking := false, warm := false, dormReq := none, drainAfterWake := none, fallowing := false,
      drainAt := d1.sup.clock, endAt := d1.sup.clock, drainCause := drainCauseOf cause, drainSeq := none, drainStripes := 0 }
    jrn := { d1.jrn with plan := none }
    lc := { d1.lc with
      flush := false, gpfClean := false, queue := [], cur := none
      outcome := if d1.lc.cur.isSome || d1.lc.queue ≠ [] then 2 else d1.lc.outcome
      lines := if d1.lc.cur.isSome || d1.lc.queue ≠ [] then (d1.lc.cur.map (·.acted)).getD 0 else d1.lc.lines }
    flt := { d1.flt with pendingAtDrain := some d1.flt.logQ.length, logQ := [] }
    sec := if d1.sec.erase && !d1.sec.eraseCommitted then { d1.sec with erase := false, retStep := 0 } else d1.sec }
  let d3 := stopCommand c .abandoned (linesActed d1) (if linkUp d2 then endBackgroundAs .retry d2 else { d2 with que := { d2.que with bg := none } })
  let d4 := dropInternal (dropProgs (fun p => !progKept p) (keepBegun (stopBackground d3)))
  let d5 := (d4.mrg.deltas.filter fun x => !x.closed).foldl (fun d x => closeDelta c 0x18 x d) d4
  let d6 := cutWrites d5
  flushAnswers c (resumeHalted (startStore false d6))

/-- The exit steps of the media (R236): CK restarts, and each channel in service is to write MODE_3 = 0 to its packages and
to re-centre their read eyes once with TRN 2. A write of standby not yet issued is given up. -/
def wakeMedia (d : Dp) : Dp :=
  let isStandby := fun (m : Mop) => m.issued.isNone && (match m.kind with
    | .mdw _ reg v => reg = 3 && v = 1
    | _ => false)
  everyPackage (fun w => .train w 2 []) (everyPackage (fun w => .mdw w 3 0)
    (everyChannel (fun x => { x with ck := true }) (dropMops isStandby d)))

/-- The exit from DORMANT begins (R354): VDD_CORE rises towards vset, at the rate of R25, and the media leave standby. -/
def beginWake (c : Ctl) (cause : BitVec 8) (d : Dp) : Dp :=
  if d.sup.waking then d
  else wakeMedia (moveVcore (vset c) 0 { d with
    sup := { d.sup with waking := true, exitCause := cause }
    hif := { d.hif with sub := 0, clkReq := true } })

/-- An exit trigger of R354 in SERVE or FALLOW cancels a DORMANT request that waits, or an entry in progress, which stops at
its step (R352): the credits withheld for it are returned. -/
def cancelEntry (c : Ctl) (d : Dp) : Dp :=
  let n := if d.sup.entering && d.thm.cut = 0 then d.hif.unreturned else 0
  returnEntries c n { d with sup := { d.sup with dormReq := none, entering := false }
                             lc := { d.lc with flush := d.lc.flush && !d.sup.entering } }

/-- A CXL.mem request on a credit that the host still held is an exit trigger of R354: it begins the exit from DORMANT, and ends
an entry in progress. While a request for DORMANT only waits, service goes on and credits are not withheld. -/
def memTrigger (c : Ctl) (d : Dp) : Dp :=
  if d.sup.downActive then d
  else if d.sup.mode = .dormant then beginWake c 0x12 d
  else if d.sup.entering then cancelEntry c d
  else d

/-- Rows 2 and 3 of the arbiter's list (R343): whether a drain cause stands in the higher row. -/
def drainRow2 (cause : BitVec 8) : Bool := cause = 0x02 || cause = 0x14

/-- Which of two DRAIN requests stands (R343): the one of the higher row; of two in one row, the first. -/
def drainFirst (old : Option (BitVec 8)) (cause : BitVec 8) : BitVec 8 :=
  match old with
  | some x => if drainRow2 x || !drainRow2 cause then x else cause
  | none => cause

/-- Request DRAIN (R342): at once in SERVE and FALLOW; in DORMANT at the end of the wake. In every other mode, and in the
power-down sequence, it has no effect. While the isolation cells hold, it waits for their release (R18). -/
def requestDrain (c : Ctl) (cause : BitVec 8) (d : Dp) : Dp :=
  if !awake d then d
  else if !d.sup.isoReleased then { d with sup := { d.sup with isoDrain := some (drainFirst d.sup.isoDrain cause) } }
  else if d.sup.mode = .dormant then
    beginWake c cause { d with sup := { d.sup with drainAfterWake := some (drainFirst d.sup.drainAfterWake cause) } }
  else beginDrain c cause d

/-- FALLOW is entered (R153, R355): from SERVE only, unless a warm reset is under way (R343) or the
isolation cells hold, when a DRAIN request of the higher row waits (R18). A DORMANT request loses. -/
def enterFallow (c : Ctl) (cause : BitVec 8) (d : Dp) : Dp :=
  if d.sup.mode ≠ .serve ∨ d.sup.downActive ∨ d.sup.warm ∨ d.sup.isoReleased = false then d
  else
    let n := if d.sup.entering && d.thm.cut = 0 then d.hif.unreturned else 0
    returnEntries c n (setMode .fallow cause
      { d with sup := { d.sup with entering := false, dormReq := none }, lc := { d.lc with flush := false } })

/-- SERVE resumes from FALLOW (R355): the law of R368 takes over, so that the level in force and those computed lately
stand at 0.70 V at least (R23, R369). -/
def leaveFallow (c : Ctl) (d : Dp) : Dp :=
  let v := max 700 d.thm.vTarget
  setMode .serve 0x10 (moveVcore v (if v < vset c then 1 else 0) { d with
    sup := { d.sup with fallowing := false }
    thm := { d.thm with vTarget := v, lows := d.thm.lows.map fun e => (e.1, max 700 e.2.1, e.2.2) } })

/-- MODE_FALLOW_EXIT takes effect (R355): at once, or when VDD_CORE has reached 0.70 V. A DORMANT request loses, and so does the
exit itself against a warm reset under way (R343). -/
def exitFallow (c : Ctl) (d : Dp) : Dp :=
  if !d.sup.isoReleased || d.sup.warm then d
  else
    let d1 := cancelEntry c d
    if 700 ≤ d1.fab.setPoint then leaveFallow c d1
    else moveVcore 700 0 { d1 with sup := { d1.sup with fallowing := true } }

/-- Whether rail i is used (SUP_RAIL_i, R363). -/
def railUsed (c : Ctl) (i : Nat) : Bool := i = 6 || rb c (0x10100 + 4 * i) 31

/-- The rails that are used. -/
def usedRails (c : Ctl) : List Nat := (List.range 12).filter (railUsed c)

/-- What a loss of power, or a warm RISE, leaves of the datapath (R14, R290, R331, R381, R389, R436): the parameter
store with a page whose header had verified (R297), the journal stripes and everything else on the media, the flash images, the supervisor island and the
attempt counts, a parity check not finished (R118); a warm RISE also keeps the link, the timebase, the HBM training and DRN_LAST (R116). -/
def wipe (warm : Bool) (d0 : Dp) : Dp :=
  let d := writesLost d0
  { Dp.reset with
    now := if warm then d.now else 0
    free := d.free
    glb := { Glb.reset with straps := if warm then d.glb.straps else 0 }
    sup := { d.sup with dormReq := none, entering := false, waking := false, drainAfterWake := none, warm := false,
                        fallowing := false, drainSeq := none, drainStripes := 0 }
    rec_ := { Rec.reset with ring := d.rec_.ring, nextSeq := d.rec_.nextSeq }
    pst := { Pst.reset with slots := d.pst.slots, sec := d.pst.sec, dev := d.pst.dev, mediaBad := d.pst.mediaBad
                            prev := d.pst.prev, cntPend := d.pst.cntPend }
    hif := if warm then
        { d.hif with
          memActive := false, memInfo := false, downgrades := 0, recovery := 0, replay := 0, hr := 0, hw := 0,
          withheld := false, unreturned := 0, returned := 0, badOpcode := 0, drainRej := 0, undecoded := 0, refused := 0,
          stallMax := 0, stallCount := 0, gpf := none, resps := [], refusedAt := none, refusedNew := 0, tsSet := none,
          mediaError := false, sessions := 0 }
      else Hif.reset
    acc := { Acc.reset with nextTag := d.acc.nextTag }
    mrg := { Mrg.reset with nextId := d.mrg.nextId }
    jrn := if warm then
        { Jrn.reset with stripes := d.jrn.stripes, counted := d.jrn.counted, dirtyNo := d.jrn.dirtyNo, kept := d.jrn.kept
                         lastValid := d.jrn.lastValid, lastClean := d.jrn.lastClean, lastCause := d.jrn.lastCause, lastUs := d.jrn.lastUs
                         lastStripes := d.jrn.lastStripes }
      else { Jrn.reset with stripes := d.jrn.stripes, counted := d.jrn.counted, dirtyNo := d.jrn.dirtyNo, kept := d.jrn.kept }
    mh := { Mh.reset with metaUsed := d.mh.metaUsed, reanchor := d.mh.reanchor, gap := d.mh.gap
                          parityCheck := d.mh.parityCheck, checkNext := d.mh.checkNext }
    hbm := if warm then
        { Hbm.reset with trainFail := d.hbm.trainFail, badChan := d.hbm.badChan, lanes := d.hbm.lanes
                         trainMs := d.hbm.trainMs, order := d.hbm.order, rows := d.hbm.rows }
      else Hbm.reset
    nextMop := d.nextMop
    sec := { Sec.reset with userLeft := d.sec.userLeft, masterLeft := d.sec.masterLeft, imgA := d.sec.imgA,
                            imgB := d.sec.imgB, firstRise := d.sec.firstRise }
    out := d.out }

/-- The control fields as the start of a RISE leaves them (R436, R437): the lock is cleared; the SUP window is kept, and
HBM_CTL across a warm RISE. -/
def riseCtl (warm : Bool) (c : Ctl) : Ctl :=
  { c with
    cr := c.cr.filter fun e => (0x10000 ≤ e.1 && e.1 < 0x20000) || (warm && e.1 = 0x100000)
    cfgLocked := false, writesOpen := false, cntDamaged := 0 }

/-- RISE reads a spread counter (R303, R309): one with no valid slot is damaged, and its bit is set (R300). -/
def countRead (x : Ctl × Dp) (n : Nat) : Ctl × Dp :=
  let mended := (List.range 64).any fun i =>
    let s := cntSlot x.1 n i
    (readCount s).any fun r => decide (r ≠ s)
  let d := if mended then { x.2 with pst := { x.2.pst with corrected := x.2.pst.corrected + 1 } } else x.2
  if (cntCurrent x.1 n).isSome then (x.1, d) else ({ x.1 with cntDamaged := setBit x.1.cntDamaged n }, damaged 7 d)

/-- What every RISE reads of the shadow array before the media: the configuration image, the records and the spread counters (R300,
R308). -/
def storeRead (x : Ctl × Dp) : Ctl × Dp := (List.range 32).foldl countRead (x.1, pagesRead (List.range 48) x.2)

/-- Seed the allocators' and the tagging LFSRs from the random-number generator (R180, R419). -/
def seedLfsrs (d : Dp) : Dp :=
  let r := rngNow d
  bump { d with
    lc := { d.lc with lfsr := (List.range 16).map fun i => nonzero32 (r.extractLsb' (32 * i) 32) }
    pmu := { d.pmu with lfsr := nonzero32 (Config.rng (d.free + 1) |>.extractLsb' 0 32) } } |> bump

/-- The security state and records the boot ROM loads at every RISE (R384, R385, R386, R388). -/
def loadSecurity (c : Ctl) (d : Dp) : Dp :=
  let bad := fun (p : Nat) => p ∈ d.pst.undecodable
  let r0 := d.pst.sec
  let r1 := if bad 16 then
      { r0 with userSet := false, masterSet := false, eraseInProgress := true, eraseCommitted := true, eraseKind := 1,
                cursor := 0, userSalt := 0, userVer := 0, masterSalt := 0, masterVer := 0, wrapped := none,
                wrapUser := false }
    else r0
  let r1 := if r1.eraseInProgress && !r1.eraseCommitted then { r1 with eraseInProgress := false, eraseKind := 0 } else r1
  let r2 := if bad 19 then { r1 with bind := [0, 1, 2, 3] } else r1
  let r := { r2 with dbgReturned := if bad 20 then c.returnedFuse else r2.dbgReturned || c.returnedFuse }
  let st : SecSt := if r.userSet then (if d.sec.userLeft = 0 then .exhausted else .locked) else .disabled
  let d1 := { d with
    pst := { d.pst with sec := r }
    sec := { d.sec with st := st, bind := r.bind, mediaKey := none, userKek := none,
                        eraseCommitted := r.eraseInProgress && r.eraseCommitted,
                        erase := r.eraseInProgress && r.eraseCommitted, eraseKind := r.eraseKind } }
  let d2 := if bad 16 then eventRecord c 2 12 16 d1 else d1
  if bad 19 then eventRecord c 1 12 19 d2 else d2

/-- A warm RISE begins (R350, R360, R406): at step 4, the fill, with the rails up; VDD_CORE moves to the 0.80 V of RISE from where
it stands (R25). -/
def startWarmRise (cause : BitVec 8) (c : Ctl) (d : Dp) : Ctl × Dp :=
  let x := storeRead (riseCtl true c, wipe true (setMode .rise cause (closeDebug d)))
  let c1 := x.1
  let d1 := x.2
  (c1, loadSecurity c1 (seedLfsrs <| beginFill { d1 with
    glb := { d1.glb with riseStep := 3 }
    jrn := { d1.jrn with
      counted := some 2
      kept := if d1.jrn.lastValid then
          some (d1.jrn.lastClean, d1.jrn.lastCause, d1.jrn.lastUs, d1.jrn.lastStripes) else d1.jrn.kept }
    fab := { d1.fab with vread := d.fab.vread, setPoint := d.fab.setPoint } }))

/-- OFF is reached (R347, R349): the latches of the cause are set and everything unpowered is lost. THERM_TRIP_N is released
(R377). -/
def reachOff (d0 : Dp) : Dp :=
  let k := d0.sup.downCause
  let d := if d0.sup.thermTripLow then emit (.thermTrip false) d0 else d0
  wipe false { d with sup := { d.sup with
    mode := .off, cause := k, offSince := d.sup.clock, thermTripLow := false, recordDue := true, railsUp := false,
    upActive := false, downActive := false, isoReleased := false, isoDrain := none, isoRails := 0, perstFell := false, pwrFell := false,
    thermEvent := false, thermAuxOnly := false, offLatch := d.sup.offLatch || k = 0x04 || k = 0x05 || k = 0x0B || k = 0x11
    thermLatch := d.sup.thermLatch || k = 0x08 || k = 0x09
    startCause := 0x17
    s31Broken := (smGet {} d.thm.sensors 31).broken } }

/-- The power-down sequence begins (R347): the link and the channels go down, and each rail follows at its off-step. With no
rail enabled OFF is reached at once. EXTEST ends (R403). -/
def beginDown (c : Ctl) (cause : BitVec 8) (d : Dp) : Dp :=
  if d.sup.mode = .off ∨ d.sup.downActive then d
  else
    let d1 := linkDown c { d with sec := { d.sec with extest := false }, sup := { d.sup with
      downActive := true, downMode := d.sup.mode, downCause := cause, upActive := false, entering := false, waking := false,
      warm := false, dormReq := none, drainAfterWake := none, isoDrain := none, isoRails := 0, fallowing := false
      endAt := if d.sup.mode = .drain then d.sup.endAt else d.sup.clock } }
    let d2 := (List.range 17).foldl (fun d k => if (chanOf d k).isolated then d else emit (.chanPins k true) d) d1
    if d2.sup.psEn = 0 then reachOff d2 else d2

end Sys2Proof.Machine
end

