-- ==== Sys2Proof/Machine/HostMem.lean ====
section
/-! DEFINITION. The CXL.mem requests of the host (R249): MemRd, MemSpecRd, MemInv, MemWr, MemWrPtl and every other
opcode, from their arrival at the pins to the answer or to the start of their media work. -/

namespace Sys2Proof.Machine

/-- Whether a CXL.mem flit can be acted on: the link is up and the CXL.mem IDE stream has not failed (R256). -/
def memOpen (d : Dp) : Bool := linkUp d && !d.hif.ideFailed

/-- What an arriving request meets (R253). -/
inductive Gate where
  /-- No flit can be acted on: nothing happens. -/
  | shut
  /-- Memory_Active is 0: answered outside the pool, which does not exist yet. -/
  | inactive
  /-- The host holds no credit for the channel: it cannot have sent the request. -/
  | noCredit
  /-- DRAIN has begun. -/
  | draining
  /-- DORMANT: held until its exit. -/
  | dormant
  /-- A request that is handled, on a decoded DPA when a committed decoder matches. -/
  | go (line : Option SecAddr)
  deriving DecidableEq, Repr

/-- The gate of a request on a channel for which the host holds `credits` (R251, R253, R260). -/
def gate (credits : Nat) (hpa : BitVec 52) (d : Dp) : Gate :=
  if memOpen d = false then .shut
  else if d.hif.memActive = false then .inactive
  else if credits = 0 then .noCredit
  else if d.sup.mode = .drain then .draining
  else if d.sup.mode = .dormant then .dormant
  else .go ((hdmDecode d hpa).map fun x => dpaSec x.2)

/-- A request that matches no decoder, or comes before Memory_Active (R253). -/
def countUndecoded (c : Ctl) (d : Dp) : Dp :=
  pmuCount c 0 0x1D 1 { d with hif := { d.hif with undecoded := satInc 0xFF d.hif.undecoded } }

/-- A request refused in FALLOW or LOCKED (R253). -/
def countRefused (c : Ctl) (d : Dp) : Dp :=
  pmuCount c 0 0x1D 1 { d with hif := { d.hif with refused := satInc 0xFF d.hif.refused } }

/-- A request that arrives after DRAIN has begun (R253). -/
def countDrain (c : Ctl) (d : Dp) : Dp :=
  pmuCount c 0 0x1D 1 { d with hif := { d.hif with drainRej := satInc 0xFF d.hif.drainRej } }

/-- Raise the event record of refused writes, at most once per second, with the number refused since the last one
(R253). -/
def refusedRecord (c : Ctl) (d : Dp) : Dp :=
  let due := match d.hif.refusedAt with
    | none => true
    | some t => 1000000000 ≤ elapsed t d.now
  if due && 0 < d.hif.refusedNew then
    eventRecord c 1 3 d.hif.refusedNew { d with hif := { d.hif with refusedAt := some d.now, refusedNew := 0 } }
  else d

/-- A refused write (R253). -/
def refuseWrite (c : Ctl) (d : Dp) : Dp :=
  refusedRecord c (countRefused c { d with hif := { d.hif with refusedNew := d.hif.refusedNew + 1 } })

/-- A credit used by a request that gets no pool entry of its own is freed at once (R249, R251). -/
def freeAtOnce (c : Ctl) (d : Dp) : Dp := freeEntry c d

/-- Answer a request that is not accepted, on its pool entry (R253). `line` is none where no decoder gave a DPA. -/
def answerRejected (c : Ctl) (line : SecAddr) (write : Bool) (r : Resp) (d : Dp) : Dp :=
  let d1 := acceptReq c line write false true d
  answer c d.acc.nextTag r d1

/-- The 64-byte address an undecoded request is answered under: its HPA (log entry 26). -/
def hpaLine (hpa : BitVec 52) : SecAddr := BitVec.ofNat 37 (hpa.toNat / 64)

/-- A read record of an accepted request. -/
def readRecord (d : Dp) (tag : Nat) (line : SecAddr) (kind : RdKind) (tagged : Bool) (arrived : Stamp) (ceiling : Bool) :
    Read :=
  { tag := tag, line := line, kind := kind, slot := (slotOfDpa d (secDpa line)).getD 0, arrived := arrived,
    ceiling := ceiling, phase := .map false false, entry := 0, route := .notAccepted, alloc := false,
    escalated := false, cwOut := false, peersOut := false, speculative := false, fault := false, tagged := tagged,
    accept := d.now, translate := none, issue := none, ret := none, decode := none, recon := none }

/-- Add the read record of the request accepted last. -/
def addRead (line : SecAddr) (kind : RdKind) (d : Dp) : Dp :=
  match lastPend d with
  | none => d
  | some p =>
    { d with acc := { d.acc with reads := d.acc.reads ++ [readRecord d p.tag line kind p.tagged p.arrived p.serve] } }

/-- A read accepted from the host, from its SRAM probes on (R56). -/
def acceptRead (c : Ctl) (line : SecAddr) (ecc mapEcc : SramEcc) (d : Dp) : Dp :=
  let tag := d.acc.nextTag
  let d1 := pmuCount c 18 0x10 1 (pmuCount c 0 0x10 1 (addRead line .host (acceptReq c line false false false d)))
  probe c tag (mapEccAt c (linePage (secLine line)).toNat mapEcc (holdEcc c line ecc d1))

/-- A host read at the acceptance unit, its credit taken. -/
def doRead (c : Ctl) (hpa : BitVec 52) (line : Option SecAddr) (ecc mapEcc : SramEcc) (d : Dp) : Dp :=
  match line with
  | none => answerRejected c (hpaLine hpa) false (.memData (hpaLine hpa) 0 true) (countUndecoded c d)
  | some a =>
    if refusing d then answerRejected c a false (.memData a 0 true) (countRefused c d)
    else acceptRead c a ecc mapEcc d

/-- MemInv and MemInvNT at the acceptance unit, the credit taken: no data action, answered in order (R249, R254). -/
def doInv (c : Ctl) (hpa : BitVec 52) (line : Option SecAddr) (d : Dp) : Dp :=
  match line with
  | none => answerRejected c (hpaLine hpa) false (.cmp (hpaLine hpa)) (countUndecoded c d)
  | some a =>
    if refusing d then answerRejected c a false (.cmp a) (countRefused c d)
    else answer c d.acc.nextTag (.cmp a) (pmuCount c 0 0x22 1 (acceptReq c a false false false d))

/-- Place a whole-sector write that has been accepted, and acknowledge it (R81, R103). A whole sector that is not
poisoned leaves the poison list (log entry 27). -/
def commitWrite (c : Ctl) (tag : Nat) (a : SecAddr) (data : Sector) (poison : Bool) (d : Dp) : Dp :=
  let det := detect c (secLine a) (secIdx a) d
  let d1 := placeSector c (secLine a) (secIdx a) data poison ((slotOfDpa d (secDpa a)).getD 0) det.1 det.2
  updWithhold c (answer c tag (.cmp a) (if poison then d1 else poisonRemove a d1))

/-- A whole-sector write at the acceptance unit, its credit taken (R81). -/
def doWrite (c : Ctl) (hpa : BitVec 52) (line : Option SecAddr) (data : Sector) (poison : Bool) (ecc : SramEcc) (d : Dp) :
    Dp :=
  match line with
  | none => answerRejected c (hpaLine hpa) true (.cmp (hpaLine hpa)) (countUndecoded c d)
  | some a =>
    if refusing d ∨ d.sup.mode = .fallow then answerRejected c a true (.cmp a) (refuseWrite c d)
    else
      commitWrite c d.acc.nextTag a data poison
        (noteWhole d.acc.nextTag data poison <| holdEcc c a ecc (pmuBytes 0 64 (pmuCount c 0 0x11 1 (acceptReq c a true false false d))))

/-- A partial write at the acceptance unit, its credit taken (R250): it merges into a held sector or waits for the
sector by the read path. With no byte enabled it changes nothing that a merge does not. -/
def doPartial (c : Ctl) (hpa : BitVec 52) (line : Option SecAddr) (data : Sector) (en : BitVec 64) (poison : Bool)
    (ecc : SramEcc) (d : Dp) : Dp :=
  match line with
  | none => answerRejected c (hpaLine hpa) true (.cmp (hpaLine hpa)) (countUndecoded c d)
  | some a =>
    if refusing d ∨ d.sup.mode = .fallow then answerRejected c a true (.cmp a) (refuseWrite c d)
    else
      let tag := d.acc.nextTag
      let d1 := pmuBytes 0 64 (pmuCount c 0 0x12 1 (addRead a (.partialWr data en poison) (acceptReq c a true true false d)))
      updWithhold c (probe c tag (holdEcc c a ecc d1))

/-- Hold a request that arrived in DORMANT on a credit (R253), and begin the exit (R354). -/
def hold (c : Ctl) (r : HeldReq) (d : Dp) : Dp := memTrigger c { d with acc := { d.acc with held := d.acc.held ++ [(d.now, r)] } }

/-- MemRd and MemRdData arriving (R56). -/
def memRdArrives (c : Ctl) (hpa : BitVec 52) (ecc mapEcc : SramEcc) (d : Dp) : Dp :=
  match gate d.hif.hr hpa d with
  | .shut => d
  | .noCredit => d
  | .inactive => countUndecoded c (rejectAnswer (.memData (hpaLine hpa) 0 true) d)
  | .draining =>
    answerRejected c (hpaLine hpa) false (.memData (hpaLine hpa) 0 true) (countDrain c (takeReqCredit d))
  | .dormant => hold c (.rd hpa) (takeReqCredit d)
  | .go line => doRead c hpa line ecc mapEcc (takeReqCredit (memTrigger c d))

/-- MEMRD (R56): a host MemRd or MemRdData is accepted, decoded, and probes the mapping cache and the line cache. -/
def execMemrd (hpa : BitVec 52) (ecc : SramEcc) (mapEcc : SramEcc) (s : State) : Host.Outcome State Fault Refusal :=
  onDp (fun c d => memRdArrives c hpa ecc mapEcc d) s

/-- A mapping-cache prefetch of a page (R249), under the next tag. -/
def prefetch (c : Ctl) (a : SecAddr) (d : Dp) : Dp :=
  let tag := d.acc.nextTag
  lookup c tag { d with acc := { d.acc with
    nextTag := d.acc.nextTag + 1, reads := d.acc.reads ++ [readRecord d tag a .spec false d.now false] } }

/-- MemSpecRd at the acceptance unit, its credit taken and freed at acceptance (R249). -/
def doSpec (c : Ctl) (line : Option SecAddr) (d : Dp) : Dp :=
  let d1 := pmuCount c 0 0x21 1 d
  freeAtOnce c (match line with
    | none => countUndecoded c d1
    | some a => if refusing d then countRefused c d1 else prefetch c a d1)

/-- MemSpecRd arriving: no response (R249). -/
def memSpecRdArrives (c : Ctl) (hpa : BitVec 52) (d : Dp) : Dp :=
  match gate d.hif.hr hpa d with
  | .shut => d
  | .noCredit => d
  | .inactive => countUndecoded c d
  | .draining => freeAtOnce c (countDrain c (takeReqCredit d))
  | .dormant => hold c (.spec hpa) (takeReqCredit d)
  | .go line => doSpec c line (takeReqCredit (memTrigger c d))

/-- MEMSPECRD (R249): a mapping-cache prefetch of the line's page. -/
def execMemspecrd (hpa : BitVec 52) (s : State) : Host.Outcome State Fault Refusal :=
  onDp (fun c d => memSpecRdArrives c hpa d) s

/-- MemInv and MemInvNT arriving (R249). -/
def memInvArrives (c : Ctl) (hpa : BitVec 52) (d : Dp) : Dp :=
  match gate d.hif.hr hpa d with
  | .shut => d
  | .noCredit => d
  | .inactive => countUndecoded c (rejectAnswer (.cmp (hpaLine hpa)) d)
  | .draining => answerRejected c (hpaLine hpa) false (.cmp (hpaLine hpa)) (countDrain c (takeReqCredit d))
  | .dormant => hold c (.inv hpa) (takeReqCredit d)
  | .go line => doInv c hpa line (takeReqCredit (memTrigger c d))

/-- MEMINV (R249): answered after every earlier write to the same line has been acknowledged. -/
def execMeminv (hpa : BitVec 52) (s : State) : Host.Outcome State Fault Refusal :=
  onDp (fun c d => memInvArrives c hpa d) s

/-- MemWr arriving (R81). A write in DRAIN gets no completion, and its credit is not returned (R253). -/
def memWrArrives (c : Ctl) (hpa : BitVec 52) (data : Sector) (poison : Bool) (ecc : SramEcc) (d : Dp) : Dp :=
  match gate d.hif.hw hpa d with
  | .shut => d
  | .noCredit => d
  | .inactive => countUndecoded c (rejectAnswer (.cmp (hpaLine hpa)) d)
  | .draining => freeAtOnce c (countDrain c (takeRwdCredit d))
  | .dormant => hold c (.wr hpa data poison) (takeRwdCredit d)
  | .go line => doWrite c hpa line data poison ecc (takeRwdCredit (memTrigger c d))

/-- MEMWR (R81): a whole-sector host write is placed, committed and acknowledged. -/
def execMemwr (hpa : BitVec 52) (data : Sector) (poison : Bool) (ecc : SramEcc) (s : State) :
    Host.Outcome State Fault Refusal :=
  onDp (fun c d => memWrArrives c hpa data poison ecc d) s

/-- MemWrPtl arriving: with all 64 bytes enabled it is a whole write (R249, R250). -/
def memWrPtlArrives (c : Ctl) (hpa : BitVec 52) (data : Sector) (en : BitVec 64) (poison : Bool) (ecc : SramEcc)
    (d : Dp) : Dp :=
  if en = BitVec.allOnes 64 then memWrArrives c hpa data poison ecc d
  else match gate d.hif.hw hpa d with
    | .shut => d
    | .noCredit => d
    | .inactive => countUndecoded c (rejectAnswer (.cmp (hpaLine hpa)) d)
    | .draining => freeAtOnce c (countDrain c (takeRwdCredit d))
    | .dormant => hold c (.wrPtl hpa data en poison) (takeRwdCredit d)
    | .go line => doPartial c hpa line data en poison ecc (takeRwdCredit (memTrigger c d))

/-- MEMWRPTL (R250): a partial write is merged into its sector. -/
def execMemwrptl (hpa : BitVec 52) (data : Sector) (enables : BitVec 64) (poison : Bool) (ecc : SramEcc) (s : State) :
    Host.Outcome State Fault Refusal :=
  onDp (fun c d => memWrPtlArrives c hpa data enables poison ecc d) s

/-- Another M2S opcode arriving: discarded and counted, its credit freed (R249). -/
def otherArrives (c : Ctl) (rwd : Bool) (d : Dp) : Dp :=
  if memOpen d = false then d
  else if d.hif.memActive = false then
    pmuCount c 0 0x1D 1 { d with hif := { d.hif with badOpcode := satInc 0xFF d.hif.badOpcode } }
  else if (if rwd then d.hif.hw else d.hif.hr) = 0 then d
  else
    let d1 := if rwd then takeRwdCredit (memTrigger c d) else takeReqCredit (memTrigger c d)
    freeAtOnce c (pmuCount c 0 0x1D 1 { d1 with hif := { d1.hif with badOpcode := satInc 0xFF d1.hif.badOpcode } })

/-- OTHER_OPCODE (R249): discarded, the credit freed and HIF_MEM_REJECT.bad_opcode incremented. -/
def execOtherOpcode (rwd : Bool) (s : State) : Host.Outcome State Fault Refusal :=
  onDp (fun c d => otherArrives c rwd d) s

end Sys2Proof.Machine
end

