-- ==== Sys2Proof/Machine/Power.lean ====
section
/-! DEFINITION. The supervisor's inputs and rails (R344 to R362), the drain (R110, R111, R347) and DORMANT (R352 to
R354). -/

namespace Sys2Proof.Machine

/-- T_warn of the die, in units of 0.25 °C (R366). -/
def tWarn : Int := 380

/-- VDD_AUX reaches its range (R349, R378, R436): the supervisor starts, every register at its reset value, both attempt
counts at 5. A sensor 31 at T_warn or more sets the thermal latch. -/
def auxApplied (sensor31 : BitVec 16) (c : Ctl) (d : Dp) : Ctl × Dp :=
  if d.sup.aux then (c, d)
  else
    let hot := tWarn ≤ sensor31.toInt
    ({ riseCtl false c with cr := [] },
      { wipe false d with
        sup := { Sup.reset with thermLatch := hot, thermAuxOnly := hot }
        sec := { (wipe false d).sec with userLeft := 5, masterLeft := 5 } })

/-- VDD_AUX_APPLIED (R455). -/
def execVddAuxApplied (sensor31 : BitVec 16) (s : State) : Host.Outcome State Fault Refusal := onBoth (auxApplied sensor31) s

/-- SUP_CTL.min_off in ns (R363). -/
def minOffNs (c : Ctl) : Nat := max 1 (rg c 0x10004 0 8) * 10000000

/-- The start conditions of RISE (R349, R361). -/
def mayRise (c : Ctl) (d : Dp) : Bool :=
  d.sup.aux && d.sup.mode = .off && !d.sup.recordDue && d.sup.pwrFailN && !d.sup.mrLow &&
  10000000 ≤ elapsed d.sup.pwrHigh d.sup.clock && minOffNs c ≤ elapsed d.sup.offSince d.sup.clock &&
  !d.sup.offLatch && !d.sup.thermLatch && !d.sup.railLatch

/-- Bits of the parameter store that have changed by this RISE (R170, R295). -/
def bitsChange (x : Ctl × Dp) (e : PstErr) : Ctl × Dp :=
  match e with
  | .group slot g bits =>
    (x.1, { x.2 with pst := { x.2.pst with
      slots := smMod {} x.2.pst.slots slot fun s => putGroup g (slotGroup s g ^^^ bits) s } })
  | .counter n i bits => (putCount n i (countOf (countGroup (cntSlot x.1 n i) ^^^ bits)) x.1, x.2)
  | .codeword slot header bits =>
    (x.1, { x.2 with pst := { x.2.pst with mediaBad := smMod 0 x.2.pst.mediaBad (2 * slot + b2n header) (· ^^^ bits) } })

/-- The supervisor starts a cold RISE (R349, R350): the power-up sequence begins, the shadow array is read as it stands by now
(R300, R309; log entry 139), and power cycles are counted (R305). A record falls back on its older copy where the newer does not
read (R295). -/
def riseStarts (errs : List PstErr) (c : Ctl) (d : Dp) : Ctl × Dp :=
  if !mayRise c d then (c, d)
  else
    let d1 := wipe false d
    let d2 := { d1 with sup := { d1.sup with
      mode := .rise, cause := d.sup.startCause, restart := false, upActive := true, railsUp := false, enabled := 0,
      faulty := 0, deadline := false } }
    let x := errs.foldl bitsChange (riseCtl false c, seedLfsrs d2)
    let y := storeRead (x.1, (List.range 32).foldl (fun d i => recordBack (16 + i) d) x.2)
    (cntInc 1 y.1, y.2)

/-- RISE_START (R349). -/
def execRiseStart (errs : List PstErr) (s : State) : Host.Outcome State Fault Refusal := onBoth (riseStarts errs) s

/-- A power-up is aborted (R345): the rails enabled go down again; after three in a row the rail-fault latch is set. The rail that
did not reach power-good is none of the faulty rails of the record (R361). -/
def abortPowerUp (c : Ctl) (d : Dp) : Dp :=
  beginDown c 0x15 { d with sup := { d.sup with
    railFaults := satInc 0xFF d.sup.railFaults, attempts := d.sup.attempts + 1, abortRow := d.sup.abortRow + 1
    railLatch := d.sup.railLatch || 3 ≤ d.sup.abortRow + 1 } }

/-- The check of every rail already enabled (R345): one whose window has ended without power-good aborts. -/
def checkRails (c : Ctl) (d : Dp) : Dp := if d.sup.enabled &&& ~~~d.sup.pg ≠ 0 then abortPowerUp c d else d

/-- A rail's on-delay in the power-up sequence (R345). -/
def railOn (c : Ctl) (i : Nat) (d : Dp) : Dp :=
  if !d.sup.upActive || 12 ≤ i || !railUsed c i || d.sup.psEn.getLsbD i then d
  else
    let m := setBit d.sup.psEn i
    checkRails c (emit (.psEn m) { d with sup := { d.sup with psEn := m } })

/-- RAIL_ON_STEP (R345). -/
def execRailOnStep (rail : Nat) (s : State) : Host.Outcome State Fault Refusal := onDp (fun c d => railOn c rail d) s

/-- Complete the power-up sequence once every used rail shows power-good (R345). -/
def railsComplete (c : Ctl) (d : Dp) : Dp :=
  if d.sup.upActive && (usedRails c).all (fun i => d.sup.enabled.getLsbD i && d.sup.pg.getLsbD i) then
    { d with sup := { d.sup with upActive := false, railsUp := true, abortRow := 0 }, glb := { d.glb with riseStep := 1 } }
  else d

/-- A rail's power-good window ends (R345). -/
def windowEnds (c : Ctl) (i : Nat) (pg : Bool) (d : Dp) : Dp :=
  if !d.sup.upActive || 12 ≤ i || !d.sup.psEn.getLsbD i || d.sup.enabled.getLsbD i then d
  else railsComplete c (checkRails c { d with sup := { d.sup with
    enabled := setBit d.sup.enabled i, pg := if pg then setBit d.sup.pg i else clrBit d.sup.pg i } })

/-- POWER_GOOD_WINDOW_END (R345). -/
def execPowerGoodWindowEnd (rail : Nat) (pg : Bool) (s : State) : Host.Outcome State Fault Refusal :=
  onDp (fun c d => windowEnds c rail pg d) s

/-- PWR_FAIL_N low for 2 µs (R356). -/
def powerFails (c : Ctl) (d : Dp) : Dp :=
  if !d.sup.aux || !d.sup.pwrFailN then d
  else
    let d1 := { d with sup := { d.sup with
      pwrFailN := false, pwrFails := satInc 0xFF d.sup.pwrFails, pwrFell := d.sup.mode = .off } }
    if d1.sup.mode = .rise then beginDown c 0x02 d1 else requestDrain c 0x02 d1

/-- PWR_FAIL_N_ASSERTED (R356). -/
def execPwrFailNAsserted (s : State) : Host.Outcome State Fault Refusal := onDp powerFails s

/-- PWR_FAIL_N goes high (R349, R357, R378): in DRAIN and in the power-down sequence a restart is latched; in OFF, after an
assertion in OFF, it is a power cycle. The first start after VDD_AUX keeps its cause 0x00 (R341). -/
def powerReturns (d : Dp) : Dp :=
  if !d.sup.aux || d.sup.pwrFailN then d
  else
    let d1 := { d with sup := { d.sup with pwrFailN := true, pwrHigh := d.sup.clock } }
    if d.sup.mode = .drain ∨ d.sup.downActive then { d1 with sup := { d1.sup with restart := true, startCause := 0x17 } }
    else if d.sup.mode = .off then
      { d1 with sup := { d1.sup with
        startCause := if d.sup.restart || (d.sup.startCause = 0 && !d.sup.pwrFell) then d.sup.startCause else 0x03
        offLatch := d.sup.offLatch && !d.sup.pwrFell
        thermEvent := d.sup.thermEvent || d.sup.pwrFell } }
    else d1

/-- PWR_FAIL_N_DEASSERTED (R357). -/
def execPwrFailNDeasserted (s : State) : Host.Outcome State Fault Refusal := onDp (fun _ d => powerReturns d) s

/-- MR_N low for 1 ms (R358). No RISE starts before it has returned high (R349). -/
def manualReset (c : Ctl) (d : Dp) : Dp :=
  if !d.sup.aux || d.sup.mrLow then d
  else
    let d1 := { d with sup := { d.sup with mrCount := satInc 0xFF d.sup.mrCount, restart := true, mrLow := true } }
    if d.sup.mode = .off then
      { d1 with sup := { d1.sup with offLatch := false, railLatch := false, abortRow := 0, startCause := 0x06 } }
    else if d.sup.mode = .rise then beginDown c 0x06 d1
    else requestDrain c 0x06 d1

/-- MR_N (R358): it has been low for 1 ms, or it has returned high. -/
def execMrN (high : Bool) (s : State) : Host.Outcome State Fault Refusal :=
  onDp (fun c d => if high then { d with sup := { d.sup with mrLow := false } } else manualReset c d) s

/-- Whether a press of the service button that reaches 50 ms now began during DRAIN or the power-down sequence (R359): 50 ms ago
one of them had begun, and OFF was not yet reached. -/
def pressDead (d : Dp) : Bool :=
  decide (50000000 ≤ elapsed d.sup.endAt d.sup.clock) &&
    (d.sup.mode = .drain || d.sup.downActive || decide (elapsed d.sup.offSince d.sup.clock < 50000000))

/-- SVC_BTN_N has been low for 50 ms (R359). No message crosses the isolation cells while they hold (R18). -/
def buttonPress (d : Dp) : Dp :=
  if !d.sup.aux then d
  else
    let d1 := { d with sup := { d.sup with btnDead := pressDead d } }
    if !pressDead d && awake d1 && d1.sup.isoReleased && linkUp d1 then msix 73 d1 else d1

/-- SVC_BTN_PRESS (R359). -/
def execSvcBtnPress (s : State) : Host.Outcome State Fault Refusal := onDp (fun _ d => buttonPress d) s

/-- The service button is released (R359). -/
def buttonRelease (c : Ctl) (ms : Nat) (d : Dp) : Dp :=
  if !d.sup.aux then d
  else if d.sup.btnDead then { d with sup := { d.sup with btnDead := false } }
  else if 50 ≤ ms ∧ ms ≤ 2000 then
    if d.sup.mode = .off then { d with sup := { d.sup with offLatch := false, startCause := 0x04 } }
    else if d.sup.mode = .rise then beginDown c 0x04 d
    else requestDrain c 0x04 d
  else if 2000 < ms ∧ ms < 8000 ∧ awake d then
    { d with sup := { d.sup with btnIgnored := satInc 0xFF d.sup.btnIgnored } }
  else d

/-- SVC_BTN_RELEASE (R359). -/
def execSvcBtnRelease (heldMs : Nat) (s : State) : Host.Outcome State Fault Refusal :=
  onDp (fun c d => buttonRelease c heldMs d) s

/-- SVC_BTN_HELD_8S (R359): the power-down sequence at once. -/
def execSvcBtnHeld8s (s : State) : Host.Outcome State Fault Refusal :=
  onDp (fun c d => if !d.sup.aux || d.sup.btnDead then d else beginDown c 0x05 d) s

/-- Whether the persistence domain is clean (R352 step 2, R360): no sector value, no intent, no accepted request
unanswered. -/
def domainEmpty (d : Dp) : Bool := dSectors d = 0 && intents d = 0 && d.acc.pend = []

/-- Whether the mapping changes made so far are in the journal, so that a restart loses none. -/
def mapSettled (d : Dp) : Bool :=
  bufferedChgs d = [] && d.jrn.stripes.all (fun s => s.ok) && !(d.map.cache.any fun m => m.pinned)

/-- A warm reset's cleaning is over (R360 steps 3 and 4). -/
def warmReady (d : Dp) : Bool :=
  d.sup.warm && serving d && d.sup.isoReleased && domainEmpty d && mapSettled d && d.pst.writes = [] &&
  d.pst.storing = []

/-- Start the warm RISE of PERST_N once the cleaning is over. -/
def tryWarmRise (c : Ctl) (d : Dp) : Ctl × Dp := if warmReady d then startWarmRise 0x07 c d else (c, d)

/-- PERST_N asserts (R262, R360). Where the isolation cells hold, or a wake is to end in a drain, the DRAIN request that waits
is of a higher row (R18, R343). In DORMANT the exit of R354 runs first. -/
def perstAsserts (c : Ctl) (d : Dp) : Ctl × Dp :=
  if !d.sup.aux || !d.sup.perstN then (c, d)
  else
    let d1 := { d with sup := { d.sup with perstN := false } }
    if d.sup.mode = .off then (c, { d1 with sup := { d1.sup with perstFell := true } })
    else
      let x := flrBoth c (clearDecoders (linkDown c d1))
      if !awake d || !d.sup.isoReleased || d.sup.drainAfterWake.isSome then x
      else
        let d2 := startStore false x.2
        if d.sup.mode = .dormant then (x.1, beginWake x.1 0x07 { d2 with sup := { d2.sup with warm := true } })
        else tryWarmRise x.1
          { d2 with
            sup := { d2.sup with warm := true, dormReq := none, entering := false, fallowing := false }
            lc := { d2.lc with flush := true } }

/-- PERST_N_ASSERTED (R360). -/
def execPerstNAsserted (s : State) : Host.Outcome State Fault Refusal := onBoth perstAsserts s

/-- PERST_N_DEASSERTED (R351, R349, R378). -/
def execPerstNDeasserted (s : State) : Host.Outcome State Fault Refusal :=
  onDp (fun _ d =>
    if !d.sup.aux || d.sup.perstN then d
    else
      let d1 := { d with sup := { d.sup with perstN := true } }
      if d.sup.mode = .off && d.sup.perstFell then
        { d1 with sup := { d1.sup with
          perstFell := false, offLatch := false, thermEvent := true
          startCause := if d.sup.restart then d.sup.startCause else 0x07 } }
      else d1) s

/-- The power-down record (R361): mode, cause, rails, flags, attempts. -/
def pdRecord (auxLost : Bool) (d : Dp) : PdRec :=
  let pend := d.sup.downActive || d.sup.recordDue
  { mode := BitVec.ofNat 3 (if pend then d.sup.downMode else d.sup.mode).code
    cause := if pend then d.sup.downCause else 0x16
    faulty := d.sup.faulty, auxLost := auxLost, deadline := d.sup.deadline, restart := d.sup.restart
    attempts := d.sup.attempts }

/-- Write the power-down record into page 47. -/
def writePdRec (auxLost : Bool) (d : Dp) : Dp :=
  modDev 47 (fun r => { r with powerDown := some (pdRecord auxLost d), pdNew := true }) d

/-- VDD_AUX falls below 2.9 V (R362): every enable goes low, and with a working VHOLD the record is written. Everything the
supervisor held is lost; a counter slot being written is cut (R304). -/
def auxLost (vhold : Bool) (cut : CntCut) (c : Ctl) (d : Dp) : Ctl × Dp :=
  if !d.sup.aux then (c, d)
  else
    let d1 := emit (.psEn 0) (if vhold then writePdRec true d else d)
    let d2 := wipe false d1
    ({ riseCtl false (cutCount cut c d) with cr := [] },
      { d2 with sup := { Sup.reset with aux := false }, sec := { d2.sec with userLeft := 5, masterLeft := 5 }
                pst := { d2.pst with cntPend := none } })

/-- VDD_AUX_LOST (R362). -/
def execVddAuxLost (vhold : Bool) (cut : CntCut) (s : State) : Host.Outcome State Fault Refusal := onBoth (auxLost vhold cut) s

/-- The message of a rail fault (R346); one that the isolation cells hold is sent when they release (R18). -/
def railMessage (i : Nat) (d : Dp) : Dp :=
  if d.sup.isoReleased then raise 0x65 0x3A 0 i 0xFF noAccess d
  else { d with sup := { d.sup with isoRails := setBit d.sup.isoRails i } }

/-- A used rail has lost power-good for 1 µs (R346, R348). With VDD_CORE below its window the isolation cells hold
(R18). -/
def railFails (c : Ctl) (i : Nat) (d : Dp) : Dp :=
  if 12 ≤ i || !railUsed c i || !d.sup.psEn.getLsbD i || !d.sup.pg.getLsbD i then d
  else
    let d1 := { d with sup := { d.sup with pg := clrBit d.sup.pg i, isoReleased := d.sup.isoReleased && i ≠ 6 } }
    if d.sup.upActive then d1
    else if d.sup.downActive then { d1 with sup := { d1.sup with faulty := setBit d1.sup.faulty i } }
    else
      let d2 := railMessage i
        { d1 with sup := { d1.sup with faulty := setBit d1.sup.faulty i, railFaults := satInc 0xFF d1.sup.railFaults } }
      if d.sup.mode = .rise then beginDown c 0x14 d2 else requestDrain c 0x14 d2

/-- RAIL_FAULT (R346). -/
def execRailFault (rail : Nat) (s : State) : Host.Outcome State Fault Refusal := onDp (fun c d => railFails c rail d) s

/-- DRAIN_DEADLINE (R347): 8 ms after DRAIN began, the power-down starts without a seal. -/
def execDrainDeadline (s : State) : Host.Outcome State Fault Refusal :=
  onDp (fun c d =>
    if d.sup.mode = .drain && !d.sup.downActive then
      beginDown c d.sup.cause { d with sup := { d.sup with deadline := true } }
    else d) s

/-- A rail's off-delay in the power-down sequence (R347); the last one reaches OFF. -/
def railOff (i : Nat) (d : Dp) : Dp :=
  if !d.sup.downActive || 12 ≤ i || !d.sup.psEn.getLsbD i then d
  else
    let m := clrBit d.sup.psEn i
    let d1 := emit (.psEn m) { d with sup := { d.sup with psEn := m, isoReleased := d.sup.isoReleased && i ≠ 6 } }
    if m = 0 then reachOff d1 else d1

/-- OFF_STEP (R347). -/
def execOffStep (rail : Nat) (s : State) : Host.Outcome State Fault Refusal := onDp (fun _ d => railOff rail d) s

/-- PS_PG[i] after its enable went low (R347): one that still asserts at 10 ms is recorded as faulty. -/
def railChecked (i : Nat) (pg : Bool) (d : Dp) : Dp :=
  if !(d.sup.downActive || d.sup.recordDue) || 12 ≤ i || d.sup.psEn.getLsbD i then d
  else if pg then { d with sup := { d.sup with faulty := setBit d.sup.faulty i } }
  else { d with sup := { d.sup with pg := clrBit d.sup.pg i } }

/-- RAIL_OFF_CHECK (R347). -/
def execRailOffCheck (rail : Nat) (pg : Bool) (s : State) : Host.Outcome State Fault Refusal :=
  onDp (fun _ d => railChecked rail pg d) s

/-- Whether the power-down record may be written (R361). -/
def recordReady (c : Ctl) (d : Dp) : Bool :=
  d.sup.recordDue && d.sup.mode = .off && (usedRails c).all fun i => !d.sup.pg.getLsbD i || d.sup.faulty.getLsbD i

/-- POWER_DOWN_RECORD (R361). -/
def execPowerDownRecord (s : State) : Host.Outcome State Fault Refusal :=
  onDp (fun c d =>
    if recordReady c d then
      let d1 := writePdRec false d
      { d1 with sup := { d1.sup with recordDue := false } }
    else d) s

/-- Sectors of a merge-buffer entry as the drain logs them (R107, R111): the ciphertext of R91, a poisoned sector as
zeros. -/
def drainEntry (d : Dp) (e : MEntry) : List DrainSector :=
  ((List.range 4).filter fun k => e.host.getLsbD k).map fun k =>
    let poison := e.poison.getLsbD k
    ⟨lineSec e.line k, poison, e.slot, xtsSector (slotKeys d e.slot) e.line k (if poison then 0 else e.sector k)⟩

/-- Dirty sectors of a line-cache way as the drain logs them. -/
def drainWay (d : Dp) (key : Nat) : List DrainSector :=
  let w := getWay d key
  let l := lineOfWay key w
  ((List.range 4).filter fun k => w.sd.getLsbD k).map fun k =>
    let poison := w.poison.getLsbD k
    ⟨lineSec l k, poison, w.slot, xtsSector (slotKeys d w.slot) l k (if poison then 0 else w.sector k)⟩

/-- Every sector of the persistence domain in the order of R111: the sectors held for their key slot, the merge buffer in
order of entry creation, the dirty lines. -/
def drainSectors (d : Dp) : List DrainSector :=
  d.sec.heldSectors ++ d.mrg.entries.flatMap (drainEntry d) ++ (dirtyWays d).flatMap (drainWay d)

/-- The stripes of the intent records (R93, R127). -/
def drainIntents (d : Dp) : List Stripe :=
  (d.mrg.deltas.map (·.stripe) ++ (d.mh.rewrites.filter fun r => r.inPlace).map (·.src) ++ storeIntents d).foldl (fun l s => addOnce s l) []

/-- Cut a list into pieces of n. -/
def pieces {α : Type} (n : Nat) : Nat → List α → List (List α)
  | 0, _ => []
  | k + 1, l => if l.isEmpty then [] else l.take n :: pieces n k (l.drop n)

/-- The type 4 and type 3 stripes of a drain, in the order of R111. -/
def drainPlan (d : Dp) (no : Nat) : List JBody :=
  let i := drainIntents d
  let s := drainSectors d
  (pieces 496 i.length i).map (JBody.intents no) ++ (pieces 55 s.length s).map (JBody.sectors no)

/-- The number of a drain: the sequence number of its first stripe (log entry 33). -/
def drainNo (d : Dp) : Nat := d.sup.drainSeq.getD (d.jrn.seq + 1)

/-- The next stripe of phase B (R111): a change-stripe buffer, else the next of the plan, which is made once they are
written. What is released meanwhile stays in it. -/
def drainNext (d : Dp) : Option (Dp × JBody) :=
  if d.jrn.full ≠ [] then some ({ d with jrn := { d.jrn with full := [] } }, .change d.jrn.full)
  else if d.jrn.open_ ≠ [] then some ({ d with jrn := { d.jrn with open_ := [] } }, .change d.jrn.open_)
  else if d.jrn.late ≠ [] then
    some ({ d with jrn := { d.jrn with late := d.jrn.late.drop 248 } }, .change (d.jrn.late.take 248))
  else match d.jrn.plan.getD (drainPlan d (drainNo d)) with
    | [] => none
    | b :: l => some ({ d with jrn := { d.jrn with plan := some l } }, b)

/-- Log up to n stripes of a wave. -/
def drainWave : Nat → Dp → Dp
  | 0, d => d
  | n + 1, d => match drainNext d with
    | none => d
    | some x =>
      let d1 := x.1
      drainWave n (appendStripe x.2 { d1 with sup := { d1.sup with
        drainSeq := some (drainNo d1), drainStripes := d1.sup.drainStripes + 1 } })

/-- Whether phase A of a drain is over and no wave is under way (R110): every accepted request has its answer, the
programmes in flight and the last wave have verified, and no mapping line is pinned. -/
def drainQuiet (d : Dp) : Bool :=
  d.sup.mode = .drain && !d.sup.downActive && d.acc.pend.all (fun p => p.ans.isSome) && d.mrg.progs.all (·.st = .worn) &&
  !(d.map.cache.any fun m => m.pinned)

/-- G of R112: DRN_CTL.width stripes at a time. -/
def drainG (c : Ctl) : Nat := max 1 (rg c 0xC0840 0 3)

/-- DRAIN_LOG (R111): the next wave of phase B. -/
def execDrainLog (held : List HeldEcc) (s : State) : Host.Outcome State Fault Refusal :=
  onDp (fun c d => if drainQuiet d then drainWave (drainG c) (if d.jrn.plan.isNone then heldEccs c held d else d) else d) s

/-- Issue the programmes of a journal stripe, all members together (R110). -/
def issueStripe (c : Ctl) (seq : Nat) (d : Dp) : Dp :=
  let mine := fun (p : Prog) => match p.kind with
    | .journal n _ => n = seq
    | _ => false
  dropProgs mine ((d.mrg.progs.filter mine).foldl (fun d p => wholePrg c (p.set, p.row, p.chan) p.image none (noteMeta p d)) d)

/-- A page of the drain's core sample is written: on the media by the steps of R295, whose programmes are issued as they come. -/
def drainPage (c : Ctl) (x : Nat × BitVec 2048) (d : Dp) : Dp :=
  let step := fun (n : Nat) (d : Dp) =>
    let d1 := storeStep n x.1 x.2 d
    dropProgs (storeProg fun _ => true) ((d1.mrg.progs.filter (storeProg fun _ => true)).foldl (fun d p =>
      wholePrg c (p.set, p.row, p.chan) p.image none (noteMeta p d)) d1)
  commitPage x.1 x.2 (if onMedia d x.1 then step 3 (step 2 (step 1 d)) else d)

/-- The drain's core sample, written whole within phase C, with the rails found faulty so far (R110, R335, R336). -/
def drainSample (c : Ctl) (drainCause : Nat) (d : Dp) : Dp :=
  let r := takeSample 1 drainCause d.sup.faulty.toNat d
  (samplePages r.1).foldl (fun d p => drainPage c p d) r.2

/-- Phase C of a drain (R110): the seal stripe, the drains counter and a core sample, then the power-down sequence. A seal
that fails verify is written again as the next stripe (R111). It waits for the store (R298), and until its partitions are
free (R223). Nothing reaches the supervisor while the isolation cells
hold (R18). -/
def sealDrain (verified : Bool) (c : Ctl) (d : Dp) : Ctl × Dp :=
  if !drainQuiet d || !d.sup.isoReleased || (drainNext d).isSome || d.pst.writes ≠ [] || d.pst.storing ≠ [] then (c, d)
  else
    let us := elapsed d.sup.drainAt d.sup.clock / 1000
    let d1 := appendStripe (.sealRec (drainNo d) d.sup.drainStripes us d.sup.drainCause.toNat) d
    let d2 := issueStripe c d1.jrn.seq d1
    if !(d1.mrg.progs.all fun p => p.st ≠ .pending || partitionFree d p.chan p.set) then (c, d)
    else if verified then
      (cntInc 2 c, beginDown c d2.sup.cause (drainSample c d2.sup.drainCause.toNat (stripeVerified d1.jrn.seq d2)))
    else match findStripe d2 d1.jrn.seq with
      | some x => (c, markRetired (journalStripe d2 x.loc) 0x1F
          { d2 with jrn := { d2.jrn with seq := d.jrn.seq, stripes := d2.jrn.stripes.filter fun y => y.seq ≠ d1.jrn.seq } })
      | none => (c, d2)

/-- SEAL_RECORD (R110). -/
def execSealRecord (verified : Bool) (s : State) : Host.Outcome State Fault Refusal := onBoth (sealDrain verified) s

/-- THERMAL_LATCH_CLEAR (R378). -/
def execThermalLatchClear (sensor31 : BitVec 16) (s : State) : Host.Outcome State Fault Refusal :=
  onDp (fun _ d =>
    let cool := if d.sup.s31Broken then 600000000000 ≤ elapsed d.sup.offSince d.sup.clock else sensor31.toInt < tWarn
    if d.sup.aux && d.sup.mode = .off && cool && (d.sup.thermEvent || d.sup.thermAuxOnly) then
      { d with sup := { d.sup with thermLatch := false, thermAuxOnly := false, thermEvent := false } }
    else d) s

/-- A request for DORMANT (R342, R343): it waits for the conditions of R352, unless a warm reset or an exit from FALLOW is under
way. -/
def requestDormant (cause : BitVec 8) (d : Dp) : Dp :=
  if serving d && d.sup.isoReleased && !d.sup.warm && !d.sup.fallowing && d.sup.dormReq.isNone then
    { d with sup := { d.sup with dormReq := some cause } } else d

/-- The link, in the L1 that DORMANT has initiated, enters L1.2 once the host permits it, or L1.1 where it permits no more (R241,
R244): CLKREQ_N is deasserted. -/
def enterSub (permits : LinkSub) (d : Dp) : Dp :=
  if permits ≠ .l1 && d.hif.l1 && d.sup.mode = .dormant && !d.sup.waking then
    { d with hif := { d.hif with sub := if permits = .l12 then 2 else 1, clkReq := false } }
  else d

/-- D3HOT (R244): a transition to D3hot is a request to enter DORMANT. In DORMANT it permits L1.2 (log entry 141). -/
def execD3hot (s : State) : Host.Outcome State Fault Refusal :=
  onDp (fun _ d =>
    if linkUp d then enterSub .l12 (requestDormant 0x0E { d with hif := { d.hif with d3 := true } }) else d) s

/-- The conditions of R352 and R391 for a waiting DORMANT request. -/
def dormantReady (d : Dp) : Bool :=
  d.sup.dormReq.isSome && serving d && d.sup.isoReleased && !d.sup.warm && !d.mh.rebActive && !d.mh.reanchor &&
  !(d.mh.work.any fun w => 1 ≤ w.prio && w.prio ≤ 4) && d.lc.cur.isNone && d.lc.queue = [] && d.que.cur.isNone &&
  d.sec.heldSectors = []

/-- Steps 3 to 6 of R352, with R213: engines stop, the processors halt, the HBM is repaired and enters self-refresh, MODE_3 = 1 is on its way to
every package (R236), VDD_CORE falls by the steps of R25, and the SW64 initiates L1 (R244). -/
def enterDormant (d : Dp) : Dp :=
  let mode := d.sup.mode
  let d1 := setMode .dormant (d.sup.dormReq.getD 0x0D) (dropInternal (applyRepairs false (stopBackground d)))
  let d2 := everyPackage (fun w => .mdw w 3 1) (everyChannel (fun x => { x with standby := true }) d1)
  { d2 with
    sup := { d2.sup with back := mode, entering := false, dormReq := none }
    hbm := { d2.hbm with state := 2, hostAct := [], bgAct := [], queue := [], wait := [], wins := [] }
    fab := { d2.fab with target := 550, cause := 2 }
    lc := { d2.lc with flush := false }
    que := { d2.que with mps := d2.que.mps.map fun m => if m = 0 then 2 else m }
    mh := { d2.mh with dormantAt := d2.now }
    hif := { d2.hif with l1 := linkUp d2, ltssm := if linkUp d2 then 5 else d2.hif.ltssm } }

/-- Whether a media operation is no hindrance to standby (R236): it has not been issued and is given up, or it is over. -/
def mopIdle (d : Dp) (m : Mop) : Bool := staleMop d m || (internalMop d m && m.issued.isNone)

/-- Step 2 of R352 is over: nothing is left in the persistence domain, and no operation is outstanding at the media. -/
def dormantClean (d : Dp) : Bool := domainEmpty d && mapSettled d && d.mrg.progs.all (·.st = .worn) && d.mops.all (mopIdle d)

/-- The entry to DORMANT (R352): the entry begins once its conditions hold (credits withheld, the debug session closed, cleaning
started), and completes once the persistence domain is clean. In DORMANT the link enters the L1 substate that the host permits. -/
def dormantEntry (permits : LinkSub) (d : Dp) : Dp :=
  let d1 := if d.sup.entering || !dormantReady d then d
    else closeDebug { d with sup := { d.sup with entering := true }, lc := { d.lc with flush := true } }
  enterSub permits (if d1.sup.entering && serving d1 && dormantClean d1 then enterDormant d1 else d1)

/-- DORMANT_ENTRY (R352). -/
def execDormantEntry (permits : LinkSub) (s : State) : Host.Outcome State Fault Refusal :=
  onDp (fun _ d => dormantEntry permits d) s

/-- The cause of a DORMANT exit (R341). -/
def wakeCause : WakeTrigger → BitVec 8
  | .horizonRefresh => 0x13
  | _ => 0x12

/-- An exit trigger of R354: it cancels a request that waits or an entry in progress (R352), or begins the exit. -/
def dormantExit (c : Ctl) (t : WakeTrigger) (d : Dp) : Dp :=
  if d.sup.downActive then d
  else if d.sup.mode = .dormant then beginWake c (wakeCause t) d
  else if d.sup.mode = .serve ∨ d.sup.mode = .fallow then cancelEntry c d
  else d

/-- DORMANT_EXIT (R354). -/
def execDormantExit (trigger : WakeTrigger) (s : State) : Host.Outcome State Fault Refusal :=
  onDp (fun c d => dormantExit c trigger d) s

/-- The horizon ticks; in DORMANT the first page queued for refresh begins the exit (R132, R135). -/
def horizonTicks (c : Ctl) (d : Dp) : Dp :=
  let d1 := tickHorizon c d
  if d1.sup.mode = .dormant && d1.mh.work ≠ [] then dormantExit c .horizonRefresh d1 else d1

/-- HORIZON_TICK (R132). -/
def execHorizonTick (s : State) : Host.Outcome State Fault Refusal := onDp horizonTicks s

/-- RETURN_TO_D0 (R244, R354). -/
def execReturnToD0 (s : State) : Host.Outcome State Fault Refusal :=
  onDp (fun c d => if d.hif.d3 then dormantExit c .returnToD0 { d with hif := { d.hif with d3 := false } } else d) s

/-- A request held in DORMANT is handled once service resumes (R253, R354): its latency runs from its arrival, and a read
is a fault read (R75). -/
def resumeHeld (c : Ctl) (r : Stamp × HeldReq) (d0 : Dp) : Dp :=
  let line := fun (h : BitVec 52) => (hdmDecode d0 h).map fun x => dpaSec x.2
  let d := { d0 with acc := { d0.acc with lateSince := some r.1 } }
  let d1 := match r.2 with
    | .rd h => doRead c h (line h) .ok .ok d
    | .spec h => doSpec c (line h) d
    | .inv h => doInv c h (line h) d
    | .wr h v p => doWrite c h (line h) v p .ok d
    | .wrPtl h v en p => doPartial c h (line h) v en p .ok d
  { d1 with acc := { d1.acc with lateSince := none } }

/-- A request held in DORMANT meets the drain that follows the wake (R253). -/
def drainHeld (c : Ctl) (r : Stamp × HeldReq) (d : Dp) : Dp :=
  match r.2 with
  | .rd h => answerRejected c (hpaLine h) false (.memData (hpaLine h) 0 true) (countDrain c d)
  | .spec _ => freeAtOnce c (countDrain c d)
  | .inv h => answerRejected c (hpaLine h) false (.cmp (hpaLine h)) (countDrain c d)
  | .wr _ _ _ => freeAtOnce c (countDrain c d)
  | .wrPtl _ _ _ _ => freeAtOnce c (countDrain c d)

/-- Whether the exit steps of R236 are over: the writes of MODE_3 and the re-centring of each read eye have been issued. -/
def mediaAwake (d : Dp) : Bool := d.mops.all fun m => m.issued.isSome || (match m.kind with
  | .mdw _ _ _ => false
  | .train _ _ _ => false
  | _ => true)

/-- The units serve again after DORMANT (R214, R236): the HBM starts its rotation, the media have left standby, the link has left
L1, and the processors run on (R352). -/
def unitsAwake (d : Dp) : Dp :=
  let d1 := startRotation (everyChannel (fun x => { x with standby := false }) (resumeHalted d))
  { d1 with
    sup := { d1.sup with waking := false }
    hbm := { d1.hbm with state := 1 }
    mh := { d1.mh with lapDormant := d1.mh.lapDormant + elapsed d1.mh.dormantAt d1.now }
    hif := { d1.hif with l1 := false, ltssm := if linkUp d1 then 3 else d1.hif.ltssm } }

/-- The requests held in DORMANT are handled in the order of their arrival; each keeps its pool entry until then. -/
def resumeAll (c : Ctl) : List (Stamp × HeldReq) → Dp → Dp
  | [], d => { d with acc := { d.acc with held := [] } }
  | r :: rs, d => resumeAll c rs (resumeHeld c r { d with acc := { d.acc with held := rs } })

/-- Service resumes after DORMANT (R354): held requests run, and credits are advertised again. -/
def resumeService (c : Ctl) (d : Dp) : Dp :=
  let d2 := resumeAll c d.acc.held (setMode d.sup.back d.sup.exitCause d)
  if d2.thm.cut = 0 then returnEntries c d2.hif.unreturned d2 else d2

/-- The drain that ended DORMANT begins (R342, R354); the requests held meet it. -/
def drainService (c : Ctl) (cause : BitVec 8) (d : Dp) : Dp :=
  d.acc.held.foldl (fun d r => drainHeld c r d) (beginDrain c cause
    { d with acc := { d.acc with held := [] }, sup := { d.sup with drainAfterWake := none } })

/-- Whether the exit from DORMANT may end: VDD_CORE has reached 0.70 V, and the exit steps of the media are over (R354). -/
def wakeDone (d : Dp) : Bool :=
  d.sup.mode = .dormant && d.sup.waking && !d.sup.downActive && decide (700 ≤ d.fab.setPoint) && mediaAwake d

/-- The exit from DORMANT is complete (R354): the drain or the warm RISE that ended DORMANT begins, or service resumes. -/
def dormantOver (c : Ctl) (d : Dp) : Ctl × Dp :=
  if wakeDone d then
    match d.sup.drainAfterWake with
    | some k => (c, drainService c k (unitsAwake d))
    | none => if d.sup.warm then startWarmRise 0x07 c (unitsAwake d) else (c, resumeService c (unitsAwake d))
  else (c, d)

/-- DORMANT_EXIT_COMPLETE (R354). -/
def execDormantExitComplete (s : State) : Host.Outcome State Fault Refusal := onBoth dormantOver s

end Sys2Proof.Machine
end

