-- ==== Sys2Proof/Machine/Component.lean ====
section
/-! DEFINITION. The HDM decoders (R258 to R261), and the CXL component registers and device capabilities array of R248, laid out
as CXL 3.1 does (PRESUMED, log entry 16). -/

namespace Sys2Proof.Machine

/-- The host capacity at this RISE (R3, R4, R211, R406). -/
def hostCapacity (c : Ctl) (d : Dp) : Nat :=
  if c.returnedFuse || d.pst.sec.dbgReturned || d.hbm.trainFail then 0 else hostBytes (cfgN d)

/-- Interleave ways of R258. -/
def iwOk (iw : Nat) : Bool := iw ∈ [1, 2, 3, 4, 6, 8, 12, 16]

/-- Interleave granularities of R258. -/
def igOk (ig : Nat) : Bool := ig ∈ [256, 512, 1024, 2048, 4096, 8192, 16384]

/-- Decoder n of a list. -/
def decoderAt (d : Dp) (n : Nat) : Decoder := d.hif.decoders.getD n {}

/-- The checks of R259 on a decoder to be committed. -/
def commitOk (c : Ctl) (d : Dp) (n : Nat) (x : Decoder) : Bool :=
  let d1 := { d with hif := { d.hif with decoders := setAt d.hif.decoders n x } }
  iwOk x.iw && igOk x.ig && x.base.toNat % (268435456 * x.iw) = 0 && x.size.toNat % (268435456 * x.iw) = 0 &&
  (List.range 4).all (fun k => (decoderAt d k).committed = decide (k < n)) &&
  rangeStart d1 n + x.size.toNat / x.iw ≤ hostCapacity c d

/-- A decoder's registers are written and Commit is set (R258, R259, R261). A committed decoder keeps its range until its
Commit is cleared. -/
def commitsDecoder (n : Nat) (x : Decoder) (c : Ctl) (d : Dp) : Dp :=
  if 4 ≤ n || (decoderAt d n).committed || !linkUp d then d
  else
    let d1 := { d with hif := { d.hif with decoders := setAt d.hif.decoders n x } }
    let y := if commitOk c d n x then { x with committed := true, start := rangeStart d1 n } else { x with err := true }
    { d with hif := { d.hif with decoders := setAt d.hif.decoders n y } }

/-- A decoder's Commit is cleared (R259, R261). -/
def clearsDecoder (n : Nat) (d : Dp) : Dp :=
  let x := decoderAt d n
  if 4 ≤ n || (x.committed && x.lock) || !linkUp d then d
  else { d with hif := { d.hif with decoders := setAt d.hif.decoders n { x with committed := false, err := false } } }

/-- Offsets, from the cachemem primary range, of the RAS, link, HDM decoder and IDE capability structures, with their capability
IDs. -/
def componentCaps : List (Nat × Nat) := [(2, 0x40), (4, 0xA0), (5, 0x100), (7, 0x1A0)]

/-- The code of interleave ways in a decoder's control register. -/
def iwCode (iw : Nat) : Nat :=
  if iw = 3 then 8 else if iw = 6 then 9 else if iw = 12 then 10 else Nat.log2 iw

/-- The interleave ways of a code; 0 where the code names none. -/
def iwOfCode (k : Nat) : Nat := if k ≤ 4 then 2 ^ k else if k = 8 then 3 else if k = 9 then 6 else if k = 10 then 12 else 0

/-- A decoder's control register: granularity, ways, Lock On Commit, Commit, Committed, Error Not Committed (R258). -/
def decoderControl (x : Decoder) : BitVec 32 :=
  BitVec.ofNat 32 (Nat.log2 (x.ig / 256) + 16 * iwCode x.iw + 256 * b2n x.lock + 512 * b2n (x.committed || x.err) +
    1024 * b2n x.committed + 2048 * b2n x.err + 4096)

/-- A word of decoder n's registers: base, size, control, DPA skip. -/
def decoderWord (x : Decoder) (o : Nat) : BitVec 32 :=
  match o with
  | 0x00 => x.base.setWidth 32 &&& 0xF0000000
  | 0x04 => (x.base >>> (32 : Nat)).setWidth 32
  | 0x08 => x.size.setWidth 32 &&& 0xF0000000
  | 0x0C => (x.size >>> (32 : Nat)).setWidth 32
  | 0x10 => decoderControl x
  | 0x14 => x.skip.setWidth 32 &&& 0xF0000000
  | 0x18 => (x.skip >>> (32 : Nat)).setWidth 32
  | _ => 0

/-- A word of the HDM decoder capability (R258): four decoders, address bits 11 to 8 and 14 to 12, poison on a decode error (R253),
3, 6, 12 and 16 ways; the decoders from offset 0x10. -/
def hdmWord (d : Dp) (o : Nat) : BitVec 32 :=
  if o = 0 then 0x1F02
  else if o = 4 then 3
  else if 0x10 ≤ o ∧ o < 0x90 then decoderWord (decoderAt d ((o - 0x10) / 32)) ((o - 0x10) % 32)
  else 0

/-- A word of the RAS capability (R255). -/
def rasWord (x : Ras) (o : Nat) : BitVec 32 :=
  match o with
  | 0x00 => x.unc
  | 0x04 => x.uncMask
  | 0x08 => x.uncSev
  | 0x0C => x.cor
  | 0x10 => x.corMask
  | _ => 0

/-- A word of the link capability: the M2S credits of R251 that this side gives out and holds back, and the S2M credits it holds. -/
def linkWord (d : Dp) (o : Nat) : BitVec 32 :=
  let put := fun (req data : Nat) => BitVec.ofNat 64 (req % 1024 * 2 ^ 30 + data % 1024 * 2 ^ 40)
  let v := if o / 8 = 2 then put 256 256 else if o / 8 = 3 then put d.hif.unreturned 0 else if o / 8 = 4 then put d.hif.ndr d.hif.drs
    else 0
  v.extractLsb' (32 * (o / 4 % 2)) 32

/-- A word of the IDE capability (R256): containment mode only, the state of both directions, a failed check. -/
def ideWord (d : Dp) (o : Nat) : BitVec 32 :=
  let s := if d.hif.ideSecure then 8 else if d.hif.ideFailed then 4 else 0
  match o with
  | 0x00 => 3
  | 0x08 => BitVec.ofNat 32 (s + 16 * s)
  | 0x0C => BitVec.ofNat 32 (b2n d.hif.ideFailed)
  | _ => 0

/-- A word of the cachemem primary range at component offset 0x1000 (R248): the capability header, the pointers and the four
structures. -/
def componentWord (d : Dp) (o : Nat) : BitVec 32 :=
  if o = 0 then 0x04110001
  else if o ≤ 16 then
    let x := componentCaps.getD (o / 4 - 1) (0, 0)
    BitVec.ofNat 32 (x.1 + 2 ^ 16 + x.2 * 2 ^ 20)
  else if 0x40 ≤ o ∧ o < 0x98 then rasWord d.hif.ras (o - 0x40)
  else if 0xA0 ≤ o ∧ o < 0xD8 then linkWord d (o - 0xA0)
  else if 0x100 ≤ o ∧ o < 0x190 then hdmWord d (o - 0x100)
  else if 0x1A0 ≤ o ∧ o < 0x1C8 then ideWord d (o - 0x1A0)
  else 0

/-- The device capabilities array (R248): a memory device with three capabilities, each with its offset and length: device status,
primary mailbox, memory device status. -/
def deviceCaps : List (Nat × Nat × Nat) := [(1, 0x100, 8), (2, 0x200, 0x10020), (0x4000, 0x10000, 8)]

/-- A word of the device capabilities array. -/
def deviceCapWord (o : Nat) : BitVec 32 :=
  if o = 0 then 0x01010000
  else if o = 4 then 3
  else if o < 0x10 then 0
  else
    let x := deviceCaps.getD (o / 16 - 1) (0, 0, 0)
    match o % 16 with
    | 0 => BitVec.ofNat 32 (x.1 + 2 ^ 16)
    | 4 => BitVec.ofNat 32 x.2.1
    | 8 => BitVec.ofNat 32 x.2.2
    | _ => 0

/-- The low or the high word of an address replaced. -/
def putHalf (high : Bool) (v : BitVec 32) (x : BitVec 52) : BitVec 52 :=
  if high then v.setWidth 52 <<< (32 : Nat) ||| (x.setWidth 32).setWidth 52
  else (x >>> (32 : Nat)) <<< (32 : Nat) ||| v.setWidth 52 &&& 0xF0000000

/-- A write of decoder n's registers (R258, R259, R261): Commit set commits what the registers hold, Commit clear ends it. A
committed decoder's fields are not written. -/
def writeDecoder (n o : Nat) (v : BitVec 32) (c : Ctl) (d : Dp) : Dp :=
  let x := decoderAt d n
  let put := fun (y : Decoder) =>
    if x.committed then d else { d with hif := { d.hif with decoders := setAt d.hif.decoders n y } }
  match o with
  | 0x00 => put { x with base := putHalf false v x.base }
  | 0x04 => put { x with base := putHalf true v x.base }
  | 0x08 => put { x with size := putHalf false v x.size }
  | 0x0C => put { x with size := putHalf true v x.size }
  | 0x10 =>
    let y := { x with ig := 256 * 2 ^ (v.extractLsb' 0 4).toNat, iw := iwOfCode (v.extractLsb' 4 4).toNat, lock := v.getLsbD 8 }
    if v.getLsbD 9 then commitsDecoder n y c d
    else if x.committed then clearsDecoder n d
    else put { y with err := false }
  | 0x14 => put { x with skip := putHalf false v x.skip }
  | 0x18 => put { x with skip := putHalf true v x.skip }
  | _ => d

/-- A write of the cachemem primary range: the RAS status bits are cleared by ones, its masks are kept, and the decoders are
written. -/
def writeComponent (o : Nat) (v : BitVec 32) (c : Ctl) (d : Dp) : Dp :=
  let ras := fun (r : Ras) => { d with hif := { d.hif with ras := r } }
  let x := d.hif.ras
  match o with
  | 0x40 => ras { x with unc := x.unc &&& ~~~v }
  | 0x44 => ras { x with uncMask := v }
  | 0x48 => ras { x with uncSev := v }
  | 0x4C => ras { x with cor := x.cor &&& ~~~v }
  | 0x50 => ras { x with corMask := v }
  | _ => if 0x110 ≤ o ∧ o < 0x190 then writeDecoder ((o - 0x110) / 32) ((o - 0x110) % 32) v c d else d

end Sys2Proof.Machine
end

