-- ==== Sys2Proof/Machine/RegRead.lean ====
section
/-! DEFINITION. What every register reads as (R427), in the full view and in the host view of R330, the latches of
R431, and the read-to-clear fields (R9). -/

namespace Sys2Proof.Machine

/-- A value placed at a field. -/
def fv (lo w v : Nat) : Nat := v % 2 ^ w * 2 ^ lo

/-- A one-bit field. -/
def fb (lo : Nat) (b : Bool) : Nat := b2n b * 2 ^ lo

/-- The kinds whose messages are read-related (R330), whatever their source. -/
def readRelatedKind (k : BitVec 6) : Bool := k = 0x01 || k = 0x02 || k = 0x03 || k = 0x18 || k = 0x19

/-- Whether a message is read-related (R330). -/
def readRelated (m : Msg) : Bool := readRelatedKind m.kind || m.source = 0x5A

/-- A message in its host view (R330). -/
def hostMsg (m : Msg) : Msg := if readRelated m then { m with source := 0x5B, address := 0, aux := 0 } else m

/-- A message as 64 bits (R310). -/
def msgBits (m : Msg) : BitVec 64 := m.source ++ m.kind ++ m.severity ++ m.address ++ m.aux

/-- The code of a security state (R387). -/
def SecSt.code : SecSt → Nat
  | .disabled => 0
  | .unlocked => 1
  | .locked => 2
  | .frozen => 3
  | .exhausted => 4

/-- The debug state (R399). -/
def dbgState (c : Ctl) (d : Dp) : DbgSt :=
  if c.returnedFuse || d.pst.sec.dbgReturned then .returned else if d.sec.open_ then .opened else .sealed

/-- The code of a debug state (R409). -/
def DbgSt.code : DbgSt → Nat
  | .sealed => 0
  | .opened => 1
  | .returned => 2

/-- The thousandths done of a total, 0 to 999. -/
def thousandths (done total : Nat) : Nat := min 999 (done * 1000 / max 1 total)

/-- Progress of the harrow's lap (R158): the slots of the channels in service already passed. -/
def lapProgress (d : Dp) : Nat :=
  let t := stripeSets (cfgN d) * 2 ^ 24
  let l := (List.range 17).filter fun k => !(chanOf d k).isolated
  thousandths (l.foldl (fun a k => a + if d.mh.hrwDone.getLsbD k then t else min t (smGet 0 d.mh.hrwNext k)) 0)
    (t * l.length)

/-- Progress of the rebuild (R158): the rows its cursors have passed. -/
def rebuildProgress (d : Dp) : Nat :=
  if !d.mh.rebActive then 0
  else
    let all := (rebuilds d).flatMap fun r => (rebuildSets d r.2).map fun s => min (2 ^ 24) (cursorOf d s r.1)
    thousandths (all.foldl (· + ·) 0) (2 ^ 24 * all.length)

/-- Pages queued for refresh or re-anchor rewrite (HZN_PEND). -/
def pendingPages (d : Dp) : Nat :=
  let aged := fun (k : WorkKind) => match k with
    | .refresh _ => true
    | .reanchor _ => true
    | _ => false
  (d.mh.work.filter fun w => aged w.kind).length + (d.mh.rewrites.filter fun r => aged r.why).length

/-- Ways of the line cache in a category of LC_COUNT_k (R193). -/
def wayCount (d : Dp) (k : Nat) : Nat :=
  match k with
  | 0 => (d.lc.ways.filter fun w => w.2.valid).length
  | 1 => (d.lc.ways.filter fun w => w.2.sd ≠ 0).length
  | 2 => (d.lc.ways.filter fun w => w.2.lock).length
  | _ => d.lc.out.length

/-- The local first-error set selected by FLT_FE_SEL, hidden from the host while it holds a read-related kind (R330). -/
def selectedFe (c : Ctl) (d : Dp) (host : Bool) : Option FirstErr :=
  let src := rg c 0x30800 0 8
  match smGet none d.flt.fe src with
  | none => none
  | some x => if host && (src ≤ 0x10 || src = 0x5A) && (readRelatedKind x.kind || src = 0x5A) then none else some x

/-- Counter n of a unit in a bank, through the PMU BAR: an outcome event of a channel unit reads as its total over all
17 channel units (R330): what the unit itself counted, and what the others did meanwhile (log entry 160). -/
def pmuView (c : Ctl) (bank : SMap (BitVec 48)) (others : SMap Nat) (u n : Nat) (host : Bool) : Nat :=
  let own := (smGet 0 bank (u * 8 + n)).toNat
  if host && 1 ≤ u && u ≤ 17 && outcomeEvent (rg c (evtOff u n) 0 8) then (own + smGet 0 others (u * 8 + n)) % 2 ^ 48 else own

/-- A count summed over all 17 channels in the host view (R330). -/
def chanCount (d : Dp) (k : Nat) (host : Bool) (f : Chan → Nat) : Nat :=
  if host then d.chans.foldl (fun a x => a + f x) 0 else f (chanOf d k)

/-- The throttle stage (R380): 0 none, 1 voltage only, 2 pacing. -/
def throttleStage (c : Ctl) (d : Dp) : Nat := if 0 < d.thm.cut then 2 else if d.thm.vTarget < vset c then 1 else 0

/-- The outcome bits of the power-down record found at this RISE (R361, R363). -/
def pdrecBits (d : Dp) : Nat :=
  fb 31 d.sup.pdValid + fb 30 d.sup.pdAux + fb 29 d.sup.pdDeadline + fv 16 8 d.sup.pdCause.toNat +
  fv 12 4 (sat 15 d.sup.pdAttempts) + fv 0 12 d.sup.pdFaulty.toNat

/-- Whether an erase runs (R392); DBG_RETURN, which takes steps 1 and 3 of one, is none. -/
def erasing (d : Dp) : Bool := d.sec.erase && d.sec.retStep ≠ 1

/-- Registers of the GLB, SUP, THM, FLT, REC, PST and SEC windows whose value the hardware makes, as the whole
register; none where the stored words are the value. -/
def liveA (c : Ctl) (d : Dp) (host : Bool) (h : RegHit) : Option Nat :=
  match h.reg.name with
  | .glbId => some (0x64 * 2 ^ 16 + fv 8 8 0xA1 + fv 4 4 (cfgN d))
  | .glbStatus => some (fb 31 c.cfgLocked + fb 30 c.writesOpen + fv 20 4 d.glb.riseStep + 1)
  | .glbDsn => some Config.dsn.toNat
  | .glbAccErr => some (fv 24 8 d.glb.accTimeout + fv 16 8 d.glb.accSize + fv 8 8 d.glb.accHeld + fv 0 8 d.glb.accReserved)
  | .supStat =>
    some (fv 29 3 (if d.sup.mode = .off && d.sup.cause = 0 then 1 else d.sup.mode.code) + fv 16 8 d.sup.cause.toNat +
      fb 15 d.sup.restart + fv 0 12 d.sup.pg.toNat)
  | .supPdrec => some (pdrecBits d)
  | .supEvt => some (fv 24 8 d.sup.railFaults + fv 16 8 d.sup.mrCount + fv 8 8 d.sup.btnIgnored + fv 0 8 d.sup.pwrFails)
  | .thmStat =>
    some (fv 30 2 (throttleStage c d) + fb 29 d.thm.hold.isSome + fb 28 d.thm.guard + fv 21 7 d.thm.cut +
      fv 0 16 d.thm.tc.toNat)
  | .thmZone =>
    let z := d.thm.zones.getD h.i {}
    some (fb 31 z.valid + fb 30 z.proxy + fv 0 16 z.value.toNat)
  | .thmSensBad =>
    some ((List.range 32).foldl (fun a j => a + fb j (smGet {} d.thm.sensors (32 * h.i + j)).broken) 0)
  | .fltStat => some (fb 31 d.flt.msgLost + fb 30 d.flt.netParity + fv 16 8 d.flt.withheld + fv 0 10 d.flt.inq.length)
  | .fltReceived => some d.flt.received
  | .fltRecentSeq => some d.flt.seq.toNat
  | .fltSticky => some (if host then hostSticky d.flt.sticky d.flt.stickyHv h.i else smGet 0 d.flt.sticky h.i).toNat
  | .fltSevere => some (if host then hostSticky d.flt.severe d.flt.severeHv h.i else smGet 0 d.flt.severe h.i).toNat
  | .fltFeAddr => some (((selectedFe c d host).map fun x => x.address.toNat).getD 0)
  | .fltFeInfo => some (((selectedFe c d host).map fun x =>
      2 ^ 31 + fv 20 6 x.kind.toNat + fv 16 4 x.access.toNat + fv 8 8 x.master.toNat).getD 0)
  | .fltFeTs => some (((selectedFe c d host).map fun x => x.ts.toNat).getD 0)
  | .fltWdog => some d.flt.wdog.toNat
  | .fltRecent => some ((d.flt.recent[h.i]?.map fun x =>
      fb 127 x.severe + fv 64 63 x.stamp.toNat + (msgBits (if host then hostMsg x.msg else x.msg)).toNat).getD 0)
  | .recSeq => some d.rec_.seq.toNat
  | .recClear => some 0
  | .recSampleStat =>
    some (fb 31 (sampleBusy d) + fv 16 5 (validSamples d).length + fv 0 16 (((newestSample d).map (·.seq)).getD 0))
  | .recBkt => some (histBkt d h.i h.j)
  | .recExt => some (fv 64 64 (histLive d h.i).total + fv 32 32 (histMax d h.i).toNat + (histMin d h.i).toNat)
  | .pstStat =>
    some (fb 31 (decide (3 ≤ cfgN d)) + fb 30 (!d.pst.storing.isEmpty) +
      fv 17 10 (if 3 ≤ cfgN d then 0 else d.pst.changed.length) +
      fv 0 17 (if d.glb.riseStep < 6 then 0 else lastPage d + 1))
  | .pstCfgStat =>
    some (fv 30 2 d.pst.cfgState.toNat + fv 24 6 d.pst.cfgReason.toNat + fv 16 8 d.pst.cfgBad.toNat +
      fv 0 8 d.pst.cfgRecords.toNat)
  | .pstErr => some (fv 16 16 (sat 0xFFFF d.pst.corrected) + fv 8 8 (sat 0xFF d.pst.damagedCount))
  | .pstCntDamaged => some c.cntDamaged.toNat
  | .secState =>
    some (fb 31 (erasing d) + fv 16 8 d.sec.userLeft + fv 8 8 d.sec.masterLeft + fb 7 d.pst.sec.masterSet +
      fb 6 d.pst.sec.userSet + fv 4 2 (dbgState c d).code + fv 0 3 d.sec.st.code)
  | .secErase =>
    some (fb 31 (erasing d) + fb 30 d.sec.eraseCommitted + fv 28 2 d.sec.eraseKind.toNat +
      fv 0 10 (if d.sec.erase && d.sec.eraseKind = 3 then thousandths (eraseLow d) (2 ^ 24) else 0))
  | .secBind => some ((List.range 4).foldl (fun a n => a + fv (8 * n) 6 (d.sec.bind.getD n 0).toNat) 0)
  | .secBoot =>
    some (fv 16 4 Config.revokedFuses.toNat + fv 8 2 d.sec.bootKey.toNat + fb 5 d.sec.bFail + fb 4 d.sec.aFail +
      fv 2 2 (b2n d.pst.dev.fwSelect) + fv 0 2 d.sec.running.toNat)
  | .secDbg =>
    some (fb 31 d.sec.open_ + fb 30 d.sec.nonce.isSome + fb 29 d.sec.extest + fb 28 d.sec.extestRefused +
      fb 27 d.sec.denied + fv 8 8 d.sec.authFails + fv 0 8 d.sec.sessions)
  | _ => none

/-- Registers of the HIF, FAB, CCH, MAP, HBM, MCH and CMQ windows and of the PMU whose value the hardware makes. -/
def liveB (c : Ctl) (d : Dp) (host : Bool) (h : RegHit) : Option Nat :=
  match h.reg.name with
  | .hifLinkStat =>
    some (fb 31 d.hif.memActive + fb 30 d.hif.ideSecure + fv 28 2 d.hif.flit.toNat + fv 24 4 d.hif.rate.toNat +
      fv 16 5 d.hif.width.toNat + fv 0 3 d.hif.ltssm.toNat)
  | .hifLinkEvt => some (fv 24 8 d.hif.downgrades + fv 12 12 d.hif.recovery + fv 0 12 d.hif.replay)
  | .hifCredit =>
    some (fb 31 d.hif.withheld + fb 30 (decide (0 < d.thm.cut)) + fv 20 10 d.hif.hr + fv 10 10 d.hif.hw +
      fv 0 10 (outReads d + outWrites d))
  | .hifMemReject =>
    some (fv 24 8 d.hif.badOpcode + fv 16 8 d.hif.drainRej + fv 8 8 d.hif.undecoded + fv 0 8 d.hif.refused)
  | .hifS2mStall => some (fv 16 16 d.hif.stallMax + fv 0 16 d.hif.stallCount)
  | .ceilCtl => some 0
  | .ceilBreach => some d.ceil.breach
  | .ceilFaultReads => some d.ceil.faultReads
  | .ceilMax => some (sat 0xFFFF d.ceil.maxNs)
  | .ceilLast => some (fb 31 d.ceil.lastValid + sat 0xFFFF d.ceil.lastNs)
  | .ceilLastTs => some d.ceil.lastTs.toNat
  | .fabVcore => some (fv 20 10 d.fab.vread + fv 16 4 d.fab.cause.toNat + fv 0 10 (vset c))
  | .fabSpeed => some (match d.fab.speed.getD h.i none with
      | some f => 2 ^ 31 + f.toNat
      | none => 0)
  | .lcMntStat =>
    some (fb 31 d.lc.cur.isSome + fv 26 5 d.lc.queue.length + fv 24 2 d.lc.outcome.toNat + sat 0xFFFFFF d.lc.lines)
  | .lcCount => some (fv 0 18 (wayCount d h.i))
  | .pdOcc => some (fb 31 d.hif.withheld + fb 30 (byRoom c d) + fb 29 (byMerge d) + fv 0 20 (dSectors d))
  -- merge_free counts entries out of service as free, so that the sum of R193 holds (DEDUCED, log entry 140)
  | .pdRes => some (fv 16 13 (intents d) + fv 0 12 (3072 - d.mrg.entries.length))
  | .mrgStat =>
    let a := (d.mrg.entries.filter fun e => e.st = .assembling).length
    some (fv 16 12 a + fv 0 12 (d.mrg.entries.length - a))
  | .drnLast =>
    some (fb 31 d.jrn.lastValid + fb 30 d.jrn.lastClean + fv 27 3 d.jrn.lastCause.toNat +
      fv 14 13 (sat 0x1FFF d.jrn.lastUs) + sat 0x3FFF d.jrn.lastStripes)
  | .mapGeom => some (fv 16 8 (stripeSets (cfgN d)) + fv 8 4 (cfgN d) + 17)
  | .mapPagesMapped => some (fv 0 31 (pagesMapped d))
  | .mapFreeGeneral => some (fv 0 31 (freeGeneral d))
  | .mapPlaceKey => some (fb 31 d.sec.placeKey.isSome + sat 0xFFFF d.map.genKnown)
  | .tilStat => some (fv 16 16 (sat 0xFFFF (maxWear d)) + sat 0xFFFF (meanWear d))
  | .tilMoves => some d.mh.moves
  | .hznStat =>
    some (fb 31 d.mh.reanchor + fv 16 6 d.mh.anchorRef.toNat + fv 8 8 d.mh.boundary.toNat + fv 0 8 d.mh.now.toNat)
  | .hznGap => some (sat 0xFFFF d.mh.gap)
  | .hznPend => some (fv 0 31 (pendingPages d))
  | .dstStat => some d.mh.segs
  | .hrwLap => some (fb 31 d.mh.overLimit + fv 16 10 (lapProgress d) + sat 0xFFFF d.mh.lastLap)
  | .mhRetired => some (fv 0 31 (retiredCount d))
  | .mhDegraded => some (fv 0 31 (degradedCount d))
  | .mhLost => some (fv 0 31 (lostCount d))
  | .rebStat =>
    some (fb 31 d.mh.rebActive + fv 16 10 (rebuildProgress d) + fv 8 5 d.mh.rebChan + fv 0 4 d.mh.rebWarps.toNat)
  | .codRctStat => some (fv 16 9 d.cod.rct.length + sat 0xFFFF d.cod.evictions)
  | .codRctAct => some (fv 16 16 (sat 0xFFFF d.cod.rewrites) + fv 8 8 (sat 0xFF d.cod.retirements) + sat 0xFF d.cod.repairs)
  | .codOut => some (d.cod.out.getD h.i 0)
  | .hbmStat =>
    some (fb 31 d.hbm.trainFail + fb 30 d.hbm.filled + fv 28 2 d.hbm.state.toNat + fv 16 5 d.hbm.badChan.toNat +
      fv 8 8 d.hbm.lanes + sat 0xFF d.hbm.trainMs)
  | .hbmActStat => some (fv 12 20 d.hbm.rfmCount + fv 0 12 d.hbm.pacedCount)
  | .hbmRfshStat => some (fv 16 16 d.hbm.second + fv 0 8 d.hbm.maxDelay)
  | .hbmRepair =>
    let n := fun (k : Nat) => (d.hbm.rows.filter fun r => r.how = k).length
    some (fv 24 8 d.hbm.rows.length + fv 16 8 (n 1) + fv 8 8 (n 2) + fv 0 8 (n 0 + n 3))
  | .mcStat =>
    let x := chanOf d h.i
    some (fb 31 x.isolated + fb 30 x.trained + fv 26 4 x.present.toNat + fv 22 4 x.pkgIso.toNat + fb 21 x.stuck +
      fv 18 3 x.attempts)
  | .mcRl => some (fv 8 8 ((chanOf d h.i).rl.getD h.j 0) + fv 0 8 ((chanOf d h.i).trd.getD h.j 0))
  | .mcLink => some (fv 16 16 (sat 0xFFFF (chanCount d h.i host (·.rdCrc))) + sat 0xFFFF (chanOf d h.i).wrCrc)
  | .mcEvents =>
    some (fv 24 8 (chanOf d h.i).alerts + fv 16 8 (sat 0xFF (chanCount d h.i host (·.caParity))) +
      fv 8 8 (chanOf d h.i).overruns + sat 0xFF (chanCount d h.i host (·.absent)))
  | .queCount =>
    let q := qOf d h.i
    some (fb 31 q.overrun + fb 30 q.isOpen + fv 27 3 q.lastBad + fv 24 3 q.dropped + fv 0 11 (q.cwp - q.crp).toNat)
  | .queCrt => some (fb 12 (qOf d h.i).phase + fv 0 12 (qOf d h.i).tail)
  | .pmuCtl => some (fb 31 d.pmu.userEn + fb 0 (rb c 0x2000000 0))
  | .pmuTime => some d.pmu.time.toNat
  | .pmuSnapStat => some d.pmu.snapSeq.toNat
  | .pmuSnapTime => some d.pmu.snapTime.toNat
  | .pmuOvf => some (smGet 0 d.pmu.ovf h.i).toNat
  | .pmuCnt => some (pmuView c d.pmu.cnt d.pmu.oth h.i h.j host)
  | .pmuShd => some (pmuView c d.pmu.shd d.pmu.othShd h.i h.j host)
  | .pmuShdTime => some d.pmu.shdTime.toNat
  | .pmuShdOvf => some (smGet 0 d.pmu.shdOvf h.i).toNat
  | .pmuBwSeq => some d.pmu.bwSeq.toNat
  | .pmuBw => some (smGet 0 d.pmu.bw h.i)
  | .pmuTagIdx => some (fv 24 8 d.pmu.wr.toNat + fv 16 8 d.pmu.rd.toNat + fv 8 8 d.pmu.dropped + fv 0 8 d.pmu.skipped)
  | _ => none

/-- Bits of a register word that never read as stored: the write-only ones (R9). -/
def woMask (r : RegDef) (word : Nat) : Nat :=
  (r.flds.foldl (fun a f => if f.acc = .wo then a + (2 ^ (f.msb + 1) - 2 ^ f.lsb) else a) 0) / 2 ^ (32 * word) % 2 ^ 32

/-- The live value of a register word. -/
def hitRead (c : Ctl) (d : Dp) (host : Bool) (off : Nat) (h : RegHit) : Word :=
  match liveA c d host h with
  | some v => BitVec.ofNat 32 (v / 2 ^ (32 * h.word))
  | none => match liveB c d host h with
    | some v => BitVec.ofNat 32 (v / 2 ^ (32 * h.word))
    | none => crGet c off &&& ~~~(BitVec.ofNat 32 (woMask h.reg h.word))

/-- A word of the MSI-X table or of its pending bits (R426, log entry 20). -/
def msixWord (d : Dp) (off : Nat) : Word :=
  if off < 0x90600 then
    if off % 16 = 12 then BitVec.ofNat 32 (b2n (d.hif.vecMask.getLsbD ((off - 0x90000) / 16)))
    else smGet 0 d.hif.msixTable ((off - 0x90000) / 4)
  else if 0x91000 ≤ off ∧ off < 0x9100C then d.hif.vecPend.extractLsb' (8 * (off - 0x91000)) 32
  else 0

/-- Whether any record waits in a CXL event log, one bit per severity. -/
def eventBits (d : Dp) : Nat :=
  b2n (d.logs.info.recs ≠ []) + 2 * b2n (d.logs.warn.recs ≠ []) + 4 * b2n (d.logs.fail.recs ≠ []) +
    8 * b2n (d.logs.fatal.recs ≠ [])

/-- The component and device registers (R248, R266), laid out as CXL 3.1 does (PRESUMED, log entry 16): the cachemem primary range,
the device capabilities array, device status, the mailbox and memory device status. MP_1, which serves the mailbox, is halted but
ready in DORMANT, which the doorbell ends (R354). -/
def cxlWord (d : Dp) (off : Nat) : Word :=
  let x := off - 0x1010000
  if off < 0x1001000 then 0
  else if off < 0x1010000 then componentWord d (off - 0x1001000)
  else if x < 0x40 then deviceCapWord x
  else if x = 0x100 then BitVec.ofNat 32 (eventBits d)
  else if x = 0x200 then 16 + 32 + 64
  else if x = 0x204 then BitVec.ofNat 32 (fb 0 d.que.mboxBusy + fb 1 d.que.mboxIrq + fb 2 d.que.bgIrq)
  else if x = 0x208 then BitVec.ofNat 32 (d.que.mboxCmd.toNat + d.que.mboxLen * 65536)
  else if x = 0x20C then BitVec.ofNat 32 (d.que.mboxLen / 65536)
  else if x = 0x210 then BitVec.ofNat 32 (b2n d.que.bg.isSome)
  else if x = 0x214 then d.que.mboxRet.setWidth 32
  else if x = 0x218 then match d.que.bg with
    | some b => BitVec.ofNat 32 (b.opcode.toNat + 65536 * (if d.sec.erase then eraseLow d * 100 / 2 ^ 24 else b.percent))
    | none => d.que.bgStatus.extractLsb' 0 32
  else if x = 0x21C then (if d.que.bg.isSome then 0 else d.que.bgStatus.extractLsb' 32 32)
  else if 0x220 ≤ x ∧ x < 0x10220 then
    let w := d.que.mboxOut[(x - 0x220) / 8]?
    match w with
    | some v => v.extractLsb' (32 * ((x - 0x220) / 4 % 2)) 32
    | none => smGet 0 d.que.mboxIn ((x - 0x220) / 4)
  else if x = 0x10000 then
    BitVec.ofNat 32 (4 * (if d.hif.mediaError then 2 else if d.hif.memActive then 1 else 0) +
      16 * b2n (d.que.mps.getD 1 1 = 0 || d.sec.running = 2 || d.sup.mode = .dormant))
  else 0

/-- Whether an offset lies in one of the 14 windows (R425). -/
def inWindow (off : Nat) : Bool := (off < 0x440000 && !(0x70000 ≤ off && off < 0x80000))

/-- Whether an offset lies in the MSI-X structures. -/
def inMsix (off : Nat) : Bool := 0x90000 ≤ off && off < 0x92000

/-- Whether an offset lies in the CXL component or device registers. -/
def inCxl (off : Nat) : Bool := 0x1000000 ≤ off && off < 0x1030000

/-- A word of the sample buffer (R421). -/
def sampleWord (d : Dp) (x : Nat) : Word :=
  ((smGet [] d.pmu.ring (x / 64)).getD (x / 8 % 8) 0).extractLsb' (32 * (x / 4 % 2)) 32

/-- Whether the user view hides a register of the PMU BAR (R423): units 1 to 17, and channel ports. -/
def userHidden (h : RegHit) : Bool :=
  match h.reg.name with
  | .pmuOvf => 1 ≤ h.i && h.i ≤ 17
  | .pmuEvt => 1 ≤ h.i && h.i ≤ 17
  | .pmuCnt => 1 ≤ h.i && h.i ≤ 17
  | .pmuShd => 1 ≤ h.i && h.i ≤ 17
  | .pmuShdOvf => 1 ≤ h.i && h.i ≤ 17
  | .pmuBw => 2 ≤ h.i && h.i ≤ 18
  | _ => false

/-- The word at a 4-byte aligned offset, with no side effect: the control BAR, and the PMU BAR at 0x200_0000 with its
user view at 0x200_8000 (R410, R423). Reserved offsets read 0 (R11). -/
def peek (c : Ctl) (d : Dp) (host : Bool) (off : Nat) : Word :=
  if inMsix off then msixWord d off
  else if inCxl off then cxlWord d off
  else if 0x2004000 ≤ off ∧ off < 0x2008000 then sampleWord d (off - 0x2004000)
  else if 0x2008000 ≤ off then
    if d.pmu.userEn = false ∨ 0x200C000 ≤ off then 0
    else match findReg (off - 0x8000) with
      | some h => if userHidden h then 0 else hitRead c d host (off - 0x8000) h
      | none => 0
  else match findReg off with
    | some h => hitRead c d host off h
    | none => 0

/-- Whether the host view applies on an access path (R330): the host's and the sideband's, not those of the processors
and of debug. -/
def hostPath (p : Path) : Bool := p = .host || p = .sideband

/-- Clear the read-to-clear fields of a register (R9). -/
def readClear (n : RegName) (d : Dp) : Dp :=
  match n with
  | .glbAccErr => { d with glb := { d.glb with accTimeout := 0, accSize := 0, accHeld := 0, accReserved := 0 } }
  | .hifMemReject => { d with hif := { d.hif with badOpcode := 0, drainRej := 0, undecoded := 0, refused := 0 } }
  | .pmuTagIdx => { d with pmu := { d.pmu with dropped := 0, skipped := 0 } }
  | _ => d

/-- Whether an access at an offset makes a side effect: not through the user view of the PMU. -/
def liveOff (off : Nat) : Nat := if 0x2008000 ≤ off ∧ off < 0x200C000 then off - 0x8000 else off

/-- The high word latched for an offset on a path (R414, R431). -/
def latchOf (d : Dp) (p : Path) (off : Nat) : Option Word :=
  (d.latches.find? fun l => l.path = p && l.off = off).map (·.high)

/-- Drop the latch of an offset on a path. -/
def dropLatch (p : Path) (off : Nat) (d : Dp) : Dp :=
  { d with latches := d.latches.filter fun l => !(l.path = p && l.off = off) }

/-- Latch the high word of an offset on a path. -/
def setLatch (p : Path) (off : Nat) (v : Word) (d : Dp) : Dp :=
  { d with latches := (dropLatch p off d).latches ++ [⟨p, off, v⟩] }

/-- Whether a 4-byte read of a low word latches its high word (R431): registers of two or four words whose fields the
hardware writes. -/
def latching (h : RegHit) : Bool := 2 ≤ h.reg.words && h.reg.name ≠ .queCrb

/-- One 4-byte read on a path, with its side effects (R430, R431). -/
def readWord (c : Ctl) (p : Path) (off : Nat) (d : Dp) : Word × Dp :=
  let v := peek c d (hostPath p) off
  match findReg (liveOff off) with
  | none => (v, d)
  | some h =>
    let d1 := if off = liveOff off then readClear h.reg.name d else d
    if latching h = false then (v, d1)
    else if h.word % 2 = 0 then (v, setLatch p (off + 4) (peek c d (hostPath p) (off + 4)) d1)
    else match latchOf d p off with
      | some w => (w, dropLatch p off d1)
      | none => (v, d1)

/-- Consecutive 4-byte reads in ascending order. -/
def readWords (c : Ctl) (p : Path) (off : Nat) : Nat → Dp → List Word × Dp
  | 0, d => ([], d)
  | n + 1, d =>
    let x := readWord c p off d
    let y := readWords c p (off + 4) n x.2
    (x.1 :: y.1, y.2)

/-- Count an access refused for size or alignment (R430). -/
def countSize (d : Dp) : Dp := { d with glb := { d.glb with accSize := satInc 0xFF d.glb.accSize } }

/-- Whether an access of several words is consecutive 4-byte accesses (R430). -/
def burstSize (off size : Nat) : Bool :=
  size % 4 = 0 && 12 ≤ size && size ≤ 64 && off % 4 = 0 && off / 4096 = (off + size - 1) / 4096

/-- A read of any size on a path (R430): the words returned, and the side effects. A read of 1 or 2 bytes returns the
bytes of its word, in their places. -/
def readAccess (c : Ctl) (p : Path) (off size : Nat) (d : Dp) : List Word × Dp :=
  if size = 4 ∧ off % 4 = 0 then let x := readWord c p off d; ([x.1], x.2)
  else if size = 8 ∧ off % 8 = 0 then
    match findReg (liveOff off) with
    | some h =>
      if 2 ≤ h.reg.words ∧ h.word % 2 = 0 then
        ([peek c d (hostPath p) off, peek c d (hostPath p) (off + 4)], d)
      else readWords c p off 2 d
    | none => readWords c p off 2 d
  else if size = 1 ∨ (size = 2 ∧ off % 4 ≤ 2) then
    let w := peek c d (hostPath p) (off / 4 * 4)
    ([(w >>> (8 * (off % 4))) &&& BitVec.ofNat 32 (2 ^ (8 * size) - 1)], d)
  else if burstSize off size then readWords c p off (size / 4) d
  else (List.replicate ((size + 3) / 4) 0, countSize d)

end Sys2Proof.Machine
end

