-- ==== Sys2Proof/Machine/RegLoad.lean ====
section
/-! DEFINITION. How a register write acts (R9, R430, R435, R437): the values that load, the actions of write-one fields,
and the configuration image (R306 to R308, R439). -/

namespace Sys2Proof.Machine

/-- The nearest value within limits. -/
def clampTo (lo hi v : Nat) : Nat := max lo (min hi v)

/-- The event codes of a PMU unit (R412). -/
def eventListed (u code : Nat) : Bool :=
  code ≤ 1 || (0x10 ≤ code && code ≤
    (if u = 0 then 0x22 else if u ≤ 17 then 0x1C else if u = 18 then 0x19 else if u = 19 then 0x1A
     else if u = 20 then 0x18 else if u = 21 then 0x14 else if u = 22 then 0x14 else 0x17))

/-- The value that loads into a field when v is written, as each register's description states. -/
def loadField (n : RegName) (i lsb v : Nat) : Nat :=
  match n with
  | .supCtl => max 1 v
  | .supRail => if lsb = 16 then max 1 v else if lsb = 31 ∧ i = 6 then 1 else v
  | .thmCtl => if lsb = 8 then max 1 v else if lsb = 0 then clampTo 1 75 v else v
  | .fltReact => if 11 ≤ i then 0 else v
  | .fltCntCfg => if lsb = 16 then max 1 v else min 20 v
  | .recCtl => if lsb = 16 then max 1 v else v
  | .fabVcore => clampTo 700 900 v
  | .lcWaymask => if i = 3 then 0 else v
  | .lcLockCtl => min 12 v
  | .pdCtl => if lsb = 16 then clampTo 1 100 v else if lsb = 8 then max 1 v else clampTo 4 32 v
  | .detCtl => if lsb = 8 then max 2 v else v
  | .mrgCtl => if lsb = 8 then clampTo 1 32 v else v
  | .drnCtl => max 1 v
  | .mhCtl => if lsb = 24 then clampTo 5 100 v else v
  | .tilCtl => if lsb = 31 then v else max 1 v
  | .hznCtl => if lsb = 8 then clampTo 24 160 v else clampTo 60 240 v
  | .dstCtl => max 100000 v
  | .hrwCtl => if lsb = 31 then v else if lsb = 16 then clampTo 1 14 v else max 1 v
  | .codRctCtl => if lsb = 8 then max 1 v else if lsb = 0 then clampTo 2 64 v else v
  | .hbmActCtl => if lsb = 20 then max 256 v else if lsb = 10 then max 64 v else max 1 v
  | .mcCtl => if lsb = 0 then v else max 1 v
  | .queCrs => clampTo 4 12 v
  | .pmuEvt => if lsb = 0 then (if eventListed i v then v else 0) else v
  | .pmuBwCtl => min 6 v
  | .pmuTagCtl => if lsb = 0 then max 1 v else v
  | _ => v

/-- Where a field starts in one word of its register. -/
def fieldLo (word : Nat) (f : Fld) : Nat := f.lsb - 32 * word

/-- The bits of a field that lie in one word of its register. -/
def fieldMask (word : Nat) (f : Fld) : Word :=
  if 32 * word ≤ f.msb ∧ f.lsb < 32 * word + 32 then
    BitVec.ofNat 32 ((2 ^ (min 31 (f.msb - 32 * word) + 1 - fieldLo word f) - 1) * 2 ^ fieldLo word f)
  else 0

/-- Whether a write loads a field (R9, R437): RW always, RWL while the lock is clear. -/
def fieldLoads (locked : Bool) (f : Fld) : Bool := f.acc = .rw || (f.acc = .rwl && !locked)

/-- The value of a field of a word, as a number. -/
def fieldOf (word : Nat) (f : Fld) (w : Word) : Nat := (w &&& fieldMask word f).toNat / 2 ^ fieldLo word f

/-- One field of a write (R9): a field that loads takes its value of `data`, as its description states. -/
def loadOne (locked : Bool) (h : RegHit) (data : Word) (a : Word) (f : Fld) : Word :=
  if fieldLoads locked f then
    (a &&& ~~~fieldMask h.word f) |||
      (BitVec.ofNat 32 (loadField h.reg.name h.i f.lsb (fieldOf h.word f data) * 2 ^ fieldLo h.word f) &&& fieldMask h.word f)
  else a

/-- A stored register's word after a write of `data` (R9, R437): its RW fields load, its RWL fields while the lock is
clear; every other bit keeps its value. -/
def loadWord (locked : Bool) (h : RegHit) (old data : Word) : Word := h.reg.flds.foldl (loadOne locked h data) old

/-- Registers whose software-written fields are kept elsewhere than in the register file. -/
def heldElsewhere (n : RegName) : Bool := n = .pmuCnt || n = .pmuTagIdx

/-- Whether a write's load is ignored: the ring registers of a queue while it is enabled (R289), the RO way mask. -/
def loadIgnored (c : Ctl) (h : RegHit) : Bool :=
  heldElsewhere h.reg.name || (h.reg.name = .lcWaymask && h.i = 3) ||
  ((h.reg.name = .queCrb || h.reg.name = .queCrs) && queEn c h.i)

/-- Load a register word. -/
def loadReg (off : Nat) (h : RegHit) (data : Word) (c : Ctl) : Ctl :=
  if loadIgnored c h then c else crSet c off (loadWord c.cfgLocked h (crGet c off) data)

/-- Clear bits of a map of words (W1C). -/
def clearBits (m : SMap Word) (i : Nat) (v : Word) : SMap Word := smMod 0 m i fun x => x &&& ~~~v

/-- Take a snapshot (R416). -/
def takeSnapshot (d : Dp) : Dp :=
  { d with pmu := { d.pmu with
      shd := d.pmu.cnt, othShd := d.pmu.oth, shdTime := d.pmu.time, shdOvf := d.pmu.ovf, snapSeq := d.pmu.snapSeq + 1, snapTime := d.now } }

/-- PMU_CTL.clear (R424). -/
def clearPmu (d : Dp) : Dp := { d with pmu := { d.pmu with cnt := [], stag := [], oth := [], othStag := [], time := 0, ovf := [] } }

/-- CEIL_CTL.clear (R78). -/
def clearCeil (d : Dp) : Dp := { d with ceil := Ceil.reset }

/-- FLT_FE_SEL.rearm (R318). -/
def rearmFe (src : Nat) (d : Dp) : Dp := { d with flt := { d.flt with fe := smSet none d.flt.fe src none } }

/-- The value a PMU counter loads (R417): a channel counter discards its staging count (R413). -/
def loadCounter (u n : Nat) (v : BitVec 48) (d : Dp) : Dp :=
  { d with pmu := { d.pmu with cnt := smSet 0 d.pmu.cnt (u * 8 + n) v
                               stag := if 1 ≤ u ∧ u ≤ 17 then smSet 0 d.pmu.stag (u * 8 + n) 0 else d.pmu.stag } }

/-- A write of PMU_TAG_IDX.rd (R422, R424): one that would pass wr loads wr. -/
def writeRd (c : Ctl) (v : BitVec 8) (d : Dp) : Dp :=
  moveRd c (if (d.pmu.wr - d.pmu.rd).toNat < (v - d.pmu.rd).toNat then d.pmu.wr else v) d

/-- The actions of a write on the datapath: write-one-to-clear and write-only fields, and fields kept elsewhere. One write of PMU_CTL
with both snap and clear, which R416 does not order, takes the snapshot first where it also sets freeze, and clears first
otherwise (DESIGN CHOICE, log entry 165). -/
def actReg (h : RegHit) (data : Word) (c : Ctl) (d : Dp) : Dp :=
  match h.reg.name with
  | .fltStat =>
    { d with flt := { d.flt with msgLost := d.flt.msgLost && !data.getLsbD 31, netParity := d.flt.netParity && !data.getLsbD 30 } }
  | .fltSticky =>
    { d with flt := { d.flt with sticky := clearBits d.flt.sticky h.i data, stickyHv := clearBits d.flt.stickyHv h.i data } }
  | .fltSevere =>
    { d with flt := { d.flt with severe := clearBits d.flt.severe h.i data, severeHv := clearBits d.flt.severeHv h.i data } }
  | .fltFeSel => if data.getLsbD 8 then rearmFe (bits data 0 8) d else d
  | .recClear => { d with rec_ := { d.rec_ with clear := d.rec_.clear ||| data } }
  | .ceilCtl => if data.getLsbD 0 then clearCeil d else d
  | .queCtl =>
    if data.getLsbD 1 then resetQueue h.i d else d
  | .queCount => if data.getLsbD 31 then modQ h.i (fun q => { q with overrun := false }) d else d
  | .pmuCtl => Dp.when (data.getLsbD 0 = false && data.getLsbD 2) takeSnapshot (Dp.when (data.getLsbD 1) clearPmu
      (Dp.when (data.getLsbD 0 && data.getLsbD 2) takeSnapshot d))
  | .pmuOvf => { d with pmu := { d.pmu with ovf := smMod 0 d.pmu.ovf h.i fun x => x &&& ~~~(data.setWidth 8) } }
  | .pmuCnt =>
    let old := smGet 0 d.pmu.cnt (h.i * 8 + h.j)
    loadCounter h.i h.j (if h.word = 0 then old.extractLsb' 32 16 ++ data
      else data.setWidth 16 ++ old.extractLsb' 0 32) d
  | .pmuTagIdx => writeRd c (data.extractLsb' 16 8) d
  | .pdCtl => updWithhold c d
  | _ => d

/-- One write of a register word by a path: loads, then actions. -/
def writeHit (off : Nat) (h : RegHit) (data : Word) (c : Ctl) (d : Dp) : Ctl × Dp :=
  let c1 := loadReg off h data c
  let c2 := if h.reg.name = .pstCntDamaged then { c1 with cntDamaged := c1.cntDamaged &&& ~~~data } else c1
  let was := queEn c h.i
  let d1 := actReg h data c2 d
  let d2 := if h.reg.name = .queCtl ∧ was = false ∧ queEn c2 h.i then restartRing h.i d1 else d1
  (c2, d2)

/-- Count a write to a reserved offset (R429). -/
def countReserved (d : Dp) : Dp := { d with glb := { d.glb with accReserved := satInc 0xFF d.glb.accReserved } }

/-- Count a write ignored under R435. -/
def countHeld (d : Dp) : Dp := { d with glb := { d.glb with accHeld := satInc 0xFF d.glb.accHeld } }

/-- Unmask a vector (R263): a pending one is sent. -/
def unmaskVector (v : Nat) (d : Dp) : Dp :=
  if 96 ≤ v then d
  else
    let d1 := { d with hif := { d.hif with vecMask := clrBit d.hif.vecMask v } }
    if d1.hif.vecPend.getLsbD v then msix v { d1 with hif := { d1.hif with vecPend := clrBit d1.hif.vecPend v } } else d1

/-- A write of the MSI-X table (R426, log entry 20): the vector control word masks and unmasks its vector. -/
def writeMsix (off : Nat) (data : Word) (d : Dp) : Dp :=
  if 0x90600 ≤ off then d
  else if off % 16 = 12 then
    let v := (off - 0x90000) / 16
    if data.getLsbD 0 then { d with hif := { d.hif with vecMask := setBit d.hif.vecMask v } } else unmaskVector v d
  else { d with hif := { d.hif with msixTable := smSet 0 d.hif.msixTable ((off - 0x90000) / 4) data } }

/-- A write of the component registers, or of the mailbox registers (R248, R266, log entry 16): the command, the payload while no command runs, the control
register, whose doorbell hands the command to MP_1's ring and ends DORMANT (R354). -/
def writeCxl (c : Ctl) (off : Nat) (data : Word) (d : Dp) : Dp :=
  let x := off - 0x1010000
  if off < 0x1001000 then d
  else if off < 0x1010000 then writeComponent (off - 0x1001000) data c d
  else if x = 0x204 then
    let d1 := { d with que := { d.que with mboxIrq := data.getLsbD 1, bgIrq := data.getLsbD 2 } }
    if data.getLsbD 0 && !d.que.mboxBusy then
      dormantExit c .doorbell { d1 with que := { d1.que with mboxBusy := true, mboxOut := [] } }
    else d1
  else if d.que.mboxBusy then d
  else if x = 0x208 then
    { d with que := { d.que with mboxCmd := data.setWidth 16
                                 mboxLen := d.que.mboxLen / 65536 * 65536 + bits data 16 16 } }
  else if x = 0x20C then { d with que := { d.que with mboxLen := d.que.mboxLen % 65536 + bits data 0 5 * 65536 } }
  else if 0x220 ≤ x ∧ x < 0x10220 then
    { d with que := { d.que with mboxIn := smSet 0 d.que.mboxIn ((x - 0x220) / 4) data } }
  else d

/-- One aligned 4-byte write by a path: a reserved offset is ignored and counted (R11, R429), and every write of the user
view of the PMU is ignored (R423). -/
def writeWord (off : Nat) (data : Word) (x : Ctl × Dp) : Ctl × Dp :=
  if inMsix off then (x.1, writeMsix off data x.2)
  else if inCxl off then (x.1, writeCxl x.1 off data x.2)
  else if 0x2004000 ≤ off then x
  else match findReg off with
    | none => (x.1, countReserved x.2)
    | some h => writeHit off h data x.1 x.2

/-- Whether the windows' host writes are held (R435). -/
def writesHeld (c : Ctl) (d : Dp) : Bool :=
  (d.sup.mode = .rise && !c.writesOpen) || d.sup.mode = .drain || d.sup.downActive

/-- Whether the register port takes accesses of a path at all: the part is powered and, for the host, its link is up. -/
def portOpen (p : Path) (d : Dp) : Bool :=
  d.sup.mode ≠ .off && (match p with
    | .host => linkUp d
    | _ => true)

/-- A write of any size on a path (R430, R432, R435). The sideband writes nothing. A host write of the held period that R430 also
refuses, or that names no register, counts in GLB_ACC_ERR.held only (DESIGN CHOICE, log entry 166). -/
def writeAccess (p : Path) (off size : Nat) (data : BitVec 64) (c : Ctl) (d : Dp) : Ctl × Dp :=
  let lo := data.extractLsb' 0 32
  if !portOpen p d || p = .sideband then (c, d)
  else if p = .host && inWindow off && !inMsix off && writesHeld c d then (c, countHeld d)
  else if size = 4 ∧ off % 4 = 0 then writeWord off lo (c, d)
  else if size = 8 ∧ off % 8 = 0 then writeWord (off + 4) (data.extractLsb' 32 32) (writeWord off lo (c, d))
  else (c, countSize d)

/-- The permitted mask of a register in a configuration image (R439); none where no record may name it. -/
def imageMask (n : RegName) (i : Nat) : Option Nat :=
  match n with
  | .glbScratch => some 0xFFFFFFFF
  | .supCtl => some 0xFF
  | .supRail => some 0x80FFFFFF
  | .thmCtl => some 0xFF7F
  | .thmBoard => some 0x8000007F
  | .fltReact => if i ≤ 10 then some 0x007F007F else none
  | .fltCntCfg => some 0xFFFF001F
  | .recCtl => some 0xFFFF0000
  | .fabVcore => some 0x3FF
  | .lcWaymask => if i = 3 then none else some 0xFFFF
  | .lcLockCtl => some 0xF
  | .pdCtl => some 0x00FFFF3F
  | .detCtl => some 0x3F01
  | .mrgCtl => some 0x3F7F
  | .drnCtl => some 7
  | .mhCtl => some 0xFFFFFFFF
  | .tilCtl => some 0xFFFFFFFF
  | .hznCtl => some 0xFFFF
  | .hznRef => some 0x3F
  | .dstCtl => some 0xFFFFFF
  | .hrwCtl => some 0x80FFFFFF
  | .codRctCtl => some 0x8000FFFF
  | .hbmCtl => some 3
  | .hbmActCtl => some 0xFFFFFFFF
  | .mcCtl => some 0x00FFFF01
  | _ => none

/-- Control-BAR base of a window code (R425). -/
def windowBase (code : Nat) : Option Nat :=
  [0x0, 0x10000, 0x20000, 0x30000, 0x40000, 0x50000, 0x60000, 0x80000, 0xA0000, 0xC0000, 0xE0000, 0x100000, 0x200000,
   0x400000][code]?

/-- Size of a window (R425). -/
def windowSize (code : Nat) : Nat :=
  if code ≤ 6 then 0x10000 else if code ≤ 10 then 0x20000 else if code = 11 then 0x100000
  else if code = 12 then 0x200000 else 0x40000

/-- A record of the configuration image (R306). -/
structure CfgRec where
  window : Nat
  off : Nat
  mask : Word
  value : Word
  deriving DecidableEq, Repr

/-- The register a record names, at its control-BAR offset; none where a record may not name it (R439). -/
def cfgTarget (r : CfgRec) : Option (Nat × RegHit) :=
  match windowBase r.window with
  | none => none
  | some b =>
    if windowSize r.window ≤ r.off then none
    else match findReg (b + r.off) with
      | none => none
      | some h => (imageMask h.reg.name h.i).map fun _ => (b + r.off, h)

/-- What validation of the image finds (R307). -/
inductive CfgResult where
  | absent
  | invalid (reason : Nat) (bad : Nat)
  | valid (recs : List CfgRec)
  deriving DecidableEq, Repr

/-- Record k of an image's bytes (R306). -/
def cfgRecord (bytes : List (BitVec 8)) (k : Nat) : CfgRec :=
  let b := (bytes.drop (16 + 16 * k)).take 16
  { window := leBytes (b.take 1), off := leBytes ((b.drop 2).take 3), mask := BitVec.ofNat 32 (leBytes ((b.drop 8).take 4)),
    value := BitVec.ofNat 32 (leBytes ((b.drop 12).take 4)) }

/-- The first record that fails its checks, with the reason (R307 check 7). -/
def badRecord (recs : List CfgRec) : Option (Nat × Nat) :=
  recs.zipIdx.findSome? fun x =>
    match cfgTarget x.1 with
    | none => some (5, x.2)
    | some t =>
      let m := (imageMask t.2.reg.name t.2.i).getD 0
      if x.1.mask.toNat &&& (2 ^ 32 - 1 - m) ≠ 0 then some (6, x.2) else none

/-- A page that has never been written: neither slot, nor the working copy (R307). -/
def neverWritten (d : Dp) (page : Nat) : Bool :=
  pageBlank d page && !(page ∈ d.pst.changed)

/-- The 4,096 bytes of the configuration image, in pages 0 to 15 (R306). -/
def imageBytes (d : Dp) : List (BitVec 8) := (List.range 16).flatMap fun k => pageBytes ((readPage d k).getD 0)

/-- Validate the configuration image as it stands, in the order of R307. -/
def validateImage (d : Dp) : CfgResult :=
  match readPage d 0 with
  | none => .invalid 4 0xFF
  | some p0 =>
    let b0 := pageBytes p0
    let mark := (b0.getD 15 0).toNat
    if mark = 0 ∨ (List.range 16).all (neverWritten d) then .absent
    else if leBytes (b0.take 4) ≠ 0x47464353 ∨ leBytes ((b0.drop 4).take 2) ≠ 1 ∨ mark ≠ 0x5A then .invalid 1 0xFF
    else
      let n := leBytes ((b0.drop 6).take 2)
      if 255 < n then .invalid 2 0xFF
      else if (List.range 15).any fun k => (readPage d (k + 1)).isNone then .invalid 4 0xFF
      else
        let bytes := imageBytes d
        if (crc32 (bytes.take 8 ++ (bytes.drop 16).take (16 * n))).toNat ≠ leBytes ((bytes.drop 8).take 4) then
          .invalid 3 0xFF
        else
          let recs := (List.range n).map (cfgRecord bytes)
          match badRecord recs with
          | some x => .invalid x.1 x.2
          | none => .valid recs

/-- Apply one record (R308, R440): the register becomes (register AND NOT mask) OR (value AND mask), its fields loading as a
write does. A mask of 0 sets nothing. -/
def applyRecord (r : CfgRec) (c : Ctl) : Ctl :=
  match cfgTarget r with
  | none => c
  | some t =>
    if r.mask = 0 then c
    else crSet c t.1 (loadWord c.cfgLocked t.2 (crGet c t.1) ((crGet c t.1 &&& ~~~r.mask) ||| (r.value &&& r.mask)))

/-- Apply the configuration image at a RISE (R308): whole or not at all; an invalid one is reported. -/
def applyImage (c : Ctl) (d : Dp) : Ctl × Dp :=
  match validateImage d with
  | .absent => (c, { d with pst := { d.pst with cfgState := 0, cfgReason := 0, cfgBad := 0xFF, cfgRecords := 0 } })
  | .invalid reason bad =>
    (c, raise 0x60 0x2D 0 reason 0x08 0 { d with pst := { d.pst with
      cfgState := 2, cfgReason := BitVec.ofNat 6 reason, cfgBad := BitVec.ofNat 8 bad, cfgRecords := 0 } })
  | .valid recs =>
    (recs.foldl (fun c r => applyRecord r c) c,
      { d with pst := { d.pst with
        cfgState := 1, cfgReason := 0, cfgBad := 0xFF, cfgRecords := BitVec.ofNat 8 recs.length
        cfgDigest := sha384 (imageBytes d) } })

end Sys2Proof.Machine
end

