-- ==== Sys2Proof/Machine/CmdQueue.lean ====
section
/-! DEFINITION. The 64 command queues (R270 to R278, R289) and the take-up of commands by MP_1 (R279, R280, R287). -/

namespace Sys2Proof.Machine

/-- Whether a queue's write window takes words (R271, R280): the link is up, MP_1 has been released and the queue is
enabled. -/
def windowOpenQ (c : Ctl) (d : Dp) (k : Nat) : Bool :=
  decide (k < 64) && linkUp d && d.que.mps.getD 1 1 ≠ 1 && d.sup.mode ≠ .off && queEn c k

/-- Whether a queue is full (R270). -/
def queueFull (q : Queue) : Bool := (q.wwp - q.crp).toNat = 1024

/-- The words field of a header (R272). -/
def hdrWords (h : BitVec 64) : Nat := (h.extractLsb' 40 8).toNat

/-- The SRAM address of a pointer (R270). -/
def sramSlot (p : BitVec 11) : Nat := p.toNat % 1024

/-- Append a word to a queue. -/
def storeWord (w : BitVec 64) (q : Queue) : Queue :=
  { q with sram := smSet 0 q.sram (sramSlot q.wwp) w, wwp := q.wwp + 1, have_ := q.have_ + 1 }

/-- The completion of a bad packet, or of a packet refused at take-up: status, header fields and r1. -/
def badEntry (status : Nat) (h : BitVec 64) (words : Nat) : BadPkt :=
  { status := status, opcode := h.extractLsb' 48 16, tag := h.extractLsb' 16 16, quiet := h.getLsbD 32, words := words }

/-- Record a bad packet's completion, in a record of four (R276). -/
def recordBad (b : BadPkt) (q : Queue) : Queue :=
  if q.bad.length < 4 then { q with bad := q.bad ++ [b] } else { q with dropped := satInc 7 q.dropped }

/-- The open packet is bad (R274): it is rewound, and its completion is recorded. -/
def rewindBad (status code : Nat) (q : Queue) : Queue :=
  recordBad (badEntry status q.header q.have_)
    { q with wwp := q.mark, isOpen := false, have_ := 0, lastBad := code, overrun := q.overrun || code = 5 }

/-- A word that no packet takes (R274). -/
def strayWord (q : Queue) : Queue := { q with lastBad := 6 }

/-- What is wrong with a word itself: poisoned, failing parity, of a bad size (R274): the status and the last_bad code. -/
def wordFault (w : QWord) (sizeOk ep : Bool) : Option (Nat × Nat) :=
  if ep then some (0x10, 1) else if !w.parityOk then some (0x11, 2) else if !sizeOk then some (0x12, 3) else none

/-- A data word arrives (R271, R274, R275). -/
def takeData (w : QWord) (sizeOk ep : Bool) (q : Queue) : Queue :=
  if !q.isOpen then strayWord q
  else match wordFault w sizeOk ep with
    | some x => rewindBad x.1 x.2 q
    | none =>
      if hdrWords q.header + 1 ≤ q.have_ then rewindBad 0x12 3 q
      else if queueFull q then rewindBad 0x14 5 q
      else storeWord w.word q

/-- A packet opens at a good header word (R270). -/
def openPacket (w : BitVec 64) (q : Queue) : Queue :=
  storeWord w { q with mark := q.wwp, isOpen := true, header := w, have_ := 0 }

/-- A BEGIN or BEGIN-and-END word meets an open packet, or faults, or finds the queue full (R274): none where a packet may
not open. -/
def beginWord (w : QWord) (sizeOk ep : Bool) (q : Queue) : Queue × Bool :=
  if q.isOpen && !sizeOk && !ep && w.parityOk then (rewindBad 0x12 3 q, false)
  else
    let q1 := if q.isOpen then rewindBad 0x13 4 q else q
    match wordFault w sizeOk ep with
    | some x => ({ q1 with lastBad := x.2 }, false)
    | none => if queueFull q1 then ({ q1 with lastBad := 5, overrun := true }, false) else (q1, true)

/-- A BEGIN word arrives. -/
def takeBegin (w : QWord) (sizeOk ep : Bool) (q : Queue) : Queue :=
  let x := beginWord w sizeOk ep q
  if x.2 then openPacket w.word x.1 else x.1

/-- A packet commits (R273). -/
def commitPacket (q : Queue) : Queue := { q with cwp := q.wwp, isOpen := false, have_ := 0 }

/-- An END word arrives. The packet must hold words + 1 words with it (R273): one that would hold more fails as one that holds
fewer does, for its length (DESIGN CHOICE, log entry 156: R274 names END with fewer words, and data words beyond). -/
def takeEnd (w : QWord) (sizeOk ep : Bool) (q : Queue) : Queue :=
  if !q.isOpen then strayWord q
  else match wordFault w sizeOk ep with
    | some x => rewindBad x.1 x.2 q
    | none =>
      if q.have_ ≠ hdrWords q.header then rewindBad 0x12 3 q
      else if queueFull q then rewindBad 0x14 5 q
      else commitPacket (storeWord w.word q)

/-- A BEGIN-and-END word arrives: a one-word packet. -/
def takeBoth (w : QWord) (sizeOk ep : Bool) (q : Queue) : Queue :=
  let x := beginWord w sizeOk ep q
  if !x.2 then x.1
  else
    let q1 := openPacket w.word x.1
    if hdrWords w.word = 0 then commitPacket q1 else rewindBad 0x12 3 q1

/-- The SRAM words that a change of a queue has written (R173, R461): those behind the start of its open packet, or of the
packet it has committed. -/
def queueWrote (k : Nat) (old new : Queue) (d : Dp) : Dp :=
  if new = old || (!new.isOpen && new.cwp = old.cwp) then d
  else (List.range (if new.isOpen then new.have_ else hdrWords new.header + 1)).foldl
    (fun d i => sramWrote 0x24 (k * 1024 + sramSlot (new.wwp - 1 - BitVec.ofNat _ i)) 1 d) d

/-- A change of a queue by a write to its window; a commit is an exit trigger of DORMANT (R280, R354). -/
def onQueue (k : Nat) (f : Queue → Queue) (c : Ctl) (d : Dp) : Dp :=
  if windowOpenQ c d k then
    let d1 := queueWrote k (qOf d k) (f (qOf d k)) (modQ k f d)
    if (qOf d1 k).cwp ≠ (qOf d k).cwp then dormantExit c .queueCommit d1 else d1
  else d

/-- Whether a data write has a payload that R271 allows: 8 to 64 bytes, 8-byte aligned, within 64 bytes. -/
def payloadOk (off : BitVec 16) (bytes : Nat) : Bool :=
  off.toNat % 8 = 0 && bytes % 8 = 0 && 8 ≤ bytes && off.toNat % 64 + bytes ≤ 64

/-- A data write: its words in ascending order; one with a payload that is not allowed is refused as a whole (R274). -/
def takeWrite (off : BitVec 16) (bytes : Nat) (words : List QWord) (ep : Bool) (q : Queue) : Queue :=
  if payloadOk off bytes then (words.take (bytes / 8)).foldl (fun q w => takeData w true ep q) q
  else takeData (words.headD ⟨0, true⟩) false ep q

/-- DATA_WORDS (R271): a write to a reserved offset, behind those of the data words, is ignored. -/
def execDataWords (queue : Nat) (off : BitVec 16) (bytes : Nat) (words : List QWord) (ep : Bool) (s : State) :
    Host.Outcome State Fault Refusal :=
  onDp (fun c d => if 0x8000 ≤ off.toNat then d else onQueue queue (takeWrite off bytes words ep) c d) s

/-- BEGIN (R271): exactly 8 bytes. -/
def execBegin (queue : Nat) (bytes : Nat) (w : QWord) (ep : Bool) (s : State) : Host.Outcome State Fault Refusal :=
  onDp (onQueue queue (takeBegin w (bytes = 8) ep)) s

/-- END (R273): exactly 8 bytes. -/
def execEndWord (queue : Nat) (bytes : Nat) (w : QWord) (ep : Bool) (s : State) : Host.Outcome State Fault Refusal :=
  onDp (onQueue queue (takeEnd w (bytes = 8) ep)) s

/-- BEGIN_AND_END (R271): exactly 8 bytes. -/
def execBeginAndEnd (queue : Nat) (bytes : Nat) (w : QWord) (ep : Bool) (s : State) :
    Host.Outcome State Fault Refusal :=
  onDp (onQueue queue (takeBoth w (bytes = 8) ep)) s

/-- The value of QUE_k_CTL that a host write sends. -/
def queCtlWord (en reset : Bool) : BitVec 64 := (if en then 1 else 0) ||| (if reset then 2 else 0)

/-- QUEUE_RESET (R289): a write of QUE_k_CTL.reset that keeps en. -/
def execQueueReset (queue : Nat) (s : State) : Host.Outcome State Fault Refusal :=
  onBoth (fun c d =>
    if 64 ≤ queue then (c, d) else writeAccess .host (queOff queue 0) 4 (queCtlWord (queEn c queue) true) c d) s

/-- QUEUE_ENABLE (R281): a write of QUE_k_CTL.en. -/
def execQueueEnable (queue : Nat) (en : Bool) (s : State) : Host.Outcome State Fault Refusal :=
  onBoth (fun c d => if 64 ≤ queue then (c, d) else writeAccess .host (queOff queue 0) 4 (queCtlWord en false) c d) s

/-- The Oxsar opcodes with their parameter words, a buffer apart (R286); none for PST_WRITE, whose length its first word
gives. -/
def opcodeShape : List (Nat × Option Nat × Bool) :=
  [(0x0000, some 0, false), (0x0001, some 0, false), (0x0002, some 0, false), (0x0100, some 0, false),
   (0x0101, some 0, true), (0x0102, some 0, true), (0x0103, some 0, false), (0x0200, some 2, false),
   (0x0201, some 2, false), (0x0202, some 0, false), (0x0203, some 0, true), (0x0204, some 2, false)] ++
  [(0x0300, some 1, true), (0x0301, none, false), (0x0302, some 0, false), (0x0303, some 1, false),
   (0x0304, some 1, false), (0x0305, some 0, false), (0x0400, some 0, false), (0x0401, some 1, true),
   (0x0402, some 1, true), (0x0403, some 1, false), (0x0500, some 0, false), (0x0501, some 1, false)] ++
  [(0x0600, some 0, false), (0x0601, some 1, false), (0x0700, some 0, false), (0x0701, some 0, false),
   (0x0702, some 0, true), (0x0800, some 0, false), (0x0801, some 12, false), (0x0802, some 0, false),
   (0x0803, some 2, false), (0x0900, some 0, false), (0x0901, some 0, false), (0x0902, some 0, false)] ++
  [(0x0903, some 0, false), (0x0904, some 2, false)]

/-- Whether the number of parameter words fits an opcode (R285, R286, R287). -/
def lengthFits (x : Nat × Option Nat × Bool) (mailbox : Bool) (params : List (BitVec 64)) : Bool :=
  let buf := if x.2.2 && !mailbox then 2 else 0
  match x.2.1 with
  | some n => params.length = n + buf
  | none => params.length = 1 + 32 * ((params.getD 0 0).extractLsb' 0 3).toNat && 1 ≤ params.length

/-- The checks of a command that need only its header and length (R285): the status that refuses it, if any. Of several
faults at once the model answers an unknown opcode before a reserved header bit, and that before a wrong length (DESIGN CHOICE:
R285 gives no order, log entry 94). -/
def refusedAtOnce (reserved mailbox lengthOk : Bool) (op : Nat) (params : List (BitVec 64)) : Option Status :=
  match opcodeShape.find? fun x => x.1 = op with
  | none => some .invalidOpcode
  | some x =>
    if reserved then some .invalidParameter
    else if lengthFits x mailbox params && lengthOk then none else some .invalidLength

/-- Put a command into MP_1's hands; one refused at once completes. -/
def takeCommand (c : Ctl) (x : Cmd) (st : Option Status) (d : Dp) : Dp :=
  let d1 := { d with que := { d.que with cur := some x } }
  match st with
  | some s => complete c s [] d1
  | none => d1

/-- The words of the packet at crp, its header first. -/
def headPacket (q : Queue) : List (BitVec 64) :=
  let at_ := fun (i : Nat) => smGet 0 q.sram ((q.crp.toNat + i) % 1024)
  (List.range (hdrWords (at_ 0) + 1)).map at_

/-- Take up the packet at the head of a queue (R279, R285). A word of the queue's SRAM may read wrong: its place in the packet,
and whether the code corrects it (R169). -/
def takePacket (c : Ctl) (ecc : Option (Nat × Bool)) (k : Nat) (d : Dp) : Dp :=
  let q := qOf d k
  let ws := headPacket q
  let h := ws.getD 0 0
  let word := fun (i : Nat) => k * 1024 + (q.crp.toNat + i) % 1024
  let d0 := pmuCount c 23 0x10 1 (modQ k (fun q => { q with crp := q.crp + BitVec.ofNat 11 ws.length }) d)
  let d1 := match ecc with
    | some (i, true) => if i < ws.length then sramCorrected c 0x61 0x24 (word i) 0x09 d0 else d0
    | _ => d0
  let struck := match ecc with
    | some (i, false) => if i < ws.length then some i else none
    | _ => none
  match struck with
  | some i =>
    let d2 := raise 0x61 0x29 (sramAddr 0x24 (word i)) 0 0x09 0 d1
    if i = 0 then postEntry c k 0x11 0xFFFF 0xFFFF false [] d2
    else postEntry c k 0x11 (h.extractLsb' 48 16) (h.extractLsb' 16 16) (h.getLsbD 32) [] d2
  | none =>
    let op : BitVec 16 := h.extractLsb' 48 16
    let reserved := h.extractLsb' 33 7 ≠ 0 || h.extractLsb' 0 16 ≠ 0
    takeCommand c { queue := some k, opcode := op, tag := h.extractLsb' 16 16, quiet := h.getLsbD 32, params := ws.drop 1 }
      (refusedAtOnce reserved false true op.toNat (ws.drop 1)) d1

/-- Post the completions of a queue's bad packets, in order, while the ring has room (R276). -/
def postBad (c : Ctl) (k : Nat) : Nat → Dp → Dp
  | 0, d => d
  | n + 1, d =>
    match (qOf d k).bad with
    | [] => d
    | b :: rest =>
      if ringFull c d k then d
      else postBad c k n (postEntry c k b.status b.opcode b.tag b.quiet [BitVec.ofNat 64 b.words]
        (modQ k (fun q => { q with bad := rest }) d))

/-- The mailbox's input payload as 64-bit words. -/
def mboxWords (d : Dp) : List (BitVec 64) :=
  (List.range (d.que.mboxLen / 8)).map fun i => smGet 0 d.que.mboxIn (2 * i + 1) ++ smGet 0 d.que.mboxIn (2 * i)

/-- The standard opcodes of R267. -/
def standardOps : List Nat :=
  [0x0001, 0x0100, 0x0101, 0x0102, 0x0103, 0x0200, 0x0201, 0x0202, 0x0300, 0x0301, 0x0400, 0x0401, 0x4000, 0x4100, 0x4101,
   0x4102, 0x4103, 0x4200, 0x4201, 0x4202, 0x4203, 0x4204] ++
  [0x4300, 0x4301, 0x4302, 0x4303, 0x4304, 0x4305, 0x4400, 0x4401, 0x4500, 0x4501, 0x4502, 0x4503, 0x4504, 0x4505]

/-- The standard opcodes that the boot ROM serves when no image verified (R395). -/
def bootOps : List Nat := [0x0001, 0x4000, 0x0200, 0x0201, 0x0202]

/-- Take up the mailbox command (R287). -/
def takeMailbox (c : Ctl) (d : Dp) : Dp :=
  let op := d.que.mboxCmd
  let ws := mboxWords d
  let d1 := pmuCount c 23 0x11 1 d
  let none_ : Cmd := { queue := none, opcode := op, tag := 0, quiet := true, params := ws }
  let unsupported := mailboxDone .unsupported [] { d1 with que := { d1.que with cur := some none_ } }
  if d.sec.running = 2 then
    if op.toNat ∈ bootOps then takeCommand c none_ none d1 else unsupported
  else if vendorOp op then
    takeCommand c { none_ with opcode := op - 0xC000 }
      (refusedAtOnce false true (d.que.mboxLen % 8 = 0) (op - 0xC000).toNat ws) d1
  else if op.toNat ∈ standardOps then takeCommand c none_ none d1
  else unsupported

/-- Whether a member of MP_1's ring has something for it: a packet or a bad-packet completion with room in the ring, or
the mailbox's doorbell (R276, R279, R287). -/
def memberReady (c : Ctl) (d : Dp) (k : Nat) : Bool :=
  if k = 64 then d.que.mboxBusy
  else if d.sec.running = 2 then false
  else queEn c k && !ringFull c d k && ((qOf d k).cwp ≠ (qOf d k).crp || (qOf d k).bad ≠ [])

/-- Visit one member of the ring. -/
def visit (c : Ctl) (ecc : Option (Nat × Bool)) (k : Nat) (d : Dp) : Dp :=
  let d0 := { d with que := { d.que with ring := (k + 1) % 65 } }
  if k = 64 then takeMailbox c d0
  else
    let d1 := postBad c k 4 d0
    if (qOf d1 k).cwp ≠ (qOf d1 k).crp && !ringFull c d1 k then takePacket c ecc k d1 else d1

/-- Whether MP_1 takes commands up (R280): in SERVE and FALLOW, one at a time; the boot ROM serves the mailbox in RISE when
no image verified (R395). -/
def takesUp (d : Dp) : Bool :=
  mp1Live d && d.que.cur.isNone && d.que.delayed.isNone &&
    (serving d || (d.sec.running = 2 && d.sup.mode = .rise && !d.sup.downActive))

/-- The next take-up in ring order (R279). -/
def takesNext (ecc : Option (Nat × Bool)) (c : Ctl) (d : Dp) : Dp :=
  if !takesUp d then d
  else match (List.range 65).find? fun i => memberReady c d ((d.que.ring + i) % 65) with
    | some i => visit c ecc ((d.que.ring + i) % 65) d
    | none => d

/-- TAKE_UP (R279). -/
def execTakeUp (ecc : Option (Nat × Bool)) (s : State) : Host.Outcome State Fault Refusal := onDp (takesNext ecc) s

end Sys2Proof.Machine
end

