-- ==== Sys2Proof/Machine/EraseOps.lean ====
section
/-! DEFINITION. The keys and records of the security engine (R381 to R385, R54) and the steps of an erase (R392). -/

namespace Sys2Proof.Machine

/-- Draw 256 bits from the random-number generator. -/
def draw256 (d : Dp) : BitVec 256 × Dp := ((rngNow d).extractLsb' 0 256, bump d)

/-- Wrap the media master key for page 16 (R383): under the user KEK while a user passphrase is set, else under the device
KEK. -/
def wrapMedia (key : BitVec 256) (d : Dp) : Dp :=
  let user := d.pst.sec.userSet
  let kek := if user then d.sec.userKek.getD 0 else deviceKek
  modSec 16 (fun r => { r with wrapped := some (keyWrap kek key), wrapUser := user })
    { d with sec := { d.sec with mediaKey := some key } }

/-- Draw and store a new placement key (R54). -/
def newPlaceKey (d : Dp) : Dp :=
  let x := draw256 d
  let gen := satInc 0xFFFF d.pst.sec.placeGen
  let d1 := modSec 18 (fun r => { r with placeWrapped := some (keyWrap deviceKek x.1), placeGen := gen }) x.2
  { d1 with sec := { d1.sec with placeKey := some x.1 }, map := { d1.map with genKnown := gen } }

/-- What a journal stripe still says once the mapping it describes is erased: its media records. -/
def stripBody : JBody → JBody
  | .change recs => .change (recs.filter fun r => match r with
      | .media _ _ _ _ => true
      | .entry _ _ _ => false)
  | .checkpoint first es => .checkpoint first (es.map fun _ => 0)
  | .sectors n _ => .sectors n []
  | .intents n _ => .intents n []
  | b => b

/-- Step 3 of R392: line cache, merge buffer, parity-delta buffers and intents are emptied without programming; granted
programmes complete, and no other is issued. -/
def emptyDomain (d : Dp) : Dp :=
  let d1 := dropProgs (fun p => !progFlying p && !p.abandoned && (match p.kind with
    | .journal _ _ => false
    | .store _ _ => false
    | _ => true)) (dropInternal (stopBackground d))
  { d1 with
    lc := { d1.lc with
      ways := d1.lc.ways.filterMap fun x =>
        if x.2.lock then some (x.1, { tag := x.2.tag, lock := true, owner := x.2.owner }) else none
      trackers := []
      cur := d1.lc.cur.map fun m => { m with waitEntries := [], outs := [], reading := false }
      queue := d1.lc.queue.map fun m => { m with waitEntries := [] } }
    mrg := { d1.mrg with entries := [], deltas := [] }
    mh := { d1.mh with rewrites := [] }
    sec := { d1.sec with heldSectors := [] } }

/-- Step 4 of R392: the mapping is cleared, and every rebuild cursor is complete. -/
def clearMapping (d : Dp) : Dp :=
  let d1 := (rebuilds d).foldl (fun d r => (rebuildSets d r.2).foldl (fun d s => setCursor s r.1 (2 ^ 24) d) d) d
  { d1 with
    map := { d1.map with copyA := [], copyB := [], cache := [], lost := [], heldDst := [], waiting := [], stranded := [] }
    jrn := { d1.jrn with open_ := [], full := [], late := [], stripes := d1.jrn.stripes.map fun s => { s with body := stripBody s.body } }
    mh := { d1.mh with reanchor := false, parityCheck := false, checkNext := 0, rebActive := false, rebChan := 0x1F, rebWarps := 0, rebMore := [], work := [], lostLines := [], lostStripes := [] }
    logs := { d1.logs with poison := [] } }

/-- Start the overwrite of Sanitize from a row (R392 step 6). -/
def startOverwrite (row : Nat) (d : Dp) : Dp :=
  let sets := List.range (stripeSets (cfgN d))
  let d1 := { d with sec := { d.sec with eraseRows := sets.map (fun s => (s, row)) |>.filter (fun e => e.2 ≠ 0) } }
  sets.foldl (fun d s => overwriteSet s d) d1

/-- Step 7 of R392 begins: a complete checkpoint pass of the cleared table, from its first page. -/
def startFinalPass (d : Dp) : Dp :=
  { d with jrn := { d.jrn with ckptNext := 0, ckptDone := 0 }, sec := { d.sec with retStep := 7 } }

/-- Steps 4 and 5 of R392, and the start of what follows them. -/
def eraseFrom4 (row : Nat) (d : Dp) : Dp :=
  let d1 := clearMapping d
  if d.sec.eraseKind = 3 then startOverwrite row (newPlaceKey d1) else startFinalPass d1

/-- Step 2 of R392, its commit point, and the steps that follow at once. -/
def commitErase (d : Dp) : Dp :=
  let x := draw256 d
  let kind := d.sec.eraseKind
  let d1 := modSec 16 (fun r => { r with
    eraseInProgress := true, eraseCommitted := true, eraseKind := kind, cursor := 0
    userSet := r.userSet && kind ≠ 2
    userSalt := if kind = 2 then 0 else r.userSalt
    userVer := if kind = 2 then 0 else r.userVer }) x.2
  let d2 := { d1 with sec := { d1.sec with
    eraseCommitted := true
    st := if kind = 2 then .disabled else d1.sec.st
    userKek := if kind = 2 then none else d1.sec.userKek } }
  eraseFrom4 0 (emptyDomain (wrapMedia x.1 d2))

/-- The erase completes (R392 step 7): the journal before the pass is left behind, page 16's flags are cleared, and the
mailbox is told. -/
def finishErase (d : Dp) : Dp :=
  let from_ := ((d.jrn.stripes.reverse.find? fun s => match s.body with
    | .checkpoint 0 _ => true
    | _ => false).map (·.seq)).getD 0
  let d1 := modSec 16 (fun r => { r with eraseInProgress := false, eraseCommitted := false, eraseKind := 0, cursor := 0 })
    { d with
      jrn := { d.jrn with stripes := d.jrn.stripes.filter fun s => from_ ≤ s.seq }
      sec := { d.sec with erase := false, eraseCommitted := false, eraseKind := 0, eraseRows := [], retStep := 0 } }
  let d2 := modDev 34 (fun r => { r with journalHead := (d1.jrn.stripes.head?).map (·.loc) }) d1
  match d.que.bg with
  | some b => if b.opcode.toNat < 0x4400 ∨ 0x4506 ≤ b.opcode.toNat then d2 else endBackground d2
  | none => d2

/-- Carry an erase on as far as it goes (R392): it commits once the accepted requests are answered, and completes once
the overwrite and the checkpoint pass are done. -/
def eraseAdvance (d : Dp) : Dp :=
  if !d.sec.erase || !serving d then d
  else if d.sec.retStep = 1 then d
  else if !d.sec.eraseCommitted then (if d.acc.pend = [] then commitErase d else d)
  else if cfgN d = 0 then finishErase d
  else if d.sec.retStep = 7 then
    if 0 < d.jrn.ckptDone ∧ d.jrn.stripes.all (fun s => s.ok) then finishErase d else d
  else if d.sec.eraseKind = 3 then
    if 2 ^ 24 ≤ eraseLow d ∧ !(d.mrg.progs.any fun p => p.kind = .overwrite) then startFinalPass d
    else (List.range (stripeSets (cfgN d))).foldl (fun d s => overwriteSet s d) d
  else startFinalPass d

end Sys2Proof.Machine
end

