-- ==== Sys2Proof/Machine/Rise.lean ====
section
/-! DEFINITION. The steps of RISE from the isolation release to its end (R350, R351, R117, R118, R136), and the entry to
FALLOW (R153). -/

namespace Sys2Proof.Machine

/-- Whether RISE stands after a step and goes on (R350). -/
def riseAt (n : Nat) (d : Dp) : Bool := d.sup.mode = .rise && !d.sup.downActive && d.glb.riseStep = n

/-- A step of RISE is complete. -/
def riseDone (n : Nat) (d : Dp) : Dp := { d with glb := { d.glb with riseStep := n } }

/-- Step 2 of R350 (R18, R450, R454, R388): isolation releases, the straps are sampled, VDD_CORE stands at 0.80 V, the
security records are loaded. Without REFCLK RISE waits here. After RISE, VDD_CORE has come back for 1 ms, and a DRAIN request
that the isolation cells held passes. -/
def isolationReleases (straps : BitVec 4) (refclk : Bool) (c : Ctl) (d : Dp) : Dp :=
  if (awake d || d.sup.mode = .drain && !d.sup.downActive) && !d.sup.isoReleased then
    let d0 := { d with sup := { d.sup with isoReleased := true, pg := setBit d.sup.pg 6, isoDrain := none, isoRails := 0 } }
    let d1 := ((List.range 12).filter fun i => d.sup.isoRails.getLsbD i).foldl (fun d i => raise 0x65 0x3A 0 i 0xFF noAccess d) d0
    match d.sup.isoDrain with
    | some k => requestDrain c k d1
    | none => d1
  else if !riseAt 1 d || !d.sup.railsUp then d
  else if !refclk then { d with sup := { d.sup with refclk := false } }
  else
    riseDone 2 (loadSecurity c (moveVcore 800 3 { d with
      sup := { d.sup with isoReleased := true, refclk := true }
      glb := { d.glb with straps := straps }
      fab := { d.fab with setPoint := 800 } }))

/-- ISOLATION_RELEASE (R350). -/
def execIsolationRelease (straps : BitVec 4) (refclk : Bool) (s : State) : Host.Outcome State Fault Refusal :=
  onDp (isolationReleases straps refclk) s

/-- Step 3 of R350 (R210, R211, R215): the stack is trained and every recorded row repaired again; a channel that fails
three trainings stops RISE. A damaged repair record is not applied (R300). -/
def hbmTrains (lanes ms : Nat) (bad : Option Nat) (d : Dp) : Dp :=
  if !riseAt 2 d || d.hbm.trainFail then d
  else
    let d1 := { d with hbm := { d.hbm with lanes := lanes, trainMs := sat 0xFF ms } }
    match bad with
    | some k =>
      { d1 with hbm := { d1.hbm with trainFail := true, badChan := BitVec.ofNat 5 k }, hif := { d1.hif with mediaError := true } }
    | none =>
      let rows := if 36 ∈ d.pst.undecodable then [] else d.pst.dev.repairs
      riseDone 3 (beginFill { d1 with hbm := { d1.hbm with rows := rows } })

/-- HBM_TRAINING (R210, R211). -/
def execHbmTraining (lanes : Nat) (ms : Nat) (bad : Option Nat) (s : State) : Host.Outcome State Fault Refusal :=
  onDp (fun _ d => hbmTrains lanes ms bad d) s

/-- Step 4 of R350 (R175, R31): the fill that training or a warm RISE began completes; MP_0 is released to the boot ROM. -/
def hbmFills (d : Dp) : Dp :=
  if !riseAt 3 d || d.hbm.trainFail then d
  else setMp 0 0 (riseDone 4 { d with hbm := { d.hbm with filled := true, state := 1 } })

/-- A warm reset's cleaning that is over starts its RISE before the fill (R360). -/
def hbmFillStep (c : Ctl) (d : Dp) : Ctl × Dp :=
  let x := tryWarmRise c d
  (x.1, hbmFills x.2)

/-- HBM_FILL (R175). -/
def execHbmFill (s : State) : Host.Outcome State Fault Refusal := onBoth hbmFillStep s

/-- Whether the boot ROM accepts an image (R395). -/
def imageOk (c : Ctl) (i : FwImage) : Bool :=
  !Config.revokedFuses.getLsbD i.keyIndex.toNat && i.keyHashOk && i.signatureOk && i.digestOk &&
  cntValue c (3 + i.index.toNat) ≤ i.secVersion.toNat && Config.rollbackFloor i.index ≤ i.secVersion.toNat

/-- Whether a slot holds an image the boot ROM accepts. -/
def slotOk (c : Ctl) (i : Option FwImage) : Bool := (i.map (imageOk c)).getD false

/-- A slot whose image fails (R395). -/
def imageFails (slot : Nat) (d : Dp) : Dp :=
  raise 0x68 0x39 0 slot 0x08 0 { d with sec :=
    { d.sec with aFail := d.sec.aFail || slot = 0, bFail := d.sec.bFail || slot = 1 } }

/-- Try the two slots, the selected one first (R395): the slot that boots. -/
def bootSlot (c : Ctl) (a b : Option FwImage) (d : Dp) : Option (Nat × FwImage) × Dp :=
  let first := if d.pst.dev.fwSelect && !(37 ∈ d.pst.undecodable) then 1 else 0
  let img := fun (n : Nat) => if n = 0 then a else b
  if slotOk c (img first) then ((img first).map fun i => (first, i), d)
  else
    let d1 := imageFails first d
    if slotOk c (img (1 - first)) then ((img (1 - first)).map fun i => (1 - first, i), d1)
    else (none, imageFails (1 - first) d1)

/-- The media master key at RISE (R381, R383, R386): drawn where no key is stored, unwrapped where no user passphrase is
set; none in RETURNED. -/
def loadMediaKey (d : Dp) : Dp :=
  if d.pst.sec.dbgReturned then d
  else match d.pst.sec.wrapped with
    | none => if d.pst.sec.userSet then d else let x := draw256 d; wrapMedia x.1 x.2
    | some w =>
      if d.pst.sec.wrapUser then d else { d with sec := { d.sec with mediaKey := keyUnwrap deviceKek w } }

/-- SUP_PDREC from the record of page 47 (R361, R363). -/
def loadPdrec (d : Dp) : Dp :=
  match d.pst.dev.powerDown with
  | some r =>
    if 47 ∈ d.pst.undecodable then { d with sup := { d.sup with pdValid := false } }
    else { d with sup := { d.sup with
      pdValid := true, pdAux := r.auxLost, pdDeadline := r.deadline, pdCause := r.cause, pdAttempts := r.attempts
      pdFaulty := r.faulty } }
  | none => { d with sup := { d.sup with pdValid := false } }

/-- Step 5 of R350 (R395, R308): a firmware image verifies, the configuration image is applied, MP_1 to MP_3 are released.
With no good image the boot ROM stays in control. -/
def firmwareVerifies (a b : Option FwImage) (c : Ctl) (d : Dp) : Ctl × Dp :=
  if !riseAt 4 d || d.sec.running = 2 then (c, d)
  else
    let x := bootSlot c a b { d with sec := { d.sec with imgA := a, imgB := b } }
    match x.1 with
    | none => (c, { x.2 with sec := { x.2.sec with running := 2 }, hif := { x.2.hif with mediaError := true } })
    | some (n, i) =>
      let d1 := x.2
      let d2 := loadPdrec (loadMediaKey { d1 with
        sec := { d1.sec with running := BitVec.ofNat 2 n, bootKey := i.keyIndex, runImage := some i }
        que := { d1.que with mps := [0, 0, 0, 0], beats := List.replicate 4 d1.sup.clock } })
      let y := applyImage c d2
      ({ y.1 with writesOpen := true }, riseDone 5 y.2)

/-- FIRMWARE_VERIFY (R395). -/
def execFirmwareVerify (a : Option FwImage) (b : Option FwImage) (s : State) : Host.Outcome State Fault Refusal :=
  onBoth (firmwareVerifies a b) s

/-- The positions that answered CA training on a channel (R234 step 2). -/
def echoes (x : ChanTrain) : BitVec 4 :=
  (List.range 4).foldl (fun a w => if (x.pkgs[w]?).any fun p => !p.echo.absent then setBit a w else a) 0

/-- What training found on a channel. -/
def trainOf (found : List ChanTrain) (k : Nat) : ChanTrain := found.getD k ⟨1, false, []⟩

/-- The tRD a package reports in MODE_0, in ns (R238). -/
def pkgTrd (p : PkgTrain) : Nat := (respByte p.mode0.bytes 4).toNat

/-- Whether the geometry of MODE_0 is the one required (R221, R238): 32 partitions, 2²⁴ rows per partition. The two bytes
of the partition count are taken as those of TMP, the first most significant (DEDUCED, log entry 126). -/
def pkgGeometry (p : PkgTrain) : Bool :=
  (respByte p.mode0.bytes 1 ++ respByte p.mode0.bytes 2 : BitVec 16).toNat = 32 && (respByte p.mode0.bytes 3).toNat = 24

/-- Packages per channel of a population that matches a row of R3: the same positions 0 to n − 1 on every channel in
service. -/
def populationOf (d : Dp) (found : List ChanTrain) : Option Nat :=
  [1, 2, 3, 4].find? fun n => (List.range 17).all fun k =>
    (chanOf d k).isolated || (echoes (trainOf found k) ||| (chanOf d k).pkgIso) = BitVec.ofNat 4 (2 ^ n - 1)

/-- The isolation record, or what stands in its place when its page is damaged (R300): the newest core sample's; none of
them: nothing stays isolated, with a parity check and a failure record. -/
def loadIsolation (c : Ctl) (d : Dp) : Dp :=
  let put := fun (ch : BitVec 17) (pk : List (BitVec 4)) (d : Dp) =>
    modDev 33 (fun r => { r with isoChan := ch, isoPkg := pk }) { d with
      chans := d.chans.zipIdx.map fun x => { x.1 with isolated := ch.getLsbD x.2, pkgIso := pk.getD x.2 0 } }
  if 33 ∈ d.pst.undecodable then
    match newestSample d with
    | some s => put s.isoChan s.isoPkg d
    | none => addWork 2 .parityCheck (eventRecord c 2 12 33 (put 0 (List.replicate 17 0)
        { d with mh := { d.mh with parityCheck := true } }))
  else put d.pst.dev.isoChan d.pst.dev.isoPkg d

/-- The configuration at a RISE (R4, R300): judged from the population where no valid record holds it. -/
def judgePopulation (c : Ctl) (found : List ChanTrain) (d : Dp) : Dp :=
  match d.pst.dev.population with
  | some x => { d with glb := { d.glb with config := x.1 } }
  | none =>
    match populationOf d found with
    | some n => modDev 32 (fun r => { r with population := some (n, List.replicate 17 (BitVec.ofNat 4 (2 ^ n - 1))) })
        { d with glb := { d.glb with config := n } }
    | none => eventRecord c 2 11 0 { d with glb := { d.glb with config := 0 } }

/-- Read latency of a package in CK cycles (R228). -/
def rlCycles (trd : Nat) : Nat := clampTo 72 144 ((trd * 6 + 4) / 5)

/-- Whether a package passes the check of step 6 (R221, R234, R238): the responses to its MDRs arrive whole (R224). -/
def pkgChecked (p : PkgTrain) : Bool :=
  shortOk p.mode0 && shortOk p.mode4 && shortOk p.mode5 && pkgGeometry p && pkgTrd p ≤ 120

/-- Whether a package passed every step of training (R234, R221). -/
def pkgGood (p : PkgTrain) : Bool := shortOk p.echo && p.later && pkgChecked p

/-- A mode-register write leaves on a channel (R222, R238). -/
def sendMdw (k w reg : Nat) (v : BitVec 8) (d : Dp) : Dp := portSend k 4 w (mdwWord reg v) (emit (.mdw k w reg v) d)

/-- The value written to MODE_2 of a package at training (R234, R238): no rule gives it, so a free value, bits 1 and 0
clear and the reserved impedance code 3 left out (log entry 126). -/
def mode2Value (k w : Nat) : BitVec 8 :=
  let v := (Config.freeValue 91 (4 * k + w)).setWidth 8 &&& 0xFC
  if v.extractLsb' 6 2 = 3 then v &&& 0x3F else v

/-- A register read of training arrives, or does not (R224, R231). -/
def shortIn (c : Ctl) (k : Nat) (x : ShortBurst) (d : Dp) : Dp :=
  if x.absent then modChan k (fun y => { y with absent := satInc 0xFF y.absent }) d
  else if shortOk x then d else slotFails c k 0xFF d

/-- The commands of one training attempt of a channel up to step 5 (R233, R234): TRN 0 to every position that is not
isolated, then TRN 1 to 4 to every package used. The delays that the eyes leave are free values. A failed attempt is taken
to have come this far (log entry 126). -/
def trainAttempt (k : Nat) (iso used : BitVec 4) (d : Dp) : Dp :=
  let each := fun (m : BitVec 4) (mode : Nat) (d : Dp) =>
    (List.range 4).foldl (fun d w => if m.getLsbD w then portSend k 4 w (trnWord mode) d else d) d
  let d1 := each used 4 (each used 3 (each used 2 (each used 1 (each (~~~iso) 0 d))))
  (List.range 4).foldl (fun d w => if used.getLsbD w then track k w (centre k w (Config.laneDelays d.free) d) else d) d1

/-- The commands that end a package's training (R234 steps 6 and 7): its identification and temperatures are read; where they
pass the check, its read latency and MODE_2 are written, and each partition is reset. -/
def trainCommands (c : Ctl) (k w : Nat) (rl : Nat) (p : PkgTrain) (d : Dp) : Dp :=
  let read := fun (reg : Nat) (x : ShortBurst) (d : Dp) => shortIn c k x (portSend k 4 w (mdrWord reg) d)
  let d1 := read 5 p.mode5 (read 4 p.mode4 (read 0 p.mode0 d))
  if pkgChecked p then
    (List.range 32).foldl (fun d i => portSend k 4 w (prsWord i) d) (sendMdw k w 2 (mode2Value k w) (sendMdw k w 1 (BitVec.ofNat 8 rl) d1))
  else d1

/-- The packages of a channel that the population record holds. -/
def recordedMask (d : Dp) (k : Nat) : BitVec 4 :=
  match d.pst.dev.population with
  | some x => x.2.getD k 0
  | none => 0

/-- Training of one channel (R234): its state, its packages' latencies, and the units it isolates, with vector 70 (R146). A package that the
record does not hold is present, and not used (R4). -/
def trainChannel (found : List ChanTrain) (k : Nat) (x : Ctl × Dp) : Ctl × Dp :=
  let c := x.1
  let d := x.2
  let t := trainOf found k
  let ch := chanOf d k
  if ch.isolated then (c, emit (.chanPins k true) (modChan k (fun y => { y with ck := false }) d))
  else
    let have_ := echoes t
    let rec_ := recordedMask d k
    let usable := if d.pst.dev.population.isSome then rec_ else BitVec.allOnes 4
    let iso := ch.pkgIso
    let here := have_ &&& ~~~iso
    let used := here &&& usable
    let pkg := fun (w : Nat) => (t.pkgs[w]?).getD ⟨{ absent := true }, false, {}, {}, {}⟩
    let val := fun (f : PkgTrain → Nat) => (List.range 4).map fun w =>
      if used.getLsbD w && pkgChecked (pkg w) then f (pkg w) else 0
    let bad : BitVec 4 := (List.range 4).foldl (fun a w =>
      if rec_.getLsbD w && !iso.getLsbD w && !pkgGood (pkg w) then setBit a w else a) 0
    let tries := if !t.ok || bad ≠ 0 then 3 else clampTo 1 3 t.attempts
    let d0 := modChan k (fun y => { y with
      attempts := tries, present := here, used := used, trained := t.ok, ck := true, standby := false
      tick := d.now, rl := val fun p => rlCycles (pkgTrd p), trd := val pkgTrd
      mode4 := val fun p => (respByte p.mode4.bytes 0).toNat, mode5 := val fun p => (respByte p.mode5.bytes 0).toNat }) d
    let echoed := (List.range 4).foldl (fun d w => if here.getLsbD w then shortIn c k (pkg w).echo d else d) d0
    let d1 := (List.range tries).foldl (fun d _ => trainAttempt k iso used d) echoed
    let d2 := (List.range 4).foldl (fun d w =>
      if used.getLsbD w then trainCommands c k w ((chanOf d k).rl.getD w 0) (pkg w) d else d) d1
    let d3 := if d.pst.dev.population.isSome then (List.range 4).foldl (fun d w =>
        if have_.getLsbD w && !rec_.getLsbD w then eventRecord c 1 11 (4 * k + w) d else d) d2
      else d2
    if rec_ = 0 then (c, d3)
    else if !t.ok then isolateCounted k true 0 c (msix 70 (raise k 0x15 0 rec_.toNat 0x08 0 d3))
    else if bad = 0 then (c, d3)
    else isolateCounted k false bad c (msix 70 (raise k 0x15 0 bad.toNat 0x08 0 d3))

/-- The rebuild cursors at RISE (R148, R300, R337): the further of the two records; a damaged one restarts at row 0. -/
def loadCursors (d : Dp) : Dp :=
  let smp := ((newestSample d).map (·.cursors)).getD []
  let cur := if 35 ∈ d.pst.undecodable then [] else
    smp.foldl (fun m e => smMod 0 m e.1 (max e.2)) d.pst.dev.cursors
  { d with mh := { d.mh with cursors := cur } }

/-- The rebuild of the units isolated before resumes from the recorded cursors (R234, R148). -/
def resumeRebuild (k : Nat) (d : Dp) : Dp :=
  let ch := chanOf d k
  let warps : BitVec 4 := if ch.isolated then 0xF else ch.pkgIso
  if warps = 0 then d
  else
    let sets := (List.range (stripeSets (cfgN d))).filter fun s => warps.getLsbD (setWarp s)
    let gone := sets.any fun s => (List.range 15).any fun r =>
      let l := rebuildLoc (cfgN d) s r k
      unitIsolated d l.2.2 (setWarp l.1)
    if !(sets.all fun s => 2 ^ 24 ≤ cursorOf d s k) then startRebuild k warps d else if gone then leaveUnbuilt d else d

/-- Training of every channel. -/
def trainAll (found : List ChanTrain) (c : Ctl) (d : Dp) : Ctl × Dp :=
  (List.range 17).foldl (fun x k => trainChannel found k x) (c, d)

/-- What step 6 of R350 loads before it trains: the population, the core samples, the isolation records, the rebuild cursors. A damaged
population record is no record (R300). -/
def beforeTraining (found : List ChanTrain) (c : Ctl) (d : Dp) : Dp :=
  let d0 := if 32 ∈ d.pst.undecodable then
      { d with pst := { d.pst with dev := { d.pst.dev with population := none } } } else d
  let pop := { d0 with glb := { d0.glb with config := (d0.pst.dev.population.map (·.1)).getD 0 } }
  let smp := pagesRead ((List.range 128).map (576 + ·)) pop
  let d1 := loadCursors (judgePopulation c found (loadIsolation c smp))
  let d2 := { d1 with rec_ := { d1.rec_ with nextSeq := ((newestSample d1).map fun s => s.seq + 1).getD 1 } }
  (List.range 17).foldl (fun d k => resumeRebuild k d) d2

/-- What step 6 of R350 does after it trains: an erase that had not committed is forgotten, a committed one resumes at step
4 (R393). -/
def afterTraining (d4 : Dp) : Dp :=
  let d5 := if d4.pst.sec.eraseInProgress && !d4.pst.sec.eraseCommitted then
      modSec 16 (fun r => { r with eraseInProgress := false, eraseKind := 0 }) d4 else d4
  let d6 := if d5.sec.erase then eraseFrom4 (if 16 ∈ d5.pst.undecodable then 0 else d5.pst.sec.cursor) d5 else d5
  riseDone 6 { d6 with hif := { d6.hif with memInfo := true } }

/-- Step 6 of R350 (R234, R4, R393): the media are trained, the population is judged and failed units are isolated. After
EXTEST the training alone is repeated (R403). -/
def mediaTrains (found : List ChanTrain) (c : Ctl) (d : Dp) : Ctl × Dp :=
  if !riseAt 5 d then (c, d)
  else if d.sec.retStep = 9 then
    let x := trainAll found c { d with sec := { d.sec with retStep := 0 } }
    (x.1, riseDone 9 x.2)
  else
    let x := trainAll found c (beforeTraining found c d)
    (x.1, afterTraining x.2)

/-- MEDIA_TRAINING (R234). -/
def execMediaTraining (found : List ChanTrain) (s : State) : Host.Outcome State Fault Refusal :=
  onBoth (mediaTrains found) s

/-- The placement key at RISE (R54, R300): drawn at the first one, loaded later, replaced where its record is damaged. -/
def loadPlaceKey (c : Ctl) (d : Dp) : Dp :=
  if d.pst.sec.dbgReturned then d
  else
    let replaced := fun (d : Dp) => newPlaceKey (eventRecord c 1 5 0 d)
    match d.pst.sec.placeWrapped with
    | none => if 18 ∈ d.pst.undecodable then replaced d else newPlaceKey d
    | some w =>
      if 18 ∈ d.pst.undecodable then replaced d
      else match keyUnwrap deviceKek w with
        | some k => { d with sec := { d.sec with placeKey := some k }, map := { d.map with genKnown := d.pst.sec.placeGen } }
        | none => replaced d

/-- The table after one stripe of the journal. -/
def applyStripe (pass : Option (Nat × Nat)) (m : SMap (BitVec 64)) (s : JStripe) : SMap (BitVec 64) :=
  match s.body with
  | .checkpoint f es =>
    match pass with
    | some (a, b) =>
      if a ≤ s.seq ∧ s.seq ≤ b then es.zipIdx.foldl (fun m x => smSet 0 m (f + x.2) x.1) m else m
    | none => m
  | .change recs =>
    if (pass.map fun p => decide (p.1 ≤ s.seq)).getD true then
      recs.foldl (fun m r => match r with
        | .entry _ page v => smSet 0 m page.toNat v
        | .media _ _ _ _ => m) m
    else m
  | _ => m

/-- The media records of a list of stripes (R144). -/
def mediaRecords (l : List JStripe) : List (Stripe × BitVec 2 × BitVec 5) :=
  (l.flatMap fun s => match s.body with
    | .change recs => recs.filterMap fun r => match r with
        | .media _ st kind chan => some (st, kind, chan)
        | .entry _ _ _ => none
    | _ => []).foldl (fun l x => addOnce x l) []

/-- The greatest change number in the journal. -/
def lastChangeNo (l : List JStripe) : Nat :=
  l.foldl (fun a s => match s.body with
    | .change recs => recs.foldl (fun a r => match r with
        | .entry no _ _ => max a no
        | .media no _ _ _ => max a no) a
    | _ => a) 0

/-- A read of a member by a step of RISE (R463): its command leaves on its channel and it counts in its segment (R138, R222). -/
def riseRead (c : Ctl) (s : Stripe) (k : Nat) (code : BitVec 6) (d : Dp) : Dp :=
  match memberLoc d s k with
  | some l => countDisturb c l.2.2 l.1 l.2.1 (pmuCount c (1 + l.2.2) 0x10 1
      (portSend l.2.2 3 (setWarp l.1) (crdWord code (l.1 % 32) l.2.1) d))
  | none => d

/-- The place in the circle and the 17 codewords, by position, that a read of a journal stripe gave. -/
abbrev StripeRead := Nat × List Image

/-- The 17 members of a journal stripe as decoded (R108): none where a member that can be read does not decode, or more
than one cannot be had; a lost one is rebuilt from the others (R111). A stripe whose read is not given reads as it was
programmed, if it had verified. -/
def stripeMembers (d : Dp) (reads : List StripeRead) (x : JStripe) : Option (List Image) :=
  let imgs := metaImages (journalIndex x.loc) (journalBytes x.seq x.body)
  match reads.find? fun r => r.1 = x.loc with
  | none => if x.ok then some (imgs ++ [xorImages imgs]) else none
  | some r =>
    let s := journalStripe d x.loc
    let label := fun (p : Nat) => if p = 16 then parityLabel else metaLabel (journalIndex x.loc) p
    let chan := fun (p : Nat) => if p = 16 then parityChan (stripeRow s) else posChan (stripeRow s) p
    let lost := (List.range 17).filter fun p => unavailable d s (chan p)
    let got := fun (p : Nat) => let y := outerDecode (r.2.getD p 0) (label p); if y.cls.good then some y.image else none
    match lost with
    | [] => (List.range 17).mapM got
    | [q] =>
      match ((List.range 17).filter (· ≠ q)).mapM got with
      | some l =>
        let y := outerDecode (xorImages l) (label q)
        if y.cls.good then some (l.take q ++ y.image :: l.drop q) else none
      | none => none
    | _ => none

/-- The number of eight bytes, the first least significant. -/
def numberLe (l : List (BitVec 8)) : Nat := l.foldr (fun b a => b.toNat + 256 * a) 0

/-- The sequence numbers in the header and the trailer of a journal stripe (R106). -/
def stripeNumbers (l : List Image) : Nat × Nat :=
  (numberLe (((sectorBytes (imgSector (l.getD 0 0) 0)).drop 8).take 8), numberLe ((sectorBytes (imgSector (l.getD 15 0) 3)).take 8))

/-- Whether a journal stripe is valid after one of a given number (R108); the first one of a scan follows none. -/
def stripeValid (d : Dp) (reads : List StripeRead) (prev : Option Nat) (x : JStripe) : Bool :=
  match stripeMembers d reads x with
  | none => false
  | some l =>
    let n := if (reads.find? fun r => r.1 = x.loc).isSome then stripeNumbers l else (x.seq, x.seq)
    xorImages l = 0 && n.1 = x.seq && n.2 = x.seq && (prev.map fun p => decide (x.seq = p + 1)).getD true

/-- The valid stripes from a place of the journal on (R108): it ends at the last valid one. -/
def scanStripes (d : Dp) (reads : List StripeRead) : Option Nat → List JStripe → List JStripe
  | _, [] => []
  | prev, x :: l =>
    if stripeValid d reads prev x then { x with ok := true } :: scanStripes d reads (some x.seq) l else []

/-- The journal as step 1 of R117 finds it: from the head pointer on, or, where its page is damaged or holds none, by a scan
of the whole range (R300). -/
def findJournal (d : Dp) (reads : List StripeRead) : List JStripe :=
  let all := scanStripes d reads none d.jrn.stripes
  match (if 34 ∈ d.pst.undecodable then none else d.pst.dev.journalHead) with
  | none => all
  | some h =>
    let l := d.jrn.stripes.dropWhile fun x => x.loc ≠ h
    if l = [] then all else scanStripes d reads none l

/-- The stripes that the scan for the journal reads (R108, R117): the valid ones and the one that ends it. -/
def scannedStripes (d : Dp) (found : List JStripe) : List JStripe :=
  found ++ (d.jrn.stripes.filter fun x =>
    (found.getLast?.map fun y => decide (y.seq < x.seq)).getD true).take 1

/-- The reads of the journal's stripes (R117, R138, R164): every member that can be read, and a report of each that carries
another's label. The codes are those of page 0's entry, as for every metadata member (log entry 133). -/
def journalReads (c : Ctl) (reads : List StripeRead) (found : List JStripe) (d : Dp) : Dp :=
  (scannedStripes d found).foldl (fun d x =>
    let s := journalStripe d x.loc
    (List.range 17).foldl (fun d k =>
      let p := chanPos (stripeRow s) k
      let d1 := riseRead c s k (memberCode c d (curEntry d 0) p) d
      match reads.find? fun r => r.1 = x.loc with
      | some r =>
        let label := if p = 16 then parityLabel else metaLabel (journalIndex x.loc) p
        if unavailable d s k then d1 else noteMisplaced s p 0xFF (outerDecode (r.2.getD p 0) label) d1
      | none => d1) d) d

/-- The number of places from one of the circle to the next of a list. -/
def placeGap (n : Nat) (used : List Nat) (x : Nat) : Nat :=
  used.foldl (fun a y => if y = x then a else min a ((y + n - x) % n)) n

/-- Where the journal goes on after a scan (R106, R117): behind the used place that the largest gap of the circle follows. A
stripe that failed has been written again, under its number, behind stripes of higher numbers (R111). -/
def journalHeadAfter (n : Nat) (used : List Nat) : Nat :=
  match used.foldl (fun (a : Option Nat) x => match a with
    | none => some x
    | some y => if placeGap n used y ≤ placeGap n used x then some x else a) none with
  | some x => (x + 1) % n
  | none => 0

/-- Recovery steps 1 and 2 of R117: the journal's head is found and the mirrors, the stripe states and the free-stripe
bitmap are rebuilt. A parity check left unfinished goes on (R118). -/
def rebuildMapping (reads : List StripeRead) (c : Ctl) (d : Dp) : Dp :=
  let l := findJournal d reads
  let pass := lastPass (cfgN d) l
  let table := l.foldl (applyStripe pass) []
  let media := mediaRecords (l.filter fun s => (pass.map fun p => decide (p.1 ≤ s.seq)).getD true)
  let ck := (l.filterMap fun s => match s.body with
    | .checkpoint f es => some (f + es.length)
    | _ => none).getLast?.getD 0
  let d1 := { d with
    jrn := { d.jrn with
      stripes := l
      seq := (l.getLast?.map (·.seq)).getD 0
      head := journalHeadAfter (journalStripes (cfgN d)) (l.map (·.loc))
      media := media, nextChg := lastChangeNo l + 1, ckptNext := if hostPages (cfgN d) ≤ ck then 0 else ck }
    map := { d.map with copyA := table, copyB := table, state := [], bitmap := true }
    mh := { d.mh with now := ((newestSample d).map (·.horizon)).getD 0, lapStart := d.now }
    hbm := { d.hbm with order := BitVec.ofNat 2 (rg c 0x100000 0 2) } }
  let d2 := media.foldl (fun d x => putState x.1 x.2.1 x.2.2 d) d1
  let d3 := journalReads c reads l ((stripesInUse d2).foldl (fun d s => checkLost c s d) d2)
  if d3.mh.parityCheck then addWork 2 .parityCheck d3 else d3

/-- Step 7 of R350. -/
def mappingRebuilds (reads : List StripeRead) (c : Ctl) (d : Dp) : Dp :=
  if !riseAt 6 d then d
  else
    let d1 := if d.sec.erase && d.sec.placeKey.isSome then d else loadPlaceKey c d
    let d2 := bump { d1 with map := { d1.map with cursor := (rngNow d1).extractLsb' 0 31 } }
    riseDone 7 (if cfgN d2 = 0 then d2 else rebuildMapping reads c d2)

/-- MAPPING_REBUILD (R117): `reads` gives the codewords of journal stripes that may not read as they were programmed (R108). -/
def execMappingRebuild (reads : List (Nat × List Image)) (s : State) : Host.Outcome State Fault Refusal :=
  onDp (mappingRebuilds reads) s

/-- The number of the drain a journal stripe belongs to. -/
def JBody.drainOf : JBody → Option Nat
  | .sectors n _ => some n
  | .intents n _ => some n
  | .sealRec n _ _ _ => some n
  | _ => none

/-- The most recent drain in the journal (R117 step 3). -/
def lastDrain (d : Dp) : Option Nat := d.jrn.stripes.reverse.findSome? fun s => s.body.drainOf

/-- The seal of a drain: log stripes, duration, cause. -/
def sealOf (d : Dp) (n : Nat) : Option (Nat × Nat × Nat) :=
  d.jrn.stripes.findSome? fun s => match s.body with
    | .sealRec m st us k => if m = n then some (st, us, k) else none
    | _ => none

/-- Whether a drain has been replayed (R107 type 6). -/
def replayed (d : Dp) (n : Nat) : Bool := d.jrn.stripes.any fun s => s.body = .replayed n

/-- Load DRN_LAST (R116). -/
def setDrnLast (clean : Bool) (cause us stripes : Nat) (d : Dp) : Dp :=
  { d with jrn := { d.jrn with
      lastValid := true, lastClean := clean, lastCause := BitVec.ofNat 3 cause, lastUs := us, lastStripes := stripes } }

/-- A dirty shutdown (R105, R118, R304): counted once, reported, and followed by a parity check of every stripe, from the
first. `counted` tells that an earlier RISE, cut short, has counted it. -/
def dirtyShutdown (counted : Bool) (cause : Nat) (c : Ctl) (d : Dp) : Ctl × Dp :=
  let d1 := addWork 2 .parityCheck (setDrnLast false cause 0 0 { d with mh := { d.mh with parityCheck := true, checkNext := 0 } })
  if counted then (c, d1)
  else
    let c1 := cntInc 0 c
    (c1, eventRecord c 2 7 0 { d1 with jrn := { d1.jrn with dirtyNo := cntValue c1 0 } })

/-- What RISE remembers of its classification until service begins (R351): 0 a drain, 1 a shutdown without one, 2 nothing
to classify. -/
def classifyCode (d : Dp) : Nat :=
  match d.jrn.counted with
  | some k => k
  | none =>
    if d.sec.firstRise then 2
    else match lastDrain d with
      | none => 1
      | some n => if replayed d n then 1 else 0

/-- Classify the last shutdown (R117 step 3, R105, R324). A warm RISE has none to classify: DRN_LAST keeps what it reports
(R116), also where that RISE was cut short. A shutdown whose counter slot the cut left failing has not been counted (R304). -/
def classify (c : Ctl) (d : Dp) : Ctl × Dp :=
  let code := classifyCode d
  let counted := d.jrn.counted.isSome && d.jrn.dirtyNo ≠ 0 && d.jrn.dirtyNo ≤ cntValue c 0
  let d1 := { d with jrn := { d.jrn with counted := some code } }
  match code with
  | 0 =>
    let left := match newestSample d with
      | some s => if s.drain.isSome && s.drain = lastDrain d then s.logPending else 0xFFFFFFFF
      | none => 0xFFFFFFFF
    let d2 := { d1 with flt := { d1.flt with pendingAtDrain := some left } }
    (match (lastDrain d).bind (sealOf d) with
    | some (st, us, k) => (c, setDrnLast true k us st d2)
    | none => dirtyShutdown counted 6 c d2)
  | 1 =>
    let began := d.pst.dev.pdNew && (d.pst.dev.powerDown.map (·.mode)) = some (BitVec.ofNat 3 Mode.drain.code)
    dirtyShutdown counted 7 c (if began then { d1 with flt := { d1.flt with pendingAtDrain := some 0xFFFFFFFF } } else d1)
  | _ => match d1.jrn.kept with
    | some (clean, cause, us, stripes) => (c, setDrnLast clean cause.toNat us stripes d1)
    | none => (c, d1)

/-- Programme a member of a stripe where it has a place to be programmed (R117 steps 4 and 5). `bad` names a member once for
each of its programmes that failed verify: it is programmed once more; failing again it is worn (R143), and its page
relocates, or, with no spare, the member is marked failed. Whether its slot holds the image, or need not. -/
def replayMember (c : Ctl) (bad : List (Stripe × Nat)) (s : Stripe) (k : Nat) (i : Image) (d : Dp) : Bool × Dp :=
  match memberLoc d s k with
  | none => (true, d)
  | some loc =>
    let n := min 2 ((bad.filter fun x => x.1 = s && x.2 = k).length)
    let failed := fun (d : Dp) => raise loc.2.2 0x05 (mkStripe loc.1 loc.2.1).toNat loc.2.2 0x06 3 d
    let page := if k = parityChan (stripeRow s) then none else stripeOwner d s
    let d1 := wholePrg c loc i page d
    if n = 0 then (true, d1)
    else
      let d2 := wholePrg c loc i page (failed d1)
      if n = 1 then (true, d2)
      else match stripeOwner d s with
        | some p =>
          if 0 < spare d then (false, addWork 2 (.retire (BitVec.ofNat 31 p) (BitVec.ofNat 5 k)) (failed d2))
          else (true, checkLost c s (markFailed s k (failed d2)))
        | none => (false, failed d2)

/-- A codeword with logged sectors merged into its ciphertext (R88, R91, R117 step 5); one that cannot be decoded goes on
poisoned outside the logged sectors (R162). -/
def mergeLogged (d : Dp) (l : LineAddr) (old : Image) (recs : List DrainSector) : Image × Bool :=
  let slot := (recs.getLast?.map (·.slot)).getD 0
  let dec := outerDecode old (wantLabel d l old)
  let base := if dec.cls.good then dec.image else poisonImage d slot (linePage l) (linePos l)
  let pick := fun (k : Nat) => (recs.filter fun r => secIdx r.addr = k).getLast?
  let data := fun (k : Nat) => match pick k with
    | some r => r.data
    | none => imgSector base k
  let poison : BitVec 4 := (List.range 4).foldl (fun a k =>
    if (match pick k with
      | some r => r.poison
      | none => imgPoison base k) then setBit a k else a) 0
  (outerEncode (data 0 ++ data 1 ++ data 2 ++ data 3) (metaWord (hostLabel slot (linePage l) (linePos l)) poison),
    dec.cls.good)

/-- The logged sectors of a drain, in log order (R111). -/
def loggedSectors (d : Dp) (n : Nat) : List DrainSector :=
  d.jrn.stripes.flatMap fun s => match s.body with
    | .sectors m recs => if m = n then recs else []
    | _ => []

/-- The intents of a drain. The members of a reserve stripe belong to other rows and have no parity among them: there is none
to repair (DEDUCED from R42 and R148). -/
def loggedIntents (d : Dp) (n : Nat) : List Stripe :=
  (d.jrn.stripes.flatMap fun s => match s.body with
    | .intents m l => if m = n then l else []
    | _ => []).filter fun s => rowRole (stripeRow s) ≠ .reserve

/-- Keep a logged sector in the persistence domain until it can be merged (R117, R383). -/
def holdLogged (r : DrainSector) (d : Dp) : Dp :=
  addWork 2 .mergeHeld { d with sec := { d.sec with heldSectors := d.sec.heldSectors ++ [r] } }

/-- Merge the logged sectors of one codeword: its mapping entry takes the present horizon (R134); where the entry holds
another epoch (R134), or the programme fails for good (R143), the sectors stay in the persistence domain. -/
def replayLine (c : Ctl) (bad : List (Stripe × Nat)) (s : Stripe) (l : LineAddr) (old : Image) (recs : List DrainSector)
    (d : Dp) : Option Image × Dp :=
  let p := (linePage l).toNat
  let keep := fun (d : Dp) => recs.foldl (fun d r => holdLogged r d) d
  match horizonCheck d.mh.now (curEntry d p) (linePos l) with
  | none => (none, keep d)
  | some change =>
    let d1 : Dp := match change with
      | some v => changeEntry c p v d
      | none => d
    let x := mergeLogged d1 l old recs
    let d1 := noteMisplaced s (linePos l) 0xFF (outerDecode old (wantLabel d1 l old)) d1
    let y := replayMember c bad s (posChan (stripeRow s) (linePos l)) x.1 (if x.2 then d1 else nameLost l d1)
    if y.1 then (some x.1, y.2) else (none, keep y.2)

/-- Repair and replay one stripe (R117 steps 4 and 5): its parity becomes the exclusive-OR of its 16 data members, and
its logged codewords are merged, with the parity following them. -/
def replayStripe (c : Ctl) (bad : List (Stripe × Nat)) (recs : List DrainSector) (s : Stripe) (imgs : List Image) (d : Dp) : Dp :=
  let row := stripeRow s
  let owner := stripeOwner d s
  let e := curEntry d (owner.getD 0)
  let d0 := (List.range 16).foldl (fun d j => riseRead c s (posChan row j) (memberCode c d e j) d) d
  let d1 := (replayMember c bad s (parityChan row) (xorImages imgs) d0).2
  let mine := recs.filter fun r => owner = some (linePage (secLine r.addr)).toNat
  if mine = [] then d1
  else
    let step := fun (x : List Image × Dp) (j : Nat) =>
      let here := mine.filter fun r => linePos (secLine r.addr) = j
      match here with
      | [] => x
      | r :: _ =>
        let y := replayLine c bad s (secLine r.addr) (x.1.getD j 0) here x.2
        match y.1 with
        | some i => (setAt x.1 j i, y.2)
        | none => (x.1, y.2)
    let z := (List.range 16).foldl step (imgs, d1)
    (replayMember c bad s (parityChan row) (xorImages z.1) z.2).2

/-- The stripes that a replay repairs: those of the intents, then those that hold logged sectors, each once. -/
def replayStripes (d : Dp) (n : Nat) : List Stripe :=
  let mapped := (loggedSectors d n).filterMap fun r =>
    let e := curEntry d (linePage (secLine r.addr)).toNat
    if entryValid e then some (entryStripe e) else none
  (loggedIntents d n ++ mapped).foldl (fun l s => addOnce s l) []

/-- Write the type 6 record of a drain (R107, R117). -/
def markReplayed (c : Ctl) (n : Nat) (d : Dp) : Dp :=
  let d1 := appendStripe (.replayed n) d
  stripeVerified d1.jrn.seq (issueStripe c d1.jrn.seq d1)

/-- Steps 4 and 5 of R117 for a drain not yet replayed; `members` holds the 16 data codewords of each stripe of
`replayStripes`, as read or rebuilt. Sectors of unmapped pages stay in the persistence domain; while RISE may
still be cut short they are in the drain's stripes alone, and the type 6 record waits for its end (R351; DESIGN CHOICE, log
entry 152). -/
def replayDrain (c : Ctl) (n : Nat) (members : List Image) (bad : List (Stripe × Nat)) (d : Dp) : Dp :=
  let recs := loggedSectors d n
  let d1 := (replayStripes d n).zipIdx.foldl (fun d x =>
    replayStripe c bad recs x.1 (padImages ((members.drop (16 * x.2)).take 16)) d) d
  let d2 := (recs.filter fun r => !entryValid (curEntry d (linePage (secLine r.addr)).toNat)).foldl
    (fun d r => holdLogged r d) d1
  if d2.sec.heldSectors = [] then markReplayed c n d2 else d2
where
  /-- Sixteen images: one not supplied reads as zeros. -/
  padImages (l : List Image) : List Image := (l ++ List.replicate 16 0).take 16

/-- Step 8 of R350: classify, repair, replay (R117, R118). An erase that resumes replaces it (R393). -/
def replays (members : List Image) (bad : List (Stripe × Nat)) (c : Ctl) (d : Dp) : Ctl × Dp :=
  if !riseAt 7 d then (c, d)
  else if cfgN d = 0 ∨ d.sec.erase then (c, riseDone 8 { d with jrn := { d.jrn with counted := some 2 } })
  else
    let x := classify c d
    let d1 := match lastDrain x.2 with
      | some n => if replayed x.2 n then x.2 else replayDrain x.1 n members bad x.2
      | none => x.2
    (x.1, riseDone 8 d1)

/-- REPLAY (R117): `members` as read for it, `bad` the members whose programmes failed verify. -/
def execReplay (members : List Image) (bad : List (Stripe × Nat)) (s : State) : Host.Outcome State Fault Refusal :=
  onBoth (replays members bad) s

/-- Insert into a rising list. -/
def insertNat (x : Nat) : List Nat → List Nat
  | [] => [x]
  | y :: l => if x ≤ y then x :: y :: l else y :: insertNat x l

/-- The median of a list, the lower of the two middle values of an even count; 0 of none. -/
def median (l : List Nat) : Nat := (l.foldr insertNat []).getD ((l.length - 1) / 2) 0

/-- Distance of two codes. -/
def codeDist (a b : Nat) : Nat := (a - b) + (b - a)

/-- The age class whose reference code is nearest a rung (R136 step 4), the lower class of two as near. -/
def nearestClass (c : Ctl) (rung : Nat) : Nat :=
  (List.range 16).foldl (fun a k =>
    if codeDist (rg c (0xE0340 + 4 * k) 0 6) rung < codeDist (rg c (0xE0340 + 4 * a) 0 6) rung then k else a) 0

/-- The age of a mapped page's base horizon is put in its place among those of a list, the greatest first. -/
def insertOldest (d : Dp) (x : Nat × BitVec 64) : List (Nat × BitVec 64) → List (Nat × BitVec 64)
  | [] => [x]
  | y :: l => if baseAge d y.2 ≤ baseAge d x.2 then x :: y :: l else y :: insertOldest d x l

/-- The pages that the re-anchor samples (R136 step 2): of each stripe set the eight with the greatest base_h age, the lower
page number first of two as old. -/
def anchorPages (d : Dp) : List (Nat × BitVec 64) :=
  (List.range (stripeSets (cfgN d))).flatMap fun set =>
    (((mappedPages d).filter fun e => stripeSet (entryStripe e.2) = set).foldr (insertOldest d) []).take 8

/-- The data position read of a sampled page: the first that carries base_h (DESIGN CHOICE, log entry 134). -/
def anchorPos (e : BitVec 64) : Nat := ((List.range 16).find? fun j => !(entryMask e).getLsbD j).getD 0

/-- The ladder rungs (R136 step 2): up to 32 reference codes from HZN_REF_0.code upward, in steps of 2. -/
def anchorRungs (c : Ctl) : List Nat := ((List.range 32).map fun i => rg c 0xE0340 0 6 + 2 * i).filter (· < 64)

/-- The rung of a sample with the fewest outer-corrected bits, the lowest of several (R136 step 3); a codeword that does not
decode counts for nothing (DESIGN CHOICE, log entry 134). -/
def bestRung (c : Ctl) (d : Dp) (l : LineAddr) (imgs : List Image) : Option Nat :=
  (((anchorRungs c).zip imgs).foldl (fun (a : Option (Nat × Nat)) x =>
    let y := outerDecode x.2 (wantLabel d l x.2)
    if !y.cls.good then a
    else match a with
      | some b => if y.cls.bits < b.2 then some (x.1, y.cls.bits) else a
      | none => some (x.1, y.cls.bits)) none).map (·.1)

/-- The gap estimate of a sample in ticks (R136 step 4). A best rung below the one expected of its age gives a gap of 0, where
the rule gives a negative one (DESIGN CHOICE, log entry 134). -/
def gapOf (c : Ctl) (x : AnchorSample) : Nat := hoursToTicks c (classEdge (nearestClass c x.bestRung.toNat)) - x.tagAge

/-- The samples of the re-anchor, from the codewords read of each page at its rungs (R136 steps 2 and 3). -/
def anchorSamples (c : Ctl) (d : Dp) (reads : List (List Image)) : List AnchorSample :=
  ((anchorPages d).zip reads).filterMap fun x =>
    (bestRung c d (pageLine (BitVec.ofNat 31 x.1.1) (anchorPos x.1.2)) x.2).map fun r => ⟨baseAge d x.1.2, BitVec.ofNat 6 r⟩

/-- The reads of the re-anchor's samples (R136 step 2); a codeword that carries another's label is reported (R164). -/
def anchorReads (c : Ctl) (reads : List (List Image)) (d : Dp) : Dp :=
  ((anchorPages d).zip reads).foldl (fun a x =>
    let s := entryStripe x.1.2
    let l := pageLine (BitVec.ofNat 31 x.1.1) (anchorPos x.1.2)
    ((anchorRungs c).zip x.2).foldl (fun a y =>
      noteMisplaced s (anchorPos x.1.2) 0xFF (outerDecode y.2 (wantLabel a l y.2))
        (riseRead c s (posChan (stripeRow s) (anchorPos x.1.2)) (BitVec.ofNat 6 y.1) a)) a) d

/-- Step 6 of R117 (R136): the horizons are re-anchored and a rewrite is queued for every mapped page. `reads` holds the
codewords of each page of `anchorPages`, one for each rung. -/
def reanchors (reads : List (List Image)) (c : Ctl) (d : Dp) : Dp :=
  if !riseAt 8 d then d
  else
    let samples := anchorSamples c d reads
    let gap := median (samples.map (gapOf c))
    let pages := mappedPages d
    let d0 := anchorReads c reads d
    let d1 := { d0 with mh := { d0.mh with
      boundary := d.mh.now
      gap := sat 0xFFFF (if d.mh.reanchor then gap + d.mh.gap else gap)
      anchorRef := BitVec.ofNat 6 (median (samples.map fun s => s.bestRung.toNat))
      reanchor := pages ≠ [] } }
    riseDone 9 (pages.foldl (fun d e => addWork 4 (.reanchor (BitVec.ofNat 31 e.1)) d) d1)

/-- REANCHOR (R136). -/
def execReanchor (reads : List (List Image)) (s : State) : Host.Outcome State Fault Refusal :=
  onDp (reanchors reads) s

/-- The anti-rollback counter follows the running image (R396). -/
def advanceFw (d : Dp) (c : Ctl) : Ctl :=
  match d.sec.runImage with
  | some i => cntWrite (3 + i.index.toNat) i.secVersion.toNat c
  | none => c

/-- Whether the negotiated link carries CXL.mem (R241): CXL flits, which run at 8 GT/s and above, at x4 or wider. A link that is
down forbids nothing. -/
def memLink (d : Dp) : Bool :=
  !linkUp d || (3 ≤ d.hif.rate.toNat && d.hif.flit ≠ 0 && !(d.hif.width = 1 || d.hif.width = 2))

/-- Step 10 of R350 (R351, R10, R257): the lock is set with Memory_Active, credits are advertised, and SERVE or FALLOW is
entered. While PERST_N is asserted, during EXTEST, or while VDD_CORE has not reached 0.70 V (R24), RISE holds here. -/
def riseCompletes (c : Ctl) (d : Dp) : Ctl × Dp :=
  if !riseAt 9 d || !d.sup.perstN || d.sec.extest || d.fab.setPoint < 700 then (c, d)
  else
    let c1 := { advanceFw d c with cfgLocked := true }
    let dr := match lastDrain d with
      | some n => if replayed d n || cfgN d = 0 || d.sec.heldSectors = [] then d else markReplayed c n d
      | none => d
    let d1 := riseDone 10 { dr with
      hif := { d.hif with memActive := memLink d }
      sup := { d.sup with attempts := 0 }
      sec := { d.sec with firstRise := false }
      jrn := { dr.jrn with counted := none, dirtyNo := 0, kept := none }
      flt := { d.flt with pendingAtDrain := none } }
    let d2 := match d.flt.pendingAtDrain with
      | some n => eventRecord c 1 6 n d1
      | none => d1
    let d3 := if d2.pst.dev.pdNew && d2.sup.pdValid && (d2.sup.pdFaulty ≠ 0 || d2.sup.pdAux) then
        writeSample c 3 0 d2.sup.pdFaulty.toNat 0 d2 else d2
    let fallow := fallowCond c1 d3
    let dn := { d3 with pst := { d3.pst with dev := { d3.pst.dev with pdNew := false } } }
    let d4 := if fallow then setMode .fallow 0x0C (eventRecord c 2 2 0 dn) else setMode .serve 0x01 dn
    let d5 := moveVcore (vset c1) 0 d4
    let d6 := { d5 with thm := { d5.thm with vTarget := vset c1 } }
    (c1, if linkUp d6 && d6.hif.memActive then advertise c1 d6 else d6)

/-- RISE_COMPLETE (R350). -/
def execRiseComplete (s : State) : Host.Outcome State Fault Refusal := onBoth riseCompletes s

/-- FALLOW_ENTRY (R153): an entry condition is met in SERVE. -/
def execFallowEntry (s : State) : Host.Outcome State Fault Refusal :=
  onDp (fun c d =>
    if d.sup.mode = .serve && !d.sup.downActive && !d.sup.warm && d.sup.isoReleased && fallowCond c d then
      enterFallow c 0x0C (eventRecord c 2 2 0 d)
    else d) s

end Sys2Proof.Machine
end

