-- ==== Sys2Proof/Machine/Link.lean ====
section
/-! DEFINITION. The link and its resets (R241 to R262, R450), Global Persistent Flush (R119), MSI-X (R246, R263), the HDM
decoders (R258 to R261), and the DOE protocols (R264, R265, R397, R398). -/

namespace Sys2Proof.Machine

/-- Whether a rate, a width and a flit mode are ones the SW64 supports (R241); flit mode 0 is a link without CXL. -/
def linkSupported (rate : BitVec 4) (width : BitVec 5) (flit : BitVec 2) : Bool :=
  1 ≤ rate.toNat && rate.toNat ≤ 6 && (width.toNat = 1 || width.toNat = 2 || width.toNat = 4 || width.toNat = 8 || width.toNat = 16) &&
  flit.toNat ≤ 2 && (flit.toNat = 0 || 3 ≤ rate.toNat) && (flit.toNat ≠ 1 || (4 ≤ rate.toNat && rate.toNat ≤ 5) || rate.toNat = 3)

/-- log₂ of a width. -/
def log2Width (w : Nat) : Nat := if w = 16 then 4 else if w = 8 then 3 else if w = 4 then 2 else if w = 2 then 1 else 0

/-- The widest width of the SW64 within a partner's (R241). -/
def commonWidth (w : Nat) : Nat := if 16 ≤ w then 16 else if 8 ≤ w then 8 else if 4 ≤ w then 4 else w

/-- The highest rate both partners support (R241): without the 256-byte flit a CXL partner reaches 32 GT/s at most, and
STRAP[2] caps training at 32 GT/s (R454). -/
def commonRate (straps : BitVec 4) (rate : Nat) (flit : BitVec 2) : Nat :=
  min rate (if flit = 1 || straps.getLsbD 2 then 5 else 6)

/-- Where training ends from a rate and a width, after f failures at that rate (R242): three failures at a rate move it down
one rate, and failed lanes move it down one width. -/
def trainTo (r w f : Nat) : List LinkTry → Nat × Nat
  | [] => (r, w)
  | .rateFails :: ts => if f = 2 ∧ 1 < r then trainTo (r - 1) w 0 ts else trainTo r w (min 2 (f + 1)) ts
  | .lanesFail :: ts => trainTo r (w / 2) f ts

/-- The rate, width and flit mode a link trains to (R241, R242): CXL flits run at 8 GT/s and above. -/
def linkResult (straps : BitVec 4) (rate : BitVec 4) (width : BitVec 5) (flit : BitVec 2) (tries : List LinkTry) :
    BitVec 4 × BitVec 5 × BitVec 2 :=
  let x := trainTo (commonRate straps rate.toNat flit) (commonWidth width.toNat) 0 tries
  (BitVec.ofNat 4 x.1, BitVec.ofNat 5 x.2, if x.1 < 3 then 0 else flit)

/-- The link has trained (R242, R350): a result below x16 at 64 GT/s is counted and reported. A link at 2.5 or 5 GT/s, at x1 or
x2, or with a partner that is no CXL host carries no CXL.mem (R241). Credits are advertised afresh when the link had been down,
and when CXL.mem begins on a link that was up without it (R251). -/
def linkTrained (rate : BitVec 4) (width : BitVec 5) (flit : BitVec 2) (c : Ctl) (d : Dp) : Dp :=
  if !linkSupported rate width flit || !d.sup.perstN || d.sup.mode = .off || d.sup.downActive || !d.sup.refclk ||
      (d.sup.mode = .rise && d.glb.riseStep < 2) then d
  else
    let was := linkUp d
    let full := rate = 6 && width = 16
    let d1 := { d with hif := { d.hif with
      rate := rate, width := width, flit := flit, ltssm := 3, l1 := false, sub := 0, clkReq := true
      downgrades := if full then d.hif.downgrades else satInc 0xFF d.hif.downgrades
      drs := if was then d.hif.drs else s2mInitial
      ndr := if was then d.hif.ndr else s2mInitial } }
    let d2 := { d1 with hif := { d1.hif with
      memActive := memLink d1 && (d1.hif.memActive || ((awake d1 || d1.sup.mode = .drain) && !d1.sup.warm)) } }
    let d3 := if full then d2 else raise 0x40 0x1B 0 (16 * rate.toNat + log2Width width.toNat) 0xFF noAccess d2
    if (!was || !d.hif.memActive) && d3.hif.memActive then advertise c d3 else d3

/-- The link trains with a partner (R241, R242). -/
def linkTrains (rate : BitVec 4) (width : BitVec 5) (flit : BitVec 2) (tries : List LinkTry) (c : Ctl) (d : Dp) : Dp :=
  let x := linkResult d.glb.straps rate width flit tries
  linkTrained x.1 x.2.1 x.2.2 c d

/-- LINK_TRAINING (R242). -/
def execLinkTraining (rate : BitVec 4) (width : BitVec 5) (flit : BitVec 2) (tries : List LinkTry) (s : State) :
    Host.Outcome State Fault Refusal :=
  onDp (linkTrains rate width flit tries) s

/-- Set bits of the correctable status of the CXL RAS capability (R255). -/
def rasCorrectable (i : Nat) (d : Dp) : Dp :=
  { d with hif := { d.hif with ras := { d.hif.ras with cor := setBit d.hif.ras.cor i } } }

/-- FLIT_REPLAY (R255): counted, and reported through AER and the CXL RAS capability, whose bit 2 is CRC_Threshold (PRESUMED, log
entry 16). -/
def execFlitReplay (s : State) : Host.Outcome State Fault Refusal :=
  onDp (fun _ d =>
    if linkUp d then emit .aerLink <| rasCorrectable 2 <| raise 0x40 0x1A 0 1 0xFF noAccess { d with hif := { d.hif with replay := satInc 0xFFF d.hif.replay } } else d) s

/-- LINK_RECOVERY (R255): counted, and reported through AER and the CXL RAS capability, whose bit 6 is Physical_Layer_Error
(PRESUMED, log entry 16). -/
def execLinkRecovery (s : State) : Host.Outcome State Fault Refusal :=
  onDp (fun _ d =>
    if linkUp d then emit .aerLink <| rasCorrectable 6 <| raise 0x40 0x1A 0 0 0xFF noAccess { d with hif := { d.hif with recovery := satInc 0xFFF d.hif.recovery } } else d) s

/-- Key number of a key set: stream, direction, set (R398). -/
def keySlotNo (pcie set tx : Bool) : Nat := 4 * b2n pcie + 2 * b2n tx + b2n set

/-- Forget the keys of a stream. -/
def dropStream (pcie : Bool) (d : Dp) : Dp :=
  { d with hif := { d.hif with
      ideKeys := d.hif.ideKeys.filter fun e => (4 ≤ e.1) ≠ pcie
      ideActive := if pcie then d.hif.ideActive &&& 0x0F else d.hif.ideActive &&& 0xF0
      ideSecure := d.hif.ideSecure && pcie
      pcieSecure := d.hif.pcieSecure && !pcie } }

/-- An IDE integrity check fails (R256): the failed epoch's requests are discarded and their credits freed, the stream
becomes insecure, and the failure is reported. -/
def integrityFails (pcie : Bool) (reads writes : Nat) (c : Ctl) (d : Dp) : Dp :=
  if !linkUp d || !(if pcie then d.hif.pcieSecure else d.hif.ideSecure) then d
  else
    let d1 := emit .aer (raise 0x40 0x3E 0 (b2n pcie) 0xFF noAccess (pmuCount c 22 0x14 1 (dropStream pcie d)))
    if pcie then d1
    else
      let r := min reads d1.hif.hr
      let w := min writes d1.hif.hw
      { d1 with hif := { d1.hif with
        ras := { d1.hif.ras with unc := setBit d1.hif.ras.unc 16 }, ideFailed := true, hr := d1.hif.hr - r, hw := d1.hif.hw - w, unreturned := d1.hif.unreturned + r + w } }

/-- INTEGRITY_CHECK_FAILURE (R256). -/
def execIntegrityCheckFailure (pcie : Bool) (reads : Nat) (writes : Nat) (s : State) : Host.Outcome State Fault Refusal :=
  onDp (integrityFails pcie reads writes) s

/-- FLR (R262). -/
def execFlr (s : State) : Host.Outcome State Fault Refusal :=
  onBoth (fun c d => if linkUp d then flrBoth c d else (c, d)) s

/-- Hot reset, or any link-down (R262): accepted requests complete internally, answers are discarded, and the function is
reset as by FLR. -/
def hotResets (c : Ctl) (d : Dp) : Ctl × Dp := if linkUp d then flrBoth c (linkDown c d) else (c, d)

/-- HOT_RESET (R262). -/
def execHotReset (s : State) : Host.Outcome State Fault Refusal := onBoth hotResets s

/-- REFCLK stops (R450): other than in L1.2, with CLKREQ_N deasserted, the link goes down as by a hot reset. -/
def refclkStops (c : Ctl) (d : Dp) : Ctl × Dp :=
  let d1 := { d with sup := { d.sup with refclk := false } }
  if d.hif.sub = 2 then (c, d1) else hotResets c d1

/-- REFCLK_LOSS (R450). -/
def execRefclkLoss (s : State) : Host.Outcome State Fault Refusal := onBoth refclkStops s

/-- REFCLK_RETURN (R450). -/
def execRefclkReturn (s : State) : Host.Outcome State Fault Refusal :=
  onDp (fun _ d => { d with sup := { d.sup with refclk := true } }) s

/-- GPF_PHASE_1 (R119). -/
def execGpfPhase1 (s : State) : Host.Outcome State Fault Refusal :=
  onDp (fun _ d => if linkUp d then emit (.gpfAck 1) d else d) s

/-- GPF phase 2 arrives (R119): it waits for the writes received before it. -/
def flushPhase2 (d : Dp) : Dp :=
  if linkUp d then gpfSettle { d with hif := { d.hif with gpf := some d.now } } else d

/-- GPF_PHASE_2 (R119). -/
def execGpfPhase2 (s : State) : Host.Outcome State Fault Refusal := onDp (fun _ d => flushPhase2 d) s

/-- Send the posted writes held while Bus Master Enable was clear (R246). -/
def sendHeld (d : Dp) : Dp :=
  d.hif.heldWrites.foldl (fun d h => match h with
    | .entry a ws => emit (.hostWrite a ws) d
    | .message v => emit (.msix v) d) { d with hif := { d.hif with heldWrites := [] } }

/-- BUS_MASTER_ENABLE (R246). -/
def execBusMasterEnable (on : Bool) (s : State) : Host.Outcome State Fault Refusal :=
  onDp (fun _ d =>
    if !linkUp d then d
    else
      let d1 := { d with hif := { d.hif with busMaster := on } }
      if on then sendHeld d1 else d1) s

/-- VECTOR_UNMASK (R263). -/
def execVectorUnmask (vector : Nat) (s : State) : Host.Outcome State Fault Refusal :=
  onDp (fun _ d => if linkUp d then unmaskVector vector d else d) s

/-- S2M_CREDIT_RETURN (R252): answers that waited leave. -/
def execS2mCreditReturn (drs : Nat) (ndr : Nat) (s : State) : Host.Outcome State Fault Refusal :=
  onDp (fun c d =>
    if linkUp d then flushAnswers c { d with hif := { d.hif with drs := d.hif.drs + drs, ndr := d.hif.ndr + ndr } } else d) s

/-- DECODER_COMMIT (R259). -/
def execDecoderCommit (n : Nat) (base : BitVec 52) (size : BitVec 52) (iw : Nat) (ig : Nat) (skip : BitVec 52) (lock : Bool)
    (s : State) : Host.Outcome State Fault Refusal :=
  onDp (commitsDecoder n { base := base, size := size, iw := iw, ig := ig, skip := skip, lock := lock }) s

/-- DECODER_COMMIT_CLEAR (R259, R261). -/
def execDecoderCommitClear (n : Nat) (s : State) : Host.Outcome State Fault Refusal :=
  onDp (fun _ d => clearsDecoder n d) s

/-- A DOE object sent in answer: its 64-bit words, least significant first. -/
def doeAnswer (ws : List (BitVec 64)) (d : Dp) : Dp := emit (.doe ws) d

/-- A DOE request: an exit trigger of R354, and in DORMANT, where the processors are halted (R352), no more than that; the
requester's object is answered when it is taken up after the exit (log entry 144). -/
def onDoe (live : Dp → Bool) (f : Ctl → Dp → Dp) (s : State) : Host.Outcome State Fault Refusal :=
  onDp (fun c d =>
    if d.sup.mode = .dormant then dormantExit c .doeOrSideband d
    else if live d then f c (dormantExit c .doeOrSideband d) else d) s

/-- The DOE protocols of R264: vendor and protocol, in the order of discovery (log entry 17). -/
def doeProtocols : List (Nat × Nat) := [(0x0001, 0), (0x0001, 1), (0x0001, 2), (0x1E98, 2)]

/-- DOE_DISCOVERY (R264): one protocol and the next index; an index past the last reads vendor 0xFFFF. -/
def execDoeDiscovery (index : BitVec 8) (s : State) : Host.Outcome State Fault Refusal :=
  onDoe linkUp (fun _ d =>
    let x := doeProtocols.getD index.toNat (0xFFFF, 0)
    let next := if index.toNat + 1 < doeProtocols.length then index.toNat + 1 else 0
    doeAnswer [BitVec.ofNat 64 (x.1 + x.2 * 2 ^ 16 + next * 2 ^ 24)] d) s

/-- A DSLBIS of 24 bytes, with a base unit and one entry (R265, log entry 17). -/
def dslbis (dataType unit entry : Nat) : List (BitVec 8) :=
  bytesLe 1 1 ++ bytesLe 1 0 ++ bytesLe 2 24 ++ bytesLe 1 0 ++ bytesLe 1 0 ++ bytesLe 1 dataType ++ bytesLe 1 0 ++
    bytesLe 8 unit ++ bytesLe 2 entry ++ bytesLe 6 0

/-- The structures of the CDAT (R265): latencies in ns over a unit of 1,000 ps, bandwidths over a unit of 10 MB/s. -/
def cdatBody (capacity n : Nat) : List (BitVec 8) :=
  bytesLe 1 0 ++ bytesLe 1 0 ++ bytesLe 2 24 ++ bytesLe 1 0 ++ bytesLe 1 4 ++ bytesLe 2 0 ++ bytesLe 8 0 ++ bytesLe 8 capacity ++
  dslbis 1 1000 1000 ++ dslbis 2 1000 400 ++ dslbis 4 10 10000 ++ dslbis 5 10 (1400 * n) ++
  bytesLe 1 4 ++ bytesLe 1 0 ++ bytesLe 2 24 ++ bytesLe 1 0 ++ bytesLe 1 14 ++ bytesLe 2 0 ++ bytesLe 8 0 ++ bytesLe 8 capacity

/-- The CDAT (R265): its header, whose checksum makes the bytes sum to 0, and its structures. -/
def cdat (capacity n : Nat) : List (BitVec 8) :=
  let body := cdatBody capacity n
  let head := fun (sum : Nat) => bytesLe 4 (16 + body.length) ++ bytesLe 1 1 ++ bytesLe 1 sum ++ bytesLe 6 0 ++ bytesLe 4 0
  let total := (head 0 ++ body).foldl (fun a b => a + b.toNat) 0
  head (256 - total % 256) ++ body

/-- CDAT_TABLE_ACCESS (R265). -/
def execCdatTableAccess (s : State) : Host.Outcome State Fault Refusal :=
  onDoe linkUp (fun c d => doeAnswer (wordsOf 512 (cdat (hostCapacity c d) (cfgN d))) d) s

/-- Whether the SPDM responder answers (R30, R264): MP_0 runs the firmware. -/
def spdmLive (d : Dp) : Bool := d.que.mps.getD 0 1 = 0 && d.sec.runImage.isSome && (linkUp d || d.sup.mode ≠ .off)

/-- An SPDM request is taken up, counted, and answered. -/
def spdmAnswer (c : Ctl) (ws : List (BitVec 64)) (d : Dp) : Dp := doeAnswer ws (pmuCount c 22 0x13 1 d)

/-- The words of a 384-bit digest. -/
def digestWords (x : BitVec 384) : List (BitVec 64) := wordsOf 6 (digestBytes x)

/-- The fuse configuration of measurement 5 (R397): the revocation bits and the anti-rollback floors, raw, and the digest of the
four verification key hashes. -/
def fuseBytes : List (BitVec 8) :=
  bytesLe 1 Config.revokedFuses.toNat ++
    (List.range 4).flatMap (fun i => bytesLe 4 (Config.rollbackFloor (BitVec.ofNat 2 i))) ++
    digestBytes (sha384 ((List.range 4).flatMap fun i => digestBytes (Config.keyHash (BitVec.ofNat 2 i))))

/-- A measurement block (R397). -/
def measurement (c : Ctl) (d : Dp) (index : Nat) : List (BitVec 64) :=
  match index with
  | 1 => [Config.bootRomVersion]
  | 2 => digestWords ((d.sec.runImage.map (·.whole)).getD 0)
  | 3 => digestWords (if d.pst.cfgState = 1 then d.pst.cfgDigest else 0)
  | 4 => [BitVec.ofNat 64 (d.sec.st.code + 256 * (dbgState c d).code)]
  | 5 => wordsOf 9 fuseBytes
  | 6 => (List.range 4).map fun i => BitVec.ofNat 64 (cntValue c (3 + i))
  | _ => []

/-- The words that answer an SPDM request (R264, R397): the bodies of the negotiation and of CHALLENGE are the standard's, which
the spec does not give; of GET_MEASUREMENTS, index 0 answers the number of blocks, 0xFF all of them. -/
def spdmBody (c : Ctl) (d : Dp) : SpdmReq → List (BitVec 64)
  | .version => [Config.standardBody 10 0]
  | .capabilities => [Config.standardBody 11 0]
  | .algorithms => [Config.standardBody 12 0]
  | .challenge slot => [Config.standardBody 13 slot.toNat]
  | .measurements index =>
    if index = 0 then [6]
    else if index = 0xFF then (List.range 6).flatMap fun i => measurement c d (i + 1)
    else measurement c d index.toNat

/-- GET_MEASUREMENTS (R397), and the requests of R264 that have no row of their own: version, capabilities and algorithms, and
CHALLENGE (log entry 144). -/
def execGetMeasurements (req : SpdmReq) (s : State) : Host.Outcome State Fault Refusal :=
  onDoe spdmLive (fun c d => spdmAnswer c (spdmBody c d req) d) s

/-- The bytes of the chain that one data object of 4 KiB carries (R264): what its headers of 16 bytes leave (PRESUMED, log entry
17). -/
def chainPortion : Nat := 4080

/-- GET_CERTIFICATE (R397): a portion of the chain of slot 0, headed by its length and what remains, and no longer than a data
object allows (R264); other slots hold none. -/
def execGetCertificate (slot : BitVec 4) (offset : BitVec 16) (length : BitVec 16) (s : State) :
    Host.Outcome State Fault Refusal :=
  onDoe spdmLive (fun c d =>
    if slot ≠ 0 || Config.certLen ≤ offset.toNat then spdmAnswer c [] d
    else
      let n := min (min length.toNat chainPortion) (Config.certLen - offset.toNat)
      spdmAnswer c (BitVec.ofNat 64 (n + (Config.certLen - offset.toNat - n) * 65536) ::
        wordsOf 512 ((List.range n).map fun i => Config.certByte (offset.toNat + i))) d) s

/-- SET_CERTIFICATE is refused (R397). -/
def execSetCertificate (slot : BitVec 4) (s : State) : Host.Outcome State Fault Refusal :=
  onDoe spdmLive (fun c d => spdmAnswer c [Config.standardBody 6 slot.toNat] d) s

/-- KEY_EX (R397): a secure session opens while fewer than 4 are open. -/
def execKeyEx (s : State) : Host.Outcome State Fault Refusal :=
  onDoe spdmLive (fun c d =>
    if 4 ≤ d.hif.sessions then spdmAnswer c [] d
    else spdmAnswer c [Config.standardBody 7 d.hif.sessions] { d with hif := { d.hif with sessions := d.hif.sessions + 1 } }) s

/-- Whether an IDE_KM message can be acted on (R398): within a secure session, on a link that is up. -/
def ideKmLive (d : Dp) : Bool := spdmLive d && linkUp d && 0 < d.hif.sessions

/-- Whether both directions of a stream have an active key set. -/
def streamKeyed (active : BitVec 8) (pcie : Bool) : Bool :=
  let o := 4 * b2n pcie
  (active.getLsbD o || active.getLsbD (o + 1)) && (active.getLsbD (o + 2) || active.getLsbD (o + 3))

/-- Bring the secure state of the streams up to date; a CXL stream that is secure again carries CXL.mem, and the credits
freed meanwhile are returned (R256). -/
def ideUpdate (c : Ctl) (d : Dp) : Dp :=
  let cxl := streamKeyed d.hif.ideActive false
  let was := d.hif.ideFailed
  let d1 := { d with hif := { d.hif with
    ideSecure := cxl, pcieSecure := streamKeyed d.hif.ideActive true, ideFailed := was && !cxl } }
  if was && cxl then
    flushAnswers c (if d1.thm.cut = 0 && !noCredits d1 then returnEntries c d1.hif.unreturned d1 else d1)
  else d1

/-- KEY_SET_GO (R398): a programmed key set becomes the active one of its direction. -/
def execKeySetGo (pcie : Bool) (set : Bool) (tx : Bool) (s : State) : Host.Outcome State Fault Refusal :=
  onDoe ideKmLive (fun c d =>
    let k := keySlotNo pcie set tx
    if (smGet none d.hif.ideKeys k).isNone then d
    else
      let d1 := { d with hif := { d.hif with
        ideActive := setBit (clrBit d.hif.ideActive (keySlotNo pcie (!set) tx)) k } }
      spdmAnswer c [Config.standardBody 8 k] (ideUpdate c d1)) s

/-- KEY_SET_STOP (R398). -/
def execKeySetStop (pcie : Bool) (set : Bool) (tx : Bool) (s : State) : Host.Outcome State Fault Refusal :=
  onDoe ideKmLive (fun c d =>
    let k := keySlotNo pcie set tx
    spdmAnswer c [Config.standardBody 8 k]
      (ideUpdate c { d with hif := { d.hif with ideActive := clrBit d.hif.ideActive k } })) s

/-- IDE_KM (R398): a query, or a key programmed into a key set. -/
def execIdeKm (msg : IdeKm) (s : State) : Host.Outcome State Fault Refusal :=
  onDoe ideKmLive (fun c d => match msg with
    | .query => spdmAnswer c [Config.standardBody 9 0] d
    | .keyProg pcie set tx key =>
      let k := keySlotNo pcie set tx
      spdmAnswer c [Config.standardBody 9 1] { d with hif := { d.hif with
        ideKeys := smSet none d.hif.ideKeys k (some key) } }) s

end Sys2Proof.Machine
end

