-- ==== Sys2Proof/Machine/CacheCmds.lean ====
section
/-! DEFINITION. Cache maintenance (R181 to R192): MM_CACHE_OP, the maintenance engine, and the step of each operation on
one line. -/

namespace Sys2Proof.Machine

/-- The request MM_CACHE_OP's parameter words spell (R186, R286). -/
def mntOf (p1 p2 : BitVec 64) : Mnt :=
  { op := p1.extractLsb' 61 3, cls := p1.extractLsb' 58 3, durable := p1.getLsbD 57, start := p1.extractLsb' 0 35,
    count := (p2.extractLsb' 0 35).toNat, done := 0, acted := 0, dirty := false, lockLimit := false, waitEntries := [],
    outs := [], reading := false, fromCmd := true }

/-- Whether a request is refused as a whole (R186, R286): its op, its class or its range. -/
def mntRefused (c : Ctl) (d : Dp) (m : Mnt) : Bool :=
  6 ≤ m.op.toNat || !(m.cls.toNat ∈ [0, 1, 5]) || m.count = 0 || hostCapacity c d < 256 * (m.start.toNat + m.count)

/-- The merge-buffer entries that hold a range's completed writes, which a durable clean or invalidate covers (R186). -/
def coveredEntries (d : Dp) (m : Mnt) : List Nat :=
  if m.durable && m.op.toNat < 3 then
    (d.mrg.entries.filter fun e => lineInRange m e.line && e.host ≠ 0).map (·.id)
  else []

/-- MM_CACHE_OP (R186, R286): the request enters the maintenance queue, and its command completes with it. Its parameters are checked
before the mode (DESIGN CHOICE, log entry 94). -/
def cacheOp (c : Ctl) (d : Dp) : Dp :=
  if !inHand d 0x0200 || (d.lc.cur.toList ++ d.lc.queue).any (·.fromCmd) then d
  else
    let p1 := param d 0
    let p2 := param d 1
    let m := mntOf p1 p2
    if p1.extractLsb' 35 22 ≠ 0 ∨ p2.extractLsb' 35 29 ≠ 0 then complete c .invalidParameter [] d
    else if mntRefused c d m then
      complete c .invalidParameter [] { d with lc := { d.lc with outcome := 3, lines := 0 } }
    else if d.sup.mode ≠ .serve ∧ m.op ≠ 0 ∧ m.op ≠ 4 then complete c .notPermitted [] d
    else if 16 ≤ d.lc.queue.length then d
    else { d with lc := { d.lc with queue := d.lc.queue ++ [{ m with waitEntries := coveredEntries d m }] } }

/-- MM_CACHE_OP. -/
def execMmCacheOp (s : State) : Host.Outcome State Fault Refusal := onDp cacheOp s

/-- Take the next request when none is in progress (R187). -/
def mntTake (d : Dp) : Dp :=
  match d.lc.cur, d.lc.queue with
  | none, m :: rest => { d with lc := { d.lc with cur := some m, queue := rest } }
  | _, _ => d

/-- Whether a listed way belongs to a range: its line, or the former line of an empty reserved way (R187). -/
def wayInRange (m : Mnt) (x : Nat × Way) : Bool := (x.2.valid || x.2.lock) && lineInRange m (lineOfWay x.1 x.2)

/-- Whether a listed way is the one that the walk by way visits its line at: the way that holds the line, or the first empty
reserved way of a line that no way holds. -/
def wayOfLine (d : Dp) (x : Nat × Way) : Bool :=
  let l := lineOfWay x.1 x.2
  x.2.valid || ((findWay d l).isNone &&
    !(d.lc.ways.any fun y => y.1 < x.1 && y.2.lock && y.1 / 16 = x.1 / 16 && y.2.tag = x.2.tag))

/-- The next way of the walk by way (R187): each line is visited once. -/
def mntWay (d : Dp) (m : Mnt) : Option (Nat × Way) :=
  d.lc.ways.find? fun x => m.done ≤ x.1 && wayInRange m x && wayOfLine d x

/-- The line of the next step: none when the walk is at its end. -/
def mntNext (d : Dp) (m : Mnt) : Option LineAddr :=
  if byWay m then (mntWay d m).map fun x => lineOfWay x.1 x.2
  else if m.done < m.count then some (BitVec.ofNat 35 (m.start.toNat + m.done))
  else none

/-- The position of the walk after a step. -/
def mntAfter (d : Dp) (m : Mnt) : Nat :=
  if byWay m then ((mntWay d m).map fun x => x.1 + 1).getD m.done
  else m.done + 1

/-- The status a completed request returns (R286). -/
def mntStatus (m : Mnt) : Status :=
  if m.lockLimit then .lockLimit else if m.op = 1 ∧ m.dirty then .invalidateDirty else .success

/-- The copy-outs that the steps of the request in progress have left (R187), each as soon as the merge buffer has room for
it (R192); an invalidated line goes then, unless a fetch for it is outstanding. Those still waiting stay listed. -/
def mntOuts (c : Ctl) (d : Dp) : Dp :=
  match d.lc.cur with
  | none => d
  | some m =>
    if !serving d then d
    else m.outs.foldl (fun d x =>
      let strike := fun (d : Dp) => { d with lc := { d.lc with cur := d.lc.cur.map fun m => { m with outs := m.outs.erase x } } }
      match findWay d x.1 with
      | none => strike d
      | some k =>
        if (getWay d k).sd ≠ 0 && !mayCopyOut d x.1 then d
        else if x.2 && (getWay d k).fill ≠ 0 then d
        else
          let d1 := copyOut c k true d
          strike (if x.2 then emptyWay k d1 else d1)) d

/-- Complete the request in progress when its walk has ended and nothing it waits for is left (R186). -/
def mntSettle (c : Ctl) (d0 : Dp) : Dp :=
  let d := mntOuts c d0
  match d.lc.cur with
  | none => d
  | some m =>
    if (mntNext d m).isSome || m.outs ≠ [] || m.waitEntries ≠ [] then d
    else
      let d1 := { d with lc := { d.lc with cur := none, outcome := if m.lockLimit then 1 else 0, lines := m.acted } }
      if m.fromCmd then complete c (mntStatus m) [BitVec.ofNat 64 (min m.acted 0xFFFFFF)] d1 else d1

/-- What one step did: it waits, or it is done, having acted or not. -/
structure MntStep where
  dp : Dp
  waits : Bool := false
  acted : Bool := false
  dirty : Bool := false
  lockLimit : Bool := false
  entries : List Nat := []

/-- The copy-out of a line follows the step (R187); with `inv` the line goes once it is done. -/
def leaveOut (l : LineAddr) (inv : Bool) (d : Dp) : Dp :=
  { d with lc := { d.lc with cur := d.lc.cur.map fun m => { m with outs := m.outs ++ [(l, inv)] } } }

/-- Clean a present line: its dirty sectors are to be copied out (R185, R187). -/
def stepClean (l : LineAddr) (d : Dp) : MntStep :=
  match findWay d l with
  | none => { dp := d }
  | some k =>
    if (getWay d k).sd = 0 then { dp := d, acted := true }
    else { dp := leaveOut l false d, acted := true, dirty := true }

/-- Invalidate a present line, a dirty one once its sectors are copied out; a locked way stays reserved (R185, R189). -/
def stepInvalidate (l : LineAddr) (d : Dp) : MntStep :=
  match findWay d l with
  | none => { dp := d }
  | some k =>
    if (getWay d k).sd = 0 then { dp := emptyWay k d, acted := true }
    else { dp := leaveOut l true d, acted := true, dirty := true }

/-- The ways a line's unlock clears (R182): the one that holds it, and the empty reserved ways of its address. -/
def lockedWays (d : Dp) (l : LineAddr) : List Nat :=
  ((List.range 16).map (wayKey l)).filter fun k => (getWay d k).lock && (getWay d k).tag = tagOf l

/-- Unlock a line and the empty reserved ways of its address (R182, R185). -/
def stepUnlock (l : LineAddr) (d : Dp) : MntStep :=
  let ks := lockedWays d l
  { dp := ks.foldl (fun d k =>
      setWay k (if (getWay d k).valid then { getWay d k with lock := false, owner := 0 } else {}) d) d
    acted := (findWay d l).isSome || ks ≠ [] }

/-- Whether four more sectors fit under the dirty ceiling (R98, R185). -/
def zeroRoom (c : Ctl) (d : Dp) : Bool :=
  !d.hif.withheld && 64 * (dSectors d + 4) + 64 * wOf d ≤ ceilBytes c

/-- Write the four zero sectors of a line into a way. -/
def zeroWay (k : Nat) (d : Dp) : Dp :=
  sramWrote (sliceOf (k / 16)) (wayWord k 0) 32 (setWay k ((List.range 4).foldl (fun w j => w.write j 0 false d.now) (getWay d k)) d)

/-- The four lines of a codeword leave the poison list: they have been written whole. -/
def unpoison (l : LineAddr) (d : Dp) : Dp := (List.range 4).foldl (fun d k => poisonRemove (lineSec l k) d) d

/-- Copy a zeroed line out at once where the request is durable (R185). -/
def zeroDurable (durable : Bool) (l : LineAddr) (d : Dp) : MntStep :=
  { dp := if durable then leaveOut l false d else d, acted := true }

/-- The four zero sectors of a line in a new ASSEMBLING entry of the merge buffer (R185), with its number. -/
def zeroEntry (c : Ctl) (l : LineAddr) (slot : BitVec 6) (d : Dp) : Nat × Dp :=
  let r := newEntry c l slot d
  (r.1, sealEntry c r.1 ((List.range 4).foldl (fun d j => entryPut c r.1 j 0 false d) r.2))

/-- Zero a line (R185). In LOCKED, EXHAUSTED and during an erase it is discarded as a host write is (R253). An entry for the
zeros, or for a dirty victim, is taken only beyond W (R192). Where ways of the mask are in FILL and no candidate exists the
zeros go to the merge buffer at once (DESIGN CHOICE, log entry 140). -/
def stepZero (c : Ctl) (durable : Bool) (l : LineAddr) (d : Dp) : MntStep :=
  if refusing d then { dp := d }
  else if !zeroRoom c d then { dp := d, waits := true }
  else match findWay d l with
    | some k => zeroDurable durable l (unpoison l (zeroWay k d))
    | none =>
      let slot := (slotOfDpa d (l.toNat * 256)).getD 0
      let room := wOf d < mergeFree d
      match victimOf c 1 true l d with
      | none =>
        if !room then { dp := d, waits := true }
        else
          let x := zeroEntry c l slot d
          { dp := unpoison l x.2, acted := true, entries := if durable then [x.1] else [] }
      | some (k, victim) =>
        if victim && !room then { dp := d, waits := true }
        else
          let d1 := if victim then pmuCount c 18 0x14 1 (copyOut c k false d) else d
          zeroDurable durable l (unpoison l (zeroWay k (installWay c k l slot d1)))

/-- Whether a way reserved for the class stands empty in a line's set (R182). -/
def hasReserved (c : Ctl) (d : Dp) (cls : Nat) (l : LineAddr) : Bool :=
  (List.range 16).any fun w => ownReserved c cls d (wayKey l w)

/-- Whether some way of the class's mask may yet become a candidate (R181): not locked, not out of service. R181 names the wait for
a way in FILL only. A class that may not copy out a victim, HOST_RD, may also find every way DIRTY and none in FILL: a cleaned
way becomes a candidate, so the step waits (DESIGN CHOICE, log entry 155). -/
def mayBecome (c : Ctl) (cls : Nat) (l : LineAddr) (d : Dp) : Bool :=
  (List.range 16).any fun w =>
    (crGet c (0xC0010 + 4 * cls)).getLsbD w && !(getWay d (wayKey l w)).lock && !(wayKey l w ∈ d.lc.out)

/-- Lock a way for a class. -/
def lockWay (cls : BitVec 3) (k : Nat) (d : Dp) : Dp := setWay k { getWay d k with lock := true, owner := cls } d

/-- Fill a locked line from its codeword: sectors that are poisoned, or whose codeword was lost, stay not valid (R183). -/
def fillLocked (c : Ctl) (l : LineAddr) (i : Option Image) (d : Dp) : Dp :=
  (List.range 4).foldl (fun d j => match i with
    | some i => if refusing d then endFill (lineSec l j) d
                else fillFetched (lineSec l j) (plainSector d l i j) (imgPoison i j) c d
    | none => endFill (lineSec l j) d) d

/-- Allocate a line for a lock (R181, R185): none where no way can be had now. -/
def allocLock (c : Ctl) (cls : BitVec 3) (l : LineAddr) (d : Dp) : Option (Nat × Dp) :=
  match victimOf c cls.toNat (cls ≠ 0) l d with
  | none => none
  | some (k, victim) =>
    if victim && !(wOf d < mergeFree d) then none
    else
      let d1 := if victim then pmuCount c 18 0x14 1 (copyOut c k false d) else d
      some (k, lockWay cls k (installWay c k l ((slotOfDpa d (l.toNat * 256)).getD 0) d1))

/-- The request in progress now waits for its codeword, or no longer does. -/
def setReading (b : Bool) (d : Dp) : Dp := { d with lc := { d.lc with cur := d.lc.cur.map fun m => { m with reading := b } } }

/-- The line just allocated for a lock is fetched (R185): zeros of an unmapped page at once (R47), else its codeword. -/
def lockFetch (c : Ctl) (l : LineAddr) (k : Nat) (d : Dp) : MntStep :=
  if entryValid (curEntry d (linePage l).toNat) = false then
    { dp := (List.range 4).foldl (fun d j =>
        if refusing d then d else fillFetched (lineSec l j) 0 false c d) d, acted := true }
  else
    { dp := queueLine c l .other 4 (setReading true (setWay k { getWay d k with fill := 0xF } d)), waits := true }

/-- The codeword of a line being locked arrives (R183, R185). -/
def lockReturn (c : Ctl) (l : LineAddr) (raw : Burst) (peers : List Burst) (d : Dp) : MntStep :=
  let mine := d.mops.filter fun m => m.kind = .other
  if mine = [] then { dp := queueLine c l .other 4 d, waits := true }
  else if mine.any fun m => m.issued.isNone then { dp := d, waits := true }
  else
    let x := lineRead c l .other mine raw peers (dropMops (fun m => m.kind = .other) d)
    if x.1 = .peers then { dp := x.2, waits := true }
    else
      let i := x.1.image
      let d2 := fillLocked c l i (if i.isSome then pmuCount c 22 0x11 4 x.2 else x.2)
      { dp := setReading false (if i.isSome then d2 else lostPosition l d2), acted := true }

/-- Lock a line (R181, R185). -/
def stepLock (c : Ctl) (cls : BitVec 3) (l : LineAddr) (d : Dp) : MntStep :=
  let limit := lockedInSet d l < rg c 0xC0030 0 4
  match findWay d l with
  | some k =>
    if (getWay d k).lock || limit then { dp := lockWay cls k d, acted := true } else { dp := d, lockLimit := true }
  | none =>
    if pageLost d (linePage l).toNat then { dp := d, waits := true }
    else if !(hasReserved c d cls.toNat l || limit) then { dp := d, lockLimit := true }
    else match allocLock c cls l d with
      | some (k, d1) => lockFetch c l k d1
      | none => if mayBecome c cls.toNat l d then { dp := d, waits := true } else { dp := d, lockLimit := true }

/-- Whether a line is in FILL for another access than a lock's own fetch (R188). -/
def lineFilling (d : Dp) (l : LineAddr) : Bool := match findWay d l with
  | some k => (getWay d k).fill ≠ 0
  | none => false

/-- One step of the maintenance engine on the next line of an operation's request (R187). -/
def mntStep (c : Ctl) (op : BitVec 3) (f : Mnt → LineAddr → Dp → MntStep) (d0 : Dp) : Dp :=
  if !serving d0 then d0
  else
    let d := mntTake d0
    match d.lc.cur with
    | none => d
    | some m =>
      if m.op ≠ op then d
      else match mntNext d m with
        | none => mntSettle c d
        | some l =>
          if lineFilling d l && !m.reading then d
          else
            let x := f m l (heldLine c l d)
            if x.waits then x.dp
            else
              let upd := fun (y : Mnt) => { y with
                done := mntAfter d m, acted := y.acted + (if x.acted then 1 else 0), dirty := y.dirty || x.dirty
                lockLimit := y.lockLimit || x.lockLimit, reading := false
                waitEntries := y.waitEntries ++ (if m.durable then x.entries else []) }
              let d1 := pmuCount c 18 0x16 1 { x.dp with lc := { x.dp.lc with cur := x.dp.lc.cur.map upd } }
              mntSettle c (updWithhold c d1)

/-- CLEAN (R185): one step of a clean request. -/
def execClean (s : State) : Host.Outcome State Fault Refusal :=
  onDp (fun c d => mntStep c 0 (fun _ l d => stepClean l d) d) s

/-- INVALIDATE (R185): one step of an invalidate request. -/
def execInvalidate (s : State) : Host.Outcome State Fault Refusal :=
  onDp (fun c d => mntStep c 1 (fun _ l d => stepInvalidate l d) d) s

/-- CLEAN_AND_INVALIDATE (R185): one step of a clean-and-invalidate request. -/
def execCleanAndInvalidate (s : State) : Host.Outcome State Fault Refusal :=
  onDp (fun c d => mntStep c 2 (fun _ l d => stepInvalidate l d) d) s

/-- LOCK (R181): one step of a lock request; an absent line's codeword arrives with the step that follows its read. -/
def execLock (raw : Burst) (peers : List Burst) (s : State) : Host.Outcome State Fault Refusal :=
  onDp (fun c d => mntStep c 3 (fun m l d => if m.reading then lockReturn c l raw peers d else stepLock c m.cls l d) d) s

/-- UNLOCK_LINE (R182): one step of an unlock request. -/
def execUnlockLine (s : State) : Host.Outcome State Fault Refusal :=
  onDp (fun c d => mntStep c 4 (fun _ l d => stepUnlock l d) d) s

/-- ZERO_LINE (R185): one step of a zero-line request. -/
def execZeroLine (s : State) : Host.Outcome State Fault Refusal :=
  onDp (fun c d => mntStep c 5 (fun m l d => stepZero c m.durable l d) d) s

end Sys2Proof.Machine
end

