-- ==== Sys2Proof/Machine/Thermal.lean ====
section
/-! DEFINITION. Sensors, zones, thresholds and the throttle law (R364 to R377), VDD_CORE and the speed monitors (R23 to
R25, R372). Temperatures are in units of 0.25 °C. -/

namespace Sys2Proof.Machine

/-- Whether the fabric runs: isolation released, and no power-down under way. -/
def fabricLive (d : Dp) : Bool := d.sup.mode ≠ .off && d.sup.isoReleased && !d.sup.downActive

/-- The zone of a sensor (R364). -/
def zoneOf (n : Nat) : Nat := if n < 32 then n / 4 else if n < 36 then 8 else if n < 104 then 9 else 10

/-- The sensors of a zone. -/
def zoneSensors (z : Nat) : List Nat :=
  if z < 8 then (List.range 4).map (4 * z + ·) else if z = 8 then (List.range 4).map (32 + ·)
  else if z = 9 then (List.range 68).map (36 + ·) else [104]

/-- A sensor. -/
def sensorOf (d : Dp) (n : Nat) : Sensor := smGet {} d.thm.sensors n

/-- Change a sensor. -/
def modSensor (n : Nat) (f : Sensor → Sensor) (d : Dp) : Dp :=
  { d with thm := { d.thm with sensors := smMod {} d.thm.sensors n f } }

/-- Whether a sensor exists on this card: a media package is populated and in service. -/
def sensorPresent (c : Ctl) (d : Dp) (n : Nat) : Bool :=
  if n < 36 then true else if n < 104 then pkgLive d ((n - 36) / 4) ((n - 36) % 4) else n = 104 && rb c 0x20300 31

/-- Whether a sensor is valid: read, and not judged broken. -/
def sensorValid (c : Ctl) (d : Dp) (n : Nat) : Bool :=
  sensorPresent c d n && (sensorOf d n).seen && !(sensorOf d n).broken

/-- The latest reading of a sensor. -/
def sensorVal (d : Dp) (n : Nat) : Int := (sensorOf d n).value.toInt

/-- The highest of a list. -/
def highest : List Int → Option Int
  | [] => none
  | x :: l => some (l.foldl max x)

/-- Insert into a rising list. -/
def insertInt (x : Int) : List Int → List Int
  | [] => [x]
  | y :: l => if x ≤ y then x :: y :: l else y :: insertInt x l

/-- Twice the median of a list; the middle values of an even count are averaged. -/
def median2 (l : List Int) : Int :=
  let m := l.foldr insertInt []
  m.getD ((l.length - 1) / 2) 0 + m.getD (l.length / 2) 0

/-- The valid sensors of a sensor's zone other than itself. -/
def zoneOthers (c : Ctl) (d : Dp) (n : Nat) : List Nat :=
  (zoneSensors (zoneOf n)).filter fun m => m ≠ n && sensorValid c d m

/-- The valid sensors that a sensor is compared with (R373): those of its zone; a package's, those of its channel. -/
def testOthers (c : Ctl) (d : Dp) (n : Nat) : List Nat :=
  (zoneOthers c d n).filter fun m => zoneOf n ≠ 9 || (m - 36) / 4 = (n - 36) / 4

/-- A sensor is judged broken (R373, R374): reported, with the offset of its proxy from its last good reading; a judgement
of the hottest sensor of a zone above level 0 begins a proxy hold, and one within a hold restarts it. Where no reading was common to
the sensor and another, R374 gives no offset: a sensor of the die or the HBM then has no proxy, one of a media package the highest
valid value itself (DESIGN CHOICE, log entry 164). -/
def judgeBroken (c : Ctl) (before : Dp) (n : Nat) (d : Dp) : Dp :=
  let old := (zoneOthers c before n).map (sensorVal before)
  let seen := (sensorOf before n).seen
  let v := sensorVal before n
  let ofs : Option (BitVec 16) := match highest old with
    | some m => if seen then some (BitVec.ofInt 16 (max 0 (v - m))) else none
    | none => none
  let d1 := raise 0x66 0x3C 0 n 0xFF noAccess (modSensor n (fun x => { x with broken := true, proxyOfs := ofs, disagree := 0 }) d)
  let hot := seen && old.all (fun m => m ≤ v)
  if (hot && 0 < throttleStage c d) || d.thm.hold.isSome then { d1 with thm := { d1.thm with hold := some d.now } } else d1

/-- Whether a reading is within −40 to 140 °C (R373). -/
def inRange (v : BitVec 16) : Bool := -160 ≤ v.toInt && v.toInt ≤ 560

/-- A reading is taken into a sensor's record. -/
def takeValue (v : BitVec 16) (x : Sensor) : Sensor :=
  { x with seen := true, value := v, high := if x.seen && v.toInt < x.high.toInt then x.high else v
           run := if x.seen && x.value = v then satInc 4000 x.run else 1 }

/-- Note the other sensors' values where a run of one raw code begins. -/
def startRun (c : Ctl) (n : Nat) (d : Dp) : Dp :=
  modSensor n (fun x => { x with refs := (testOthers c d n).map fun m => (m, (sensorOf d m).value) }) d

/-- The stuck test (R373): 4,000 readings of one code while every other valid sensor of the zone moved by 2 °C. -/
def isStuck (c : Ctl) (d : Dp) (n : Nat) : Bool :=
  let x := sensorOf d n
  let l := testOthers c d n
  4000 ≤ x.run && l ≠ [] && l.all fun m => match x.refs.find? fun r => r.1 = m with
    | some r => 8 ≤ (sensorVal d m - r.2.toInt).natAbs
    | none => false

/-- Whether a reading disagrees with the others (R373): more than 15 °C from the median of at least two. -/
def disagrees (c : Ctl) (d : Dp) (n : Nat) : Bool :=
  let l := (testOthers c d n).map (sensorVal d)
  2 ≤ l.length && 120 < (2 * sensorVal d n - median2 l).natAbs

/-- The tests of one good reading (R373). -/
def testSensor (c : Ctl) (before : Dp) (n : Nat) (d : Dp) : Dp :=
  if (sensorOf d n).broken then d
  else
    let d1 := if (sensorOf d n).run = 1 then startRun c n d else d
    let d2 := modSensor n (fun x => { x with disagree := if disagrees c d1 n then x.disagree + 1 else 0 }) d1
    if 40 ≤ (sensorOf d2 n).disagree || (n < 36 && isStuck c d2 n) then judgeBroken c before n d2 else d2

/-- Whether a reading of a sensor is taken at a zone update (R364): the packages' come as TMP responses. -/
def readable (c : Ctl) (d : Dp) (n : Nat) : Bool :=
  (n < 36 || (n = 104 && sensorPresent c d 104)) && !(sensorOf d n).broken

/-- The readings of one update (R364, R373). -/
def takeReadings (c : Ctl) (l : List Reading) (d : Dp) : Dp :=
  let good := l.filter fun r => readable c d r.sensor && (r.sensor = 104 || inRange r.value)
  let bad := l.filter fun r => readable c d r.sensor && !(r.sensor = 104 || inRange r.value)
  let d1 := good.foldl (fun d' r => modSensor r.sensor (takeValue r.value) d') d
  let d2 := good.foldl (fun d' r => if r.sensor = 104 then d' else testSensor c d r.sensor d') d1
  bad.foldl (fun d' r => if (sensorOf d' r.sensor).broken then d' else judgeBroken c d r.sensor d') d2

/-- The valid readings of a zone and the proxies that stand in it (R365, R374). -/
def zoneRaw (c : Ctl) (d : Dp) (z : Nat) : Option Int :=
  match highest (((zoneSensors z).filter (sensorValid c d)).map (sensorVal d)) with
  | none => none
  | some m => highest (m :: (zoneSensors z).filterMap fun n => ((sensorOf d n).proxyOfs).map fun o => m + o.toInt)

/-- Whether a proxy stands in a zone. -/
def zoneProxied (c : Ctl) (d : Dp) (z : Nat) : Bool :=
  (zoneSensors z).any fun n => sensorPresent c d n && (sensorOf d n).proxyOfs.isSome

/-- Whether every sensor of a zone has been judged broken (R375). -/
def zoneDead (d : Dp) (z : Nat) : Bool := (zoneSensors z).all fun n => (sensorOf d n).broken

/-- The temperature taken for a media package (R365, R374, R375): its reading, its proxy, or with no valid neighbour on its
channel the highest valid package plus 5 °C. -/
def mediaTemp (c : Ctl) (d : Dp) (n : Nat) : Option Int :=
  if !sensorPresent c d n then none
  else if sensorValid c d n then some (sensorVal d n)
  else if !(sensorOf d n).broken then none
  else
    let top := highest (((zoneSensors 9).filter (sensorValid c d)).map (sensorVal d))
    if testOthers c d n = [] then top.map (· + 20)
    else match (sensorOf d n).proxyOfs with
      | some o => top.map (· + o.toInt)
      | none => top

/-- The value and marks of every zone (R365, R374, R375). -/
def zoneValues (c : Ctl) (d : Dp) : List Zone :=
  let raw := (List.range 8).map (zoneRaw c d)
  let top := highest (raw.filterMap id)
  let mk := fun (v : Option Int) (p : Bool) => match v with
    | some x => ({ valid := true, proxy := p, value := BitVec.ofInt 16 x } : Zone)
    | none => {}
  let die := (List.range 8).map fun z => match raw.getD z none with
    | some v => mk (some v) (zoneProxied c d z)
    | none => if zoneDead d z then mk (top.map (· + 20)) true else {}
  let tc := highest ((die.filter (·.valid)).map fun z => z.value.toInt)
  let hbm := match zoneRaw c d 8 with
    | some v => mk (some v) (zoneProxied c d 8)
    | none => if zoneDead d 8 then mk tc true else {}
  let media := mk (highest ((zoneSensors 9).filterMap (mediaTemp c d)))
    ((zoneSensors 9).any fun n => sensorPresent c d n && (sensorOf d n).broken)
  die ++ [hbm, media, mk (if sensorValid c d 104 then some (sensorVal d 104) else none) false]

/-- The control temperature of a list of zones (R365). -/
def controlTemp (zs : List Zone) : Option Int := highest (((zs.take 8).filter (·.valid)).map fun z => z.value.toInt)

/-- Tc of 100 ms ago (R376), or the oldest value known where there is none so old. -/
def trimTrace (now : Stamp) (l : List (Stamp × BitVec 16)) : List (Stamp × BitVec 16) :=
  let fresh := l.filter fun e => elapsed e.1 now < 100000000
  let old := l.filter fun e => !(decide (elapsed e.1 now < 100000000))
  old.drop (old.length - 1) ++ fresh

/-- Zone values and Tc are brought up to date (R365). -/
def updateZones (c : Ctl) (d : Dp) : Dp :=
  let zs := zoneValues c d
  let tc := match controlTemp zs with
    | some v => BitVec.ofInt 16 v
    | none => d.thm.tc
  let tr := (trimTrace d.now d.thm.trace).filter fun e => e.1 ≠ d.now
  { d with thm := { d.thm with zones := zs, tc := tc, trace := tr ++ [(d.now, tc)] } }

/-- Report a threshold (R366): the message, and vector 69. -/
def reportThreshold (aux : Nat) (d : Dp) : Dp := msix 69 (raise 0x66 0x3B 0 aux 0xFF noAccess d)

/-- One threshold of the die or the HBM (R366): whether it is crossed, and what that leaves. An excursion is over after a fall
of 1 °C below the threshold. -/
def crossing (aux : Nat) (v thr : Int) (d : Dp) : Bool × Dp :=
  if thr ≤ v then
    if d.thm.above.getLsbD aux then (false, d)
    else
      let up := setBit d.thm.above aux
      (true, reportThreshold aux { d with thm := { d.thm with above := if aux = 0 then setBit up 7 else up } })
  else if v ≤ thr - 4 then (false, { d with thm := { d.thm with above := clrBit d.thm.above aux } })
  else (false, d)

/-- The fall of Tc below T_warn (R366), once for an excursion; bit 7 of `above` says that it is due. -/
def fallBelow (tc : Int) (d : Dp) : Dp :=
  if d.thm.above.getLsbD 7 && tc < tWarn then
    raise 0x66 0x3B 0 8 0xFF noAccess { d with thm := { d.thm with above := clrBit d.thm.above 7 } }
  else d

/-- t_drain of R112, in ns, for the present D and open intent records. -/
def drainNs (c : Ctl) (d : Dp) : Nat :=
  let g := drainG c
  let stripes := (dSectors d + 54) / 55 + (intents d + 495) / 496 + 2
  let t := 40000 + (stripes + g - 1) / g * (700 + 20 * g)
  (if cfgN d < 3 then max t 546000 else t) + 40000

/-- A T_crit decision that leaves no choice (R375, R376): the drain, or in RISE the power-down sequence. -/
def critDrain (c : Ctl) (d : Dp) : Dp :=
  if d.sup.mode = .rise then beginDown c 0x08 d
  else if awake d then requestDrain c 0x08 { d with sup := { d.sup with thermLatch := true } }
  else d

/-- Tc reaches T_crit (R376): the slope over the last 100 ms decides between a drain and the power-down sequence. -/
def critDie (c : Ctl) (d : Dp) : Dp :=
  let tc := d.thm.tc.toInt
  let rise := tc - ((d.thm.trace.head?).map fun e => e.2.toInt).getD tc
  if !serving d || rise ≤ 0 || decide (2 * (drainNs c d : Int) * rise ≤ (472 - tc) * 100000000) then critDrain c d
  else beginDown c 0x08 d

/-- THM_CTL.hbm_ofs in °C. -/
def hbmOfs (c : Ctl) : Int := (rg c 0x20000 12 4 : Nat)

/-- The thresholds of the die and of the HBM (R366, R376). -/
def dieThresholds (c : Ctl) (d : Dp) : Dp :=
  let tc := d.thm.tc.toInt
  let x0 := crossing 0 tc 380 d
  let x1 := crossing 1 tc 400 x0.2
  let x2 := crossing 2 tc 432 x1.2
  let d1 := fallBelow tc (if x2.1 then critDie c x2.2 else x2.2)
  let z := d.thm.zones.getD 8 {}
  if !z.valid then d1
  else
    let v := z.value.toInt
    let o := 4 * hbmOfs c
    let y0 := crossing 3 v (380 - o) d1
    let y1 := crossing 4 v (400 - o) y0.2
    let y2 := crossing 5 v (432 - o) y1.2
    if y2.1 then critDrain c y2.2 else y2.2

/-- One threshold of a media package (R366); `mediaAbove` holds sensor × 2 + which. -/
def mediaCrossing (n : Nat) (crit : Bool) (v thr : Int) (d : Dp) : Bool × Dp :=
  let key := 2 * n + b2n crit
  if thr ≤ v then
    if key ∈ d.thm.mediaAbove then (false, d)
    else (true, reportThreshold (6 + b2n crit) { d with thm := { d.thm with mediaAbove := d.thm.mediaAbove ++ [key] } })
  else if v ≤ thr - 4 then (false, { d with thm := { d.thm with mediaAbove := d.thm.mediaAbove.filter (· ≠ key) } })
  else (false, d)

/-- MODE_4 or MODE_5 of the package of a sensor, as read at training. -/
def pkgLimit (d : Dp) (n : Nat) (crit : Bool) : Int :=
  let ch := chanOf d ((n - 36) / 4)
  4 * (((if crit then ch.mode5 else ch.mode4).getD ((n - 36) % 4) 0 : Nat) : Int)

/-- The thresholds of every media package (R366, R376). -/
def mediaThresholds (c : Ctl) (d : Dp) : Dp :=
  (zoneSensors 9).foldl (fun d n => match mediaTemp c d n with
    | none => d
    | some v =>
      let x := mediaCrossing n false v (pkgLimit d n false) d
      let y := mediaCrossing n true v (pkgLimit d n true) x.2
      if y.1 then critDrain c y.2 else y.2) d

/-- Die zones left with no valid sensor (R375). -/
def deadZones (d : Dp) : Nat := ((List.range 8).filter (zoneDead d)).length

/-- Every 250 µs (R365): readings, zone values, thresholds and decisions. -/
def zonesUpdate (l : List Reading) (c : Ctl) (d : Dp) : Dp :=
  if !fabricLive d then d
  else
    let d1 := updateZones c (takeReadings c l d)
    let d2 := mediaThresholds c (dieThresholds c d1)
    if deadZones d < 5 && 5 ≤ deadZones d1 then critDrain c d2 else d2

/-- ZONE_UPDATE (R365). -/
def execZoneUpdate (readings : List Reading) (s : State) : Host.Outcome State Fault Refusal :=
  onDp (zonesUpdate readings) s

/-- A TMP response, or its failure (R235, R238, R373). -/
def tmpReturned (c : Ctl) (k w : Nat) (x : ShortBurst) (d0 : Dp) : Dp :=
  let d := if !x.absent && !shortOk x && d0.mops.any (fun m => m.chan = k && m.kind = .temperature w && m.issued.isSome) then
    slotFails c k 0xFF d0 else d0
  match d.mops.find? fun m => m.chan = k && m.kind = .temperature w && m.issued.isSome with
  | none => d
  | some m =>
    let d0 := dropMops (· = m) d
    let d1 := if x.absent then modChan k (fun x => { x with absent := satInc 0xFF x.absent }) d0 else
      modChan k (fun y => if shortOk x then { y with tmpOver := setAt y.tmpOver w ((respByte x.bytes 2).setWidth 2) } else y) (track k w d0)
    let n := 36 + 4 * k + w
    if (sensorOf d n).broken then d1
    else if !shortOk x then
      let d2 := modChan k (fun x => { x with tmpFails := modAt x.tmpFails w (· + 1) }) d1
      if 3 ≤ (chanOf d2 k).tmpFails.getD w 0 then judgeBroken c d n d2 else d2
    else
      let d2 := modChan k (fun x => { x with tmpFails := setAt x.tmpFails w 0 }) d1
      let v : BitVec 16 := respByte x.bytes 0 ++ respByte x.bytes 1
      if inRange v then testSensor c d n (modSensor n (takeValue v) d2) else judgeBroken c d n d2

/-- TMP_RESPONSE (R238). -/
def execTmpResponse (chan : Nat) (warp : Nat) (resp : ShortBurst) (s : State) : Host.Outcome State Fault Refusal :=
  onDp (fun c d => tmpReturned c chan warp resp d) s

/-- THERM_TRIP_N (R377): power-down at once. -/
def thermTrips (c : Ctl) (d : Dp) : Dp :=
  if d.sup.mode = .off || !d.sup.aux then d
  else beginDown c 0x09 (emit (.thermTrip true) { d with sup := { d.sup with thermTripLow := true } })

/-- THERM_TRIP_N (R377). -/
def execThermTripN (s : State) : Host.Outcome State Fault Refusal := onDp thermTrips s

/-- x_d of R367, in 0.25 °C. -/
def excessDie (c : Ctl) (d : Dp) : Nat :=
  let z := d.thm.zones.getD 8 {}
  let h : Int := if z.valid then z.value.toInt - (400 - 4 * hbmOfs c) else 0
  (max (max (d.thm.tc.toInt - 400) h) 0).toNat

/-- x_m of R367, in 0.25 °C. -/
def excessMedia (c : Ctl) (d : Dp) : Nat :=
  (zoneSensors 9).foldl (fun a n => match mediaTemp c d n with
    | some v => max a (v - pkgLimit d n false).toNat
    | none => a) 0

/-- THM_CTL.v_span in 0.25 °C. -/
def vSpan (c : Ctl) : Nat := 4 * max 1 (rg c 0x20000 8 4)

/-- Rounded down to 5 mV. -/
def step5 (v : Nat) : Nat := v / 5 * 5

/-- The voltage stage of R368 and R369: v_target in mV for an excess in 0.25 °C. With no excess it is vset (R23). -/
def lawVolts (c : Ctl) (fallow : Bool) (x : Nat) : Nat :=
  let s := vSpan c
  if x = 0 then vset c
  else if fallow && s < x then max 600 (step5 ((2800 - min 2800 (25 * (x - s))) / 4))
  else max 700 (step5 ((vset c * s - (vset c - 700) * min x s) / s))

/-- The cut of R368 and R369, in percent. -/
def lawCut (c : Ctl) (fallow : Bool) (x xm : Nat) : Nat :=
  let k := rg c 0x20000 0 7
  let free := vSpan c + if fallow then 16 else 0
  max (min 75 (k * (x - free) / 4)) (min 75 (k * xm / 4))

/-- The level in force after an evaluation (R371, R374): a higher one at once; a lower one after 100 evaluations that were
all lower, to the highest of them. -/
def nextLevel (now : Nat) (hold : Bool) (new : Nat) (lows : List Nat) : Nat :=
  if now < new then new
  else if !hold && 100 ≤ lows.length && lows.all (· < now) then lows.foldl max 0
  else now

/-- The fastest factor needed by the speed guard (R372). -/
def maxFactor (d : Dp) : Nat := d.fab.speed.foldl (fun a f => max a ((f.map (·.toNat)).getD 0)) 0

/-- Histogram bucket of the throttle state (R331). -/
def throttleBucket (stage cut : Nat) : Nat := if stage < 2 then stage else 2 + cut * 13 / 75

/-- The two samples of the recorder every millisecond (R331): the set point and the throttle state. -/
def sampleMs (c : Ctl) (d : Dp) : Dp :=
  recHist 30 (throttleBucket (throttleStage c d) d.thm.cut) d.thm.cut
    (recHist 29 (min 15 ((d.fab.setPoint - 550) / 25)) d.fab.setPoint d)

/-- Whether a read accepted in SERVE is still to be answered (R80). -/
def serveReadOut (d : Dp) : Bool := d.acc.pend.any fun p => p.serve && !p.write && !p.void

/-- The set point asked for and its cause (R23, R25, R368, R369, R372). In FALLOW it stays at 0.70 V or more until every read
accepted in SERVE has its answer (R80), and from MODE_FALLOW_EXIT on (R355). -/
def applyLaw (c : Ctl) (v : Nat) (d : Dp) : Dp :=
  if d.sup.mode = .fallow then
    let t := if d.sup.fallowing || serveReadOut d then max 700 v else v
    moveVcore t (if t < 700 then 4 else if t < vset c then 1 else 0)
      { d with thm := { d.thm with guard := false } }
  else
    let f := maxFactor d
    let t := if 0xFE0 ≤ f then max v (min 900 (d.fab.setPoint + 5)) else if 0xFC0 ≤ f then max v d.fab.setPoint else v
    moveVcore t (if vset c < t then 5 else if t < vset c then 1 else 0)
      { d with thm := { d.thm with guard := decide (v < t) } }

/-- The 1 ms evaluation (R367 to R372), in SERVE and FALLOW, and the recorder's samples of it, which DORMANT stops (R14,
R331, R353). -/
def throttles (c : Ctl) (d : Dp) : Dp :=
  if !fabricLive d || d.sup.mode = .dormant then d
  else if !serving d then sampleMs c d
  else
    let fallow := d.sup.mode = .fallow
    let x := excessDie c d
    let v := lawVolts c fallow x
    let cut := lawCut c fallow x (excessMedia c d)
    let lows := ((d.thm.lows ++ [(d.now, v, cut)]).drop (d.thm.lows.length + 1 - 100))
    let hold := d.thm.hold.isSome
    let v1 := 900 - nextLevel (900 - d.thm.vTarget) hold (900 - v) (lows.map fun e => 900 - e.2.1)
    let cut1 := nextLevel d.thm.cut hold cut (lows.map fun e => e.2.2)
    sampleMs c (applyLaw c v1 { d with thm := { d.thm with vTarget := v1, cut := cut1, lows := lows } })

/-- THROTTLE_EVALUATION (R368). -/
def execThrottleEvaluation (s : State) : Host.Outcome State Fault Refusal := onDp throttles s

/-- PROXY_HOLD_END (R374). -/
def execProxyHoldEnd (s : State) : Host.Outcome State Fault Refusal :=
  onDp (fun _ d => { d with thm := { d.thm with hold := none } }) s

/-- A speed measurement (R25): a factor above 1.00 in SERVE is reported. -/
def measureSpeed (zone : Nat) (f : BitVec 16) (d : Dp) : Dp :=
  if !fabricLive d || d.sup.mode = .dormant || 8 ≤ zone then d
  else
    let d1 := { d with fab := { d.fab with speed := setAt d.fab.speed zone (some f) } }
    if d.sup.mode = .serve && 0x1000 < f.toNat then raise 0x67 0x35 0 zone 0xFF noAccess d1 else d1

/-- SPEED_MEASUREMENT (R25). -/
def execSpeedMeasurement (zone : Nat) (factor : BitVec 16) (s : State) : Host.Outcome State Fault Refusal :=
  onDp (fun _ d => measureSpeed zone factor d) s

/-- One step of VDD_CORE (R25), at most 5 mV towards the target; FALLOW is left once 0.70 V is reached (R355). The last step
is shorter where the distance is no multiple of 5 mV (DESIGN CHOICE, log entry 124). -/
def vcoreSteps (c : Ctl) (d : Dp) : Dp :=
  if !fabricLive d || d.fab.setPoint = d.fab.target then d
  else
    let v := if d.fab.setPoint < d.fab.target then min d.fab.target (d.fab.setPoint + 5)
      else max d.fab.target (d.fab.setPoint - 5)
    let d1 := emit (.avs v) (pmuCount c 21 0x13 1 { d with fab := { d.fab with setPoint := v } })
    if d1.sup.fallowing && d1.sup.mode = .fallow && 700 ≤ v then leaveFallow c d1 else d1

/-- VCORE_STEP (R25). -/
def execVcoreStep (s : State) : Host.Outcome State Fault Refusal := onDp vcoreSteps s

/-- A read-back of VDD_CORE (R25): more than 20 mV below the set point in SERVE is reported, in 5 mV units. -/
def readBack (c : Ctl) (mv : Nat) (d : Dp) : Dp :=
  if !fabricLive d then d
  else
    let d1 := pmuCount c 21 0x13 1 { d with fab := { d.fab with vread := mv } }
    if d.sup.mode = .serve && mv + 20 < d.fab.setPoint then raise 0x67 0x34 0 ((d.fab.setPoint - mv) / 5) 0xFF noAccess d1
    else d1

/-- AVS_READBACK (R25). -/
def execAvsReadback (mv : BitVec 10) (s : State) : Host.Outcome State Fault Refusal := onDp (fun c d => readBack c mv.toNat d) s

/-- The end of a 1 µs interval of credit pacing (R370): up to (100 − cut) × 16 freed entries are returned. -/
def pacesCredits (c : Ctl) (d : Dp) : Dp :=
  if noCredits d || !d.hif.memActive || !linkUp d then { d with hif := { d.hif with returned := 0 } }
  else
    let d1 := returnEntries c ((100 - d.thm.cut) * 16) { d with hif := { d.hif with returned := 0 } }
    d1

/-- CREDIT_PACING_INTERVAL (R370). -/
def execCreditPacingInterval (s : State) : Host.Outcome State Fault Refusal := onDp pacesCredits s

end Sys2Proof.Machine
end

