-- ==== Sys2Proof/Machine/Oxsar.lean ====
section
/-! DEFINITION. The Oxsar command set (R286) but for cache maintenance, security and debug: queries, media and store
commands, recorder, firmware, performance monitor and modes. -/

namespace Sys2Proof.Machine

/-- Run a command's meaning while it is in hand (R280). -/
def whenHand (x : Nat) (f : Ctl → Dp → Dp) (s : State) : Host.Outcome State Fault Refusal :=
  onDp (fun c d => if inHand d x then f c d else d) s

/-- Complete with SUCCESS and results. -/
def ok (rs : List (BitVec 64)) (c : Ctl) (d : Dp) : Dp := complete c .success rs d

/-- A number as a result word. -/
def w64 (n : Nat) : BitVec 64 := BitVec.ofNat 64 n

/-- NOP (R286). -/
def execNop (s : State) : Host.Outcome State Fault Refusal := whenHand 0x0000 (ok []) s

/-- IDENTIFY (R286): firmware version and GLB_ID, host capacity, queues. -/
def execIdentify (s : State) : Host.Outcome State Fault Refusal :=
  whenHand 0x0001 (fun c d =>
    let version := (d.sec.runImage.map (·.version)).getD 0
    ok [version ++ peek c d false 0, w64 (hostCapacity c d), w64 (64 * 256)] c d) s

/-- GET_TIME (R286, R17). -/
def execGetTime (s : State) : Host.Outcome State Fault Refusal :=
  whenHand 0x0002 (fun c d => ok [d.now] c d) s

/-- HLT_SUMMARY (R286). -/
def execHltSummary (s : State) : Host.Outcome State Fault Refusal :=
  whenHand 0x0100 (fun c d =>
    let r1 := fv 32 31 (spare d) + fv 0 31 (retiredCount d)
    let r2 := fv 32 31 (degradedCount d) + fv 0 31 (lostCount d)
    let r3 := fv 48 16 (sat 0xFFFF (maxWear d)) + fv 32 16 (sat 0xFFFF (meanWear d)) + fb 31 d.mh.rebActive +
      fv 16 10 (rebuildProgress d) + sat 0xFFFF d.mh.lastLap
    ok [w64 r1, w64 r2, w64 r3] c d) s

/-- Complete with records of 8 bytes, r1 their number (R283, R286). -/
def completeRecords (c : Ctl) (i : Nat) (l : List Nat) (d : Dp) : Dp :=
  completeBuffer c i (l.flatMap (bytesLe 8)) [w64 l.length] d

/-- HLT_LOST_LIST (R286, R145): the 64-byte lines of the codeword positions whose data is lost. -/
def execHltLostList (s : State) : Host.Outcome State Fault Refusal :=
  whenHand 0x0101 (fun c d =>
    completeRecords c 0 (d.mh.lostLines.flatMap fun a => (List.range 4).map fun k => (lineSec (secLine a) k).toNat) d) s

/-- A temperature record (R379). -/
def tempRecord (c : Ctl) (d : Dp) (n : Nat) : Nat :=
  let x := sensorOf d n
  fv 56 8 n + fv 52 4 (zoneOf n) + fb 51 (sensorValid c d n) + fb 50 x.broken +
    fb 49 (d.thm.zones.getD (zoneOf n) {}).proxy + fv 16 16 x.value.toNat + fv 0 16 x.high.toNat

/-- HLT_TEMPS (R286, R379). -/
def execHltTemps (s : State) : Host.Outcome State Fault Refusal :=
  whenHand 0x0102 (fun c d =>
    completeRecords c 0 (((List.range 105).filter (sensorPresent c d)).map (tempRecord c d)) d) s

/-- HLT_UNITS (R286). -/
def execHltUnits (s : State) : Host.Outcome State Fault Refusal :=
  whenHand 0x0103 (fun c d =>
    let chans := (List.range 17).foldl (fun a k => a + fb k (chanOf d k).isolated) 0
    let pkgs := (List.range 16).foldl (fun a k => a + (chanOf d k).pkgIso.toNat * 16 ^ k) 0
    ok [w64 chans, w64 pkgs, w64 (chanOf d 16).pkgIso.toNat] c d) s

/-- Whether the second parameter word is the complement of the first (R286). -/
def guarded (d : Dp) : Bool := param d 1 = ~~~(param d 0)

/-- Record a row for hard repair (R215): at most 64 rows are recorded. It stays under the repair it has until the next RISE. -/
def hardRepair (pc bank row : Nat) (d : Dp) : Dp :=
  let same := fun (r : HbmRow) => r.pc = pc && r.bank = bank && r.row = row
  let rows := if d.pst.dev.repairs.any same then mapIf same (fun r => { r with hard := true }) d.pst.dev.repairs
    else d.pst.dev.repairs ++ [⟨pc, bank, row, 0, true, 0⟩]
  modDev 36 (fun r => { r with repairs := rows }) { d with hbm := { d.hbm with rows := rows } }

/-- MM_HBM_HARD_REPAIR (R286, R215). -/
def execMmHbmHardRepair (s : State) : Host.Outcome State Fault Refusal :=
  whenHand 0x0201 (fun c d =>
    let p := param d 0
    let pc := (p.extractLsb' 21 5).toNat
    let bank := (p.extractLsb' 15 6).toNat
    let row := (p.extractLsb' 0 15).toNat
    if !guarded d then complete c .confirmMismatch [] d
    else if p.extractLsb' 26 38 ≠ 0 ∨ 48 ≤ bank ∨ 24576 ≤ row then complete c .invalidParameter [] d
    else if 64 ≤ d.pst.dev.repairs.length ∧ !(d.pst.dev.repairs.any fun r => r.pc = pc && r.bank = bank && r.row = row) then
      complete c .busy [] d
    else ok [] c (hardRepair pc bank row d)) s

/-- MM_HARROW_RESTART (R286). -/
def execMmHarrowRestart (s : State) : Host.Outcome State Fault Refusal :=
  whenHand 0x0202 (fun c d =>
    ok [] c { d with mh := { d.mh with hrwDone := 0, hrwNext := [], lapStart := d.now, lapDormant := 0 } }) s

/-- The media records of a stripe's state byte (R144). -/
def stripeRecords (x : Nat × BitVec 8) : List Nat :=
  let base := fv 32 31 x.1 + fv 0 5 x.2.toNat
  (if x.2.getLsbD 7 then [base] else []) ++ (if x.2.getLsbD 6 then [base + 64] else [])

/-- MM_RETIRE_LIST (R286): the retired stripes and the failed members, a second one of a stripe too. -/
def execMmRetireList (s : State) : Host.Outcome State Fault Refusal :=
  whenHand 0x0203 (fun c d => completeRecords c 0
    (d.map.state.flatMap stripeRecords ++ d.map.failed.map fun x => fv 32 31 x.1 + fv 0 5 x.2 + 64) d) s

/-- MM_ISOLATE's meaning (R286, R146): mask 0 is the whole channel; in W1 a package is the whole channel's media. -/
def isolateCmd (c : Ctl) (d : Dp) : Ctl × Dp :=
  let p := param d 0
  let k := (p.extractLsb' 8 5).toNat
  let mask : BitVec 4 := p.extractLsb' 0 4
  if !inHand d 0x0204 then (c, d)
  else if !guarded d then (c, complete c .confirmMismatch [] d)
  else if p.extractLsb' 13 51 ≠ 0 ∨ p.extractLsb' 4 4 ≠ 0 ∨ 17 ≤ k ∨ 2 ^ cfgN d ≤ mask.toNat then
    (c, complete c .invalidParameter [] d)
  else if anyIsolated d || d.mh.rebActive then (c, complete c .notPermitted [] d)
  else
    let x := isolateCounted k (mask = 0) mask c d
    (x.1, complete x.1 .success [] (msix 70 x.2))

/-- MM_ISOLATE. -/
def execMmIsolate (s : State) : Host.Outcome State Fault Refusal := onBoth isolateCmd s

/-- Whether PST_READ may return a page (R291). -/
def pstReadable (page : Nat) : Bool := page < 16 || 32 ≤ page

/-- Whether PST_WRITE may write a page (R291). -/
def pstWritable (page : Nat) : Bool := page < 16 || 704 ≤ page

/-- Free bytes: what stands in a damaged page, which the spec does not give. -/
def freePage (page : Nat) (d : Dp) : List (BitVec 8) :=
  (List.range 32).flatMap fun i => wordBytes (Config.freeValue (200 + page) (d.free * 32 + i))

/-- The bytes PST_READ returns of a page; none when it is damaged (R291, R300). -/
def pageOut (d : Dp) (page : Nat) : Option (List (BitVec 8)) :=
  if 48 ≤ page ∧ page < 64 then some (List.replicate 256 0)
  else if page ∈ d.pst.undecodable ∧ page < 64 then none
  else (readPage d page).map pageBytes

/-- PST_READ (R291, R296, R300). -/
def pstReadCmd (c : Ctl) (d : Dp) : Dp :=
  let p := param d 0
  let first := (p.extractLsb' 32 32).toNat
  let n := (p.extractLsb' 0 16).toNat
  let pages := (List.range n).map (first + ·)
  if p.extractLsb' 16 16 ≠ 0 ∨ n < 1 ∨ 4096 < n ∨ lastPage d < first + n - 1 then complete c .invalidParameter [] d
  else if !(pages.all pstReadable) then complete c .notPermitted [] d
  else
    let bytes := pages.flatMap fun q => (pageOut d q).getD (freePage q d)
    match pages.find? fun q => (pageOut d q).isNone with
    | some q => completeBufferAs c .mediaError 1 bytes [w64 q] (bump (pagesRead pages d))
    | none => completeBuffer c 1 bytes [] (bump (pagesRead pages d))

/-- PST_READ. -/
def execPstRead (ecc : WordEcc) (s : State) : Host.Outcome State Fault Refusal :=
  whenHand 0x0300 (fun c d => pstReadCmd c (wordEcc c 0x64 0x25 131072 ecc d)) s

/-- The contents of page i of a PST_WRITE: 32 data words, each least significant byte first (R293). -/
def writtenPage (d : Dp) (i : Nat) : BitVec 2048 :=
  packBytes 2048 ((List.range 32).flatMap fun j => wordBytes (param d (1 + 32 * i + j)))

/-- Change a page of the working copy (R298). -/
def workPage (page : Nat) (v : BitVec 2048) (d : Dp) : Dp :=
  sramWrote 0x25 (page * 32) 32 { d with pst := { d.pst with
    work := smSet 0 d.pst.work page v
    changed := if page ∈ d.pst.changed then d.pst.changed else d.pst.changed ++ [page] } }

/-- Whether a page write is under way that will complete the command in hand. -/
def cmdWriting (d : Dp) : Bool := d.pst.writes.any fun w => w.who = 1

/-- PST_WRITE (R291, R295, R298). -/
def pstWriteCmd (c : Ctl) (d : Dp) : Dp :=
  let p := param d 0
  let first := (p.extractLsb' 32 32).toNat
  let n := (p.extractLsb' 0 3).toNat
  let pages := (List.range n).map fun i => (first + i, writtenPage d i)
  if cmdWriting d then d
  else if p.extractLsb' 3 29 ≠ 0 ∨ n = 0 ∨ lastPage d < first + n - 1 then complete c .invalidParameter [] d
  else if !(pages.all fun x => pstWritable x.1) then complete c .notPermitted [] d
  else if 3 ≤ cfgN d then writePages c pages 1 [] d
  else ok [] c (pages.foldl (fun d x => workPage x.1 x.2 d) d)

/-- PST_WRITE. -/
def execPstWrite (s : State) : Host.Outcome State Fault Refusal := whenHand 0x0301 pstWriteCmd s

/-- PST_COMMIT (R298): it completes once every page that waits is stored; in W3 and W4 there is nothing to store. -/
def pstCommitCmd (c : Ctl) (d : Dp) : Dp :=
  if 3 ≤ cfgN d || toStore d = [] && d.pst.storing = [] then ok [] c d
  else if d.pst.storeCmd then d
  else startStore true d

/-- PST_COMMIT. -/
def execPstCommit (s : State) : Host.Outcome State Fault Refusal := whenHand 0x0302 pstCommitCmd s

/-- The counter a command names: none when another parameter bit is set. -/
def cntParam (d : Dp) : Option Nat :=
  if (param d 0).extractLsb' 5 59 ≠ 0 then none else some ((param d 0).extractLsb' 0 5).toNat

/-- CNT_READ (R303): counters 9 to 15 read 0 (R305). -/
def execCntRead (s : State) : Host.Outcome State Fault Refusal :=
  whenHand 0x0303 (fun c d => match cntParam d with
    | none => complete c .invalidParameter [] d
    | some n => ok [w64 (if 9 ≤ n ∧ n ≤ 15 then 0 else cntValue c n)] c d) s

/-- CNT_INC's meaning (R302, R304, R305): the slot's write begins; it is acknowledged when it has been read back (`countRuns`). -/
def cntIncCmd (c : Ctl) (d : Dp) : Dp :=
  match cntParam d with
    | none => complete c .invalidParameter [] d
    | some n =>
      if n < 16 then complete c .notPermitted [] d
      else if d.pst.cntPend.isSome then d
      else { d with pst := { d.pst with cntPend := some (n, d.sup.clock, true) } }

/-- CNT_INC. -/
def execCntInc (s : State) : Host.Outcome State Fault Refusal := whenHand 0x0304 cntIncCmd s

/-- CFG_VALIDATE (R307): the image as it stands. -/
def execCfgValidate (s : State) : Host.Outcome State Fault Refusal :=
  whenHand 0x0305 (fun c d =>
    ok [match validateImage d with
      | .valid recs => w64 (2 ^ 63 + recs.length)
      | _ => 0] c (pagesRead (List.range 16) d)) s

/-- REC_SAMPLE_NOW (R335, R338): completes once its sample is written. -/
def execRecSampleNow (s : State) : Host.Outcome State Fault Refusal :=
  whenHand 0x0400 (fun c d => if cmdWriting d then d else writeSample c 2 0 0 1 d) s

/-- The valid core samples, newest first (R337). -/
def samplesByAge (d : Dp) : List CoreSample := (validSamples d).mergeSort fun a b => decide (b.seq ≤ a.seq)

/-- REC_READ_SAMPLE (R337, R338). -/
def execRecReadSample (s : State) : Host.Outcome State Fault Refusal :=
  whenHand 0x0401 (fun c d =>
    if sampleBusy d then complete c .busy [] d
    else match (samplesByAge d)[(param d 0).toNat]? with
      | none => complete c .invalidParameter [] d
      | some x => completeBuffer c 1 (x.words.flatMap wordBytes) [w64 x.seq] d) s

/-- The bytes of a histogram as its registers lie: 32 buckets, then minimum, maximum and total (R340). -/
def histBytes (d : Dp) (h : Nat) : List (BitVec 8) :=
  (List.range 32).flatMap (fun b => bytesLe 8 (histBkt d h b)) ++ bytesLe 4 (histMin d h).toNat ++
    bytesLe 4 (histMax d h).toNat ++ bytesLe 8 (histLive d h).total

/-- REC_HIST (R333). -/
def execRecHist (s : State) : Host.Outcome State Fault Refusal :=
  whenHand 0x0402 (fun c d =>
    let h := (param d 0).toNat
    if 32 ≤ h then complete c .invalidParameter [] d
    else completeBuffer c 1 (histBytes d h) [w64 (min (histBytes d h).length (bufferRoom d 1))] d) s

/-- Schedule histogram clears (R334). -/
def clearHists (mask : Word) (d : Dp) : Dp := { d with rec_ := { d.rec_ with clear := d.rec_.clear ||| mask } }

/-- REC_CLEAR (R334). -/
def execRecClear (s : State) : Host.Outcome State Fault Refusal :=
  whenHand 0x0403 (fun c d =>
    if (param d 0).extractLsb' 32 32 ≠ 0 then complete c .invalidParameter [] d
    else ok [] c (clearHists ((param d 0).extractLsb' 0 32) d)) s

/-- SEC_STATE (R286). -/
def execSecState (s : State) : Host.Outcome State Fault Refusal :=
  whenHand 0x0500 (fun c d =>
    ok [w64 (d.sec.st.code + fv 4 2 (dbgState c d).code + fv 16 8 d.sec.userLeft)] c d) s

/-- SEC_KEYSLOT_BIND (R384, R390): stored in page 19 before it completes. -/
def bindCmd (c : Ctl) (d : Dp) : Dp :=
  let p := param d 0
  let n := (p.extractLsb' 0 2).toNat
  if p.extractLsb' 2 6 ≠ 0 ∨ p.extractLsb' 14 50 ≠ 0 then complete c .invalidParameter [] d
  else if d.sec.st ≠ .disabled ∧ d.sec.st ≠ .unlocked then refuseSecurity c d
  else if (d.hif.decoders.getD n {}).committed then complete c .notPermitted [] d
  else
    let b := setAt d.sec.bind n (p.extractLsb' 8 6)
    ok [] c (modSec 19 (fun r => { r with bind := b }) { d with sec := { d.sec with bind := b } })

/-- SEC_KEYSLOT_BIND. -/
def execSecKeyslotBind (s : State) : Host.Outcome State Fault Refusal := whenHand 0x0501 bindCmd s

/-- FW_STATE (R286): the verify results lie as SEC_BOOT.a_fail and b_fail do. -/
def execFwState (s : State) : Host.Outcome State Fault Refusal :=
  whenHand 0x0600 (fun c d =>
    let v := fun (i : Option FwImage) => (i.map (·.version)).getD 0
    let r2 := d.sec.running.toNat + fv 2 2 (b2n d.pst.dev.fwSelect) + fb 4 d.sec.aFail + fb 5 d.sec.bFail
    let r3 := match d.sec.runImage with
      | some i => cntValue c (3 + i.index.toNat)
      | none => 0
    ok [v d.sec.imgA ++ v d.sec.imgB, w64 r2, w64 r3] c d) s

/-- Select the firmware slot of the next RISE (R286, R385). -/
def selectSlot (b : Bool) (d : Dp) : Dp :=
  modDev 37 (fun r => { r with fwSelect := b }) d

/-- The image in a slot of the boot flash. -/
def slotImg (d : Dp) (b : Bool) : Option FwImage := if b then d.sec.imgB else d.sec.imgA

/-- FW_SELECT (R286, R396). -/
def execFwSelect (s : State) : Host.Outcome State Fault Refusal :=
  whenHand 0x0601 (fun c d =>
    let b := (param d 0).getLsbD 0
    if (param d 0).extractLsb' 1 63 ≠ 0 then complete c .invalidParameter [] d
    else if !slotOk c (slotImg d b) then complete c .notPermitted [] d
    else ok [] c (selectSlot b d)) s

/-- PMU_USER_EN (R423). -/
def execPmuUserEn (s : State) : Host.Outcome State Fault Refusal :=
  whenHand 0x0700 (fun c d => ok [] c { d with pmu := { d.pmu with userEn := true } }) s

/-- PMU_USER_DIS (R423). -/
def execPmuUserDis (s : State) : Host.Outcome State Fault Refusal :=
  whenHand 0x0701 (fun c d => ok [] c { d with pmu := { d.pmu with userEn := false } }) s

/-- PMU_SAMPLES (R422): the unread records are copied, and rd moves past those the buffer took. -/
def pmuSamplesCmd (c : Ctl) (d : Dp) : Dp :=
  let n := sampleCount d
  let recs := (List.range n).flatMap fun i => (smGet [] d.pmu.ring ((d.pmu.rd.toNat + i) % 256)).flatMap wordBytes
  let taken := min n (bufferRoom d 0 / 64)
  if !bufferOk d 0 then complete c .invalidParameter [] d
  else completeBuffer c 0 recs [w64 n] (moveRd c (d.pmu.rd + BitVec.ofNat 8 taken) d)

/-- PMU_SAMPLES. -/
def execPmuSamples (s : State) : Host.Outcome State Fault Refusal := whenHand 0x0702 pmuSamplesCmd s

/-- MODE_GET (R341). -/
def execModeGet (s : State) : Host.Outcome State Fault Refusal :=
  whenHand 0x0900 (fun c d => ok [w64 (d.sup.mode.code + fv 8 8 d.sup.cause.toNat)] c d) s

/-- MODE_DORMANT (R352, R391): completed before the entry begins. -/
def execModeDormant (s : State) : Host.Outcome State Fault Refusal :=
  whenHand 0x0901 (fun c d =>
    if (d.sec.st = .locked ∨ d.sec.st = .exhausted) ∧ d.sec.heldSectors ≠ [] then refuseSecurity c d
    else requestDormant 0x0D (ok [] c d)) s

/-- MODE_FALLOW_ENTER (R355): SERVE only. -/
def execModeFallowEnter (s : State) : Host.Outcome State Fault Refusal :=
  whenHand 0x0902 (fun c d =>
    if d.sup.mode ≠ .serve then complete c .notPermitted [] d else ok [] c (enterFallow c 0x0F d)) s

/-- MODE_FALLOW_EXIT (R355): refused while an entry condition of R153 holds; no effect in SERVE. -/
def execModeFallowExit (s : State) : Host.Outcome State Fault Refusal :=
  whenHand 0x0903 (fun c d =>
    if fallowCond c d then complete c .notPermitted [] d
    else ok [] c (if d.sup.mode = .fallow then exitFallow c d else d)) s

/-- MODE_DRAIN_OFF (R286, R342): completed before DRAIN begins. -/
def execModeDrainOff (s : State) : Host.Outcome State Fault Refusal :=
  whenHand 0x0904 (fun c d =>
    if !guarded d then complete c .confirmMismatch [] d
    else if param d 0 ≠ 0 then complete c .invalidParameter [] d
    else requestDrain c 0x11 (ok [] c d)) s

end Sys2Proof.Machine
end

