-- ==== Sys2Proof/Machine/Debug.lean ====
section
/-! DEFINITION. Debug (R399 to R406): sessions, RETURNED, the JTAG port and the fabric debug port. -/

namespace Sys2Proof.Machine

/-- Whether a nonce may be drawn (R400). -/
def challengeOk (c : Ctl) (d : Dp) : Bool :=
  dbgState c d = .sealed && d.sec.nonce.isNone && (match d.sec.authFailAt with
    | none => true
    | some t => 10000000000 ≤ elapsed t d.now)

/-- DBG_CHALLENGE (R400). -/
def execDbgChallenge (s : State) : Host.Outcome State Fault Refusal :=
  whenHand 0x0800 (fun c d =>
    if !challengeOk c d then complete c .busy [] d
    else
      let n : BitVec 192 := (rngNow d).extractLsb' 0 192
      ok [n.extractLsb' 0 64, n.extractLsb' 64 64, n.extractLsb' 128 64] c
        (bump { d with sec := { d.sec with nonce := some (n, d.now) } })) s

/-- Whether the response in hand verifies against the outstanding nonce (R400). -/
def responseOk (c : Ctl) (d : Dp) : Bool := match d.sec.nonce with
  | none => false
  | some n => debugSigOk ((List.range 12).map (param d)) n.1 Config.dsn (peek c d false 0) (BitVec.ofNat 8 d.sec.st.code)

/-- DBG_RESPONSE (R400): the nonce is void after it. -/
def execDbgResponse (s : State) : Host.Outcome State Fault Refusal :=
  whenHand 0x0801 (fun c d =>
    let d1 := { d with sec := { d.sec with nonce := none } }
    if responseOk c d then
      ok [] c { d1 with sec := { d1.sec with open_ := true, sessions := satInc 0xFF d1.sec.sessions } }
    else
      complete c .authFailed [] (raise 0x69 0x3F 0 0 0x0E 6
        { d1 with sec := { d1.sec with authFails := satInc 0xFF d1.sec.authFails, authFailAt := some d.now } })) s

/-- NONCE_EXPIRY (R400): 60 s after its issue the nonce is void. -/
def execNonceExpiry (s : State) : Host.Outcome State Fault Refusal :=
  onDp (fun _ d => { d with sec := { d.sec with nonce := none } }) s

/-- DBG_CLOSE (R401). -/
def execDbgClose (s : State) : Host.Outcome State Fault Refusal :=
  whenHand 0x0802 (fun c d => ok [] c (closeDebug d)) s

/-- The commit point of DBG_RETURN (R406): steps 1 and 3 of R392 are done; the keys and records are destroyed, the fuse is
blown, the command completes and a warm RISE follows. The spec gives that transition no cause code: it is free. -/
def commitReturn (c : Ctl) (d : Dp) : Ctl × Dp :=
  let d1 := modSec 20 id (modSec 19 id (modSec 18 id (modSec 16 (fun _ => { dbgReturned := true }) (emptyDomain d))))
  let d2 := { d1 with sec := { d1.sec with
    mediaKey := none, placeKey := none, userKek := none, erase := false, eraseCommitted := false, retStep := 0 } }
  let d3 := ok [] c ((toStore d2).foldl (fun d p => storePage p d) d2)
  startWarmRise ((Config.freeValue 60 d3.free).extractLsb' 0 8) { c with returnedFuse := true } (bump d3)

/-- DBG_RETURN under way (R406): it waits until every accepted request is answered. -/
def returnAdvance (c : Ctl) (d : Dp) : Ctl × Dp :=
  if d.sec.retStep = 1 && inHand d 0x0803 && serving d && d.acc.pend = [] then commitReturn c d else (c, d)

/-- DBG_RETURN's meaning (R286, R406). -/
def returnCmd (c : Ctl) (d : Dp) : Ctl × Dp :=
  if !inHand d 0x0803 then (c, d)
  else if d.sec.retStep = 1 then returnAdvance c d
  else if !guarded d then (c, complete c .confirmMismatch [] d)
  else if param d 0 ≠ 0 then (c, complete c .invalidParameter [] d)
  else if dbgState c d ≠ .opened ∨ !serving d then (c, complete c .notPermitted [] d)
  else returnAdvance c { d with sec := { d.sec with erase := true, retStep := 1 } }

/-- DBG_RETURN. -/
def execDbgReturn (s : State) : Host.Outcome State Fault Refusal := onBoth returnCmd s

/-- Whether the JTAG port is powered (R402, R344): VDDIO_1V8, rail 0, is enabled. -/
def jtagUp (d : Dp) : Bool := d.sup.psEn.getLsbD 0

/-- IDCODE (R402): the spec states no IDCODE value. -/
def execIdcode (s : State) : Host.Outcome State Fault Refusal :=
  onDp (fun _ d => if jtagUp d then emit (.jtag (Config.freeValue 61 0)) d else d) s

/-- BYPASS (R402): nothing of the block changes. -/
def execBypass (s : State) : Host.Outcome State Fault Refusal := onDp (fun _ d => d) s

/-- SAMPLE_PRELOAD (R402): the boundary cells are captured; the spec gives no order of cells. -/
def execSamplePreload (s : State) : Host.Outcome State Fault Refusal :=
  onDp (fun _ d => if jtagUp d then bump (emit (.jtag (Config.freeValue 62 d.free)) d) else d) s

/-- Whether EXTEST may load (R403): RISE holds at step 10 with PERST_N asserted and an empty persistence domain. -/
def extestOk (d : Dp) : Bool :=
  d.sup.mode = .rise && d.glb.riseStep = 9 && !d.sup.perstN && dSectors d = 0 && intents d = 0 && !d.sup.downActive

/-- EXTEST (R403). -/
def execExtest (s : State) : Host.Outcome State Fault Refusal :=
  onDp (fun _ d =>
    if !jtagUp d then d
    else if extestOk d then { d with sec := { d.sec with extest := true } }
    else { d with sec := { d.sec with extestRefused := true } }) s

/-- EXTEST_EXIT (R403): RISE repeats media training before it continues. -/
def execExtestExit (s : State) : Host.Outcome State Fault Refusal :=
  onDp (fun _ d =>
    if d.sec.extest then
      { d with sec := { d.sec with extest := false, retStep := 9 }, glb := { d.glb with riseStep := 5 } }
    else d) s

/-- What the debug port returns where access is denied: zeros, with SEC_DBG.denied (R402, R404). -/
def deny (d : Dp) : Dp := emit (.jtag 0) { d with sec := { d.sec with denied := true } }

/-- Whether a register offset is readable in DRAIN: the SUP, FLT and SEC windows (R404). -/
def drainReadable (off : Nat) : Bool :=
  (0x10000 ≤ off && off < 0x20000) || (0x30000 ≤ off && off < 0x40000) || (0x60000 ≤ off && off < 0x70000)

/-- Halt (2) or resume (0) a processor (R32, R402). -/
def debugRun (st mp : Nat) (d : Dp) : Dp :=
  if 4 ≤ mp then d
  else
    let m := d.que.mps.getD mp 1
    if st = 2 ∧ m = 0 then setMp mp 2 d else if st = 0 ∧ m = 2 then setMp mp 0 d else d

/-- A read of host data through the debug port: a sector of the line cache or the merge buffer (R402). -/
def hostDataRead (line : LineAddr) (sector : BitVec 2) (d : Dp) : Dp :=
  if d.sec.st = .locked ∨ d.sec.st = .exhausted then deny d
  else
    let v := (heldValue d (lineSec line sector.toNat)).map (·.1)
    (wordsOf 8 (sectorBytes (v.getD 0))).foldl (fun d w => emit (.jtag w) d) d

/-- Whether an SRAM array holds host data: the line-cache data arrays, the merge buffer, the parity-delta buffers (R402,
R461). -/
def hostArray (a : BitVec 8) : Bool := a.toNat < 0x10 || a = 0x20 || a = 0x21

/-- A 64-bit word of an SRAM array (R461): the line-cache data, the parity deltas, the command-queue SRAM and firmware
words that debug wrote, as the state holds them; the contents of the other arrays, whose format is not given, are free.
Words hold their bytes least significant first. -/
def sramWord (d : Dp) (a : BitVec 8) (i : Nat) : BitVec 64 :=
  let free := Config.freeValue 63 d.free
  if a.toNat < 0x10 then
    let w := i / 32
    let x := getWay d ((w / 16 * 16 + a.toNat) * 16 + w % 16)
    (wordsOf 8 (sectorBytes (x.sector (i % 32 / 8)))).getD (i % 8) 0
  else if a = 0x21 then
    match d.mrg.deltas.find? fun x => x.entry = i / 36 with
    | some x => (wordsOf 36 ((List.range 288).map fun b => x.delta.extractLsb' (2296 - 8 * b) 8)).getD (i % 36) 0
    | none => free
  else if a = 0x23 then (smGet none d.que.fwSram i).getD free
  else if a = 0x24 then smGet 0 (qOf d (i / 1024)).sram (i % 1024)
  else free

/-- The structures behind the mapping rows, the last first. -/
def hbmStructs : List HStr := [.firmware, .disturb, .bitmap, .heat, .state, .wear]

/-- Where word w of a pseudo-channel lies: under order 0 its row is the second field from the top, else the top one (R197). -/
def hbmPlace (order : BitVec 2) (pc w : Nat) : HbmPlace :=
  let x := if order = 0 then (w % (24576 * 32) / 32, w / (24576 * 32) * (8190 * 32) + (w % (24576 * 32) - 16384 * 32))
    else (w / 1536, w - 16384 * 1536)
  if x.1 < 16384 then .mapping
  else if 24574 ≤ x.1 then .spareRow
  else match hbmStructs.find? fun s => s.base ≤ x.2 with
    | some s => .struct s ((x.2 - s.base) * 32 + pc)
    | none => .mapping

/-- An element of an HBM structure (R52, R128, R138, R144). -/
def hbmElem (d : Dp) (s : HStr) (i : Nat) : Nat :=
  match s with
  | .wear => smGet 0 d.mh.wear i
  | .state => (smGet 0 d.map.state i).toNat
  | .heat => smGet 0 d.mh.heat i
  | .bitmap => b2n (stripeFree d (BitVec.ofNat 31 i))
  | .disturb => smGet 0 d.mh.disturb i
  | .firmware => 0

/-- The 32 bytes of a word of a structure, its elements in order, least significant byte first (log entry 45); none for what
firmware holds. -/
def structWord (d : Dp) (s : HStr) (word : Nat) : Option Nat :=
  if s = .firmware then none
  else some ((List.range s.perWord).foldl (fun a i => a + hbmElem d s (word * s.perWord + i) * 2 ^ (256 / s.perWord * i)) 0)

/-- The 32 bytes of a word of the mapping rows: the entries of a page that has one there, else the zeros of the fill. -/
def mapRowWord (d : Dp) (pc bank row col : Nat) : Nat :=
  let here := fun (b : Bool) (x : Nat × BitVec 64) =>
    let y := entryPos d x.1
    (if b then partner y.1 else y.1) = pc && y.2 = (bank, row, col)
  match d.map.copyA.find? (here false), d.map.copyB.find? (here true) with
  | some x, _ => (mapWord d false x.1).toNat
  | none, some x => (mapWord d true x.1).toNat
  | none, none => 0

/-- The content of word w of a pseudo-channel after the fill (R175), as the state holds it; none where the spec gives it no
content: before the fill, and what firmware keeps there. A spare row holds what the row redirected to it holds (R216). -/
def hbmContent (d : Dp) (pc w : Nat) : Option Nat :=
  if !d.hbm.filled then none
  else
    let x := hbmSplit d.hbm.order w
    match hbmPlace d.hbm.order pc w with
    | .mapping => some (mapRowWord d pc x.1 x.2.1 x.2.2)
    | .spareRow => if d.hbm.rows.any fun r => r.pc = pc && r.bank = x.1 && r.spare = x.2.1 then none else some 0
    | .struct s i => structWord d s i

/-- Whether word w of a pseudo-channel belongs to a host-data structure: the mapping mirrors or the free-stripe bitmap
(R402). -/
def hostHbm (d : Dp) (pc w : Nat) : Bool :=
  match hbmPlace d.hbm.order pc w with
  | .mapping => true
  | .struct .bitmap _ => true
  | _ => false

/-- A read of an HBM word through the debug port: four words of 64 bits. The port numbers the words of the 32 pseudo-channels
one after the other (DESIGN CHOICE, log entry 102). -/
def hbmDataRead (n : Nat) (d : Dp) : Dp :=
  let pc := n / 37748736
  let w := n % 37748736
  if hostHbm d pc w && (d.sec.st = .locked || d.sec.st = .exhausted) then deny d
  else match hbmContent d pc w with
    | some v => (wordsOf 4 (bytesLe 32 v)).foldl (fun d x => emit (.jtag x) d) d
    | none => bump ((List.range 4).foldl (fun x i => emit (.jtag (Config.freeValue 64 (4 * d.free + i))) x) d)

/-- DBG_ACCESS in a mode and state that allow full debug (R402). A step leaves the processor halted: what firmware holds is
no state of this model. -/
def debugFull (op : DbgOp) (c : Ctl) (d : Dp) : Ctl × Dp :=
  match op with
  | .halt mp => (c, debugRun 2 mp d)
  | .step _ => (c, d)
  | .resume mp => (c, debugRun 0 mp d)
  | .readReg off => let x := readAccess c .debug off 4 d; (c, emit (.jtag ((x.1.getD 0 0).setWidth 64)) x.2)
  | .writeReg off data => writeAccess .debug off 4 (data.setWidth 64) c d
  | .readHostData line sector => (c, hostDataRead line sector d)
  | .readSram a i =>
    if hostArray a && (d.sec.st = .locked || d.sec.st = .exhausted) then (c, deny d)
    else (c, bump (emit (.jtag (sramWord d a i.toNat)) d))
  | .readHbm n => (c, hbmDataRead n d)
  | .writeFwSram i v => (c, sramWrote 0x23 i 1 { d with que := { d.que with fwSram := smSet none d.que.fwSram i (some v) } })

/-- DBG_ACCESS in DRAIN (R404). -/
def debugDrain (op : DbgOp) (c : Ctl) (d : Dp) : Dp :=
  match op with
  | .halt _ => d
  | .step _ => d
  | .resume _ => d
  | .readReg off =>
    if drainReadable off then
      let x := readAccess c .debug off 4 d
      emit (.jtag ((x.1.getD 0 0).setWidth 64)) x.2
    else deny d
  | .writeReg _ _ => deny d
  | .readHostData _ _ => deny d
  | .readSram _ _ => deny d
  | .readHbm _ => deny d
  | .writeFwSram _ _ => deny d

/-- DBG_ACCESS (R402, R404, R405, R407). -/
def debugAccess (op : DbgOp) (c : Ctl) (d : Dp) : Ctl × Dp :=
  if !jtagUp d || d.sup.mode = .off then (c, d)
  else if d.sup.mode = .dormant ∨ d.sup.mode = .rise then (c, deny d)
  else if dbgState c d = .sealed then (c, d)
  else if d.sup.mode = .drain then (c, debugDrain op c d)
  else if serving d then debugFull op c d
  else (c, deny d)

/-- DBG_ACCESS. -/
def execDbgAccess (op : DbgOp) (s : State) : Host.Outcome State Fault Refusal := onBoth (debugAccess op) s

end Sys2Proof.Machine
end

