-- ==== Sys2Proof/Machine/Faults.lean ====
section
/-! DEFINITION. The fault collector (R315 to R324), the executors of its actions (R321, R328, R329), and the heartbeats of
the management processors (R32). -/

namespace Sys2Proof.Machine

/-- Windows of R320, in ms. -/
def windowsMs : List Nat :=
  [1, 2, 5, 10, 20, 50, 100, 200, 500, 1000, 2000, 5000, 10000, 20000, 50000, 100000, 200000, 500000, 1000000, 2000000,
   3600000]

/-- T of a source in ns (R319, R320). -/
def windowNs (c : Ctl) (src : Nat) : Nat := windowsMs.getD (rg c (0x30400 + 4 * src) 0 5) 3600000 * 1000000

/-- N of a source (R319). -/
def windowN (c : Ctl) (src : Nat) : Nat := max 1 (rg c (0x30400 + 4 * src) 16 16)

/-- Whether a source's window is open at a stamp. -/
def windowOpen (c : Ctl) (src : Nat) (t : Stamp) (w : CntWin) : Bool := w.openW && elapsed w.start t < windowNs c src

/-- The window after counting one message (R319). -/
def countMessage (c : Ctl) (src : Nat) (t : Stamp) (w : CntWin) : CntWin :=
  if windowOpen c src t w then { w with count := w.count + 1 } else { openW := true, start := t, count := 1, marked := false }

/-- Set the bit of a source in a set of words. -/
def markSource (src : BitVec 8) (m : SMap Word) : SMap Word :=
  smMod 0 m (src.toNat / 32) fun w => setBit w (src.toNat % 32)

/-- The stamp of an acceptance (R316): two messages never share one. -/
def acceptStamp (d : Dp) : Stamp :=
  match d.flt.recent.head? with
  | some x => if d.now.toNat ≤ x.stamp.toNat then x.stamp + 1 else d.now
  | none => d.now

/-- A message is accepted (R317, R319): stamped, counted, classified, and put on the recent list. -/
def acceptMessage (c : Ctl) (m : Msg) (d : Dp) : Accepted × Dp :=
  let src := m.source.toNat
  let t := acceptStamp d
  let w0 := smGet {} d.flt.wins src
  let w1 := if m.severity = 0 then w0 else countMessage c src t w0
  let severe := windowOpen c src t w1 && decide (windowN c src ≤ w1.count)
  let first := severe && !w1.marked
  let own := !readRelated m
  let x : Accepted := ⟨m, t, severe⟩
  (x, { d with flt := { d.flt with
    received := satInc 0xFFFFFFFF d.flt.received
    seq := d.flt.seq + 2
    wins := smSet {} d.flt.wins src { w1 with marked := w1.marked || severe }
    sticky := markSource m.source d.flt.sticky
    stickyHv := if own then markSource m.source d.flt.stickyHv else d.flt.stickyHv
    severe := if first then markSource m.source d.flt.severe else d.flt.severe
    severeHv := if first && own then markSource m.source d.flt.severeHv else d.flt.severeHv
    msgLost := d.flt.msgLost || m.kind = 0x2C
    recent := (x :: d.flt.recent).take 64 } })

/-- The action set of a message (R322): coded as R321. -/
def actionsOf (c : Ctl) (x : Accepted) : BitVec 7 :=
  let cls := kindClass x.msg.kind
  let r := crGet c (0x30200 + 4 * cls)
  (if x.severe then r.extractLsb' 16 7 else r.extractLsb' 0 7) ||| kindFixed x.msg.kind

/-- Whether the unit a message names is isolated already. -/
def alreadyIsolated (d : Dp) (m : Msg) : Bool :=
  let ch := chanOf d m.source.toNat
  ch.isolated || (warpKind m.kind && ch.pkgIso.getLsbD (m.aux.toNat % 4))

/-- The LOG action is queued for MP_3, with the health information at the time of the event (R328); in DRAIN it is only counted
(R324). -/
def queueLog (c : Ctl) (x : Accepted) (d : Dp) : Dp :=
  if d.sup.mode = .drain then
    { d with flt := { d.flt with pendingAtDrain := some (d.flt.pendingAtDrain.getD 0 + 1) } }
  else { d with flt := { d.flt with logQ := d.flt.logQ ++ [(x, healthBytes c d)] } }

/-- The ISOLATE action (R321, R323): one withheld is logged with its message, and counted. -/
def isolateAction (x : Accepted) (c : Ctl) (d : Dp) : Ctl × Dp :=
  let m := x.msg
  if 0x10 < m.source.toNat || alreadyIsolated d m then (c, d)
  else if (kindFixed m.kind).getLsbD 4 = false && (anyIsolated d || d.mh.rebActive) then
    let d1 := if (actionsOf c x).getLsbD 0 then d else queueLog c x d
    (c, { d1 with flt := { d1.flt with withheld := satInc 0xFF d1.flt.withheld } })
  else if warpKind m.kind then isolateCounted m.source.toNat false (BitVec.ofNat 4 (2 ^ (m.aux.toNat % 4))) c d
  else isolateCounted m.source.toNat true 0 c d

/-- The location that a RETIRE action names (R321), with the channel of R144. -/
def retireLoc (m : Msg) : Option RctLoc :=
  let a := m.address.toNat
  if stripeKind m.kind then
    let s : Stripe := BitVec.ofNat 31 a
    let k := if m.kind = 0x05 ∨ m.kind = 0x09 then m.aux.toNat
      else if m.kind = 0x02 ∨ m.kind = 0x03 then posChan (stripeRow s) m.aux.toNat else 31
    some (.media s k)
  else if hbmKind m.kind then some (.hbm (m.source.toNat - 0x20) (a / 2 ^ 20 % 64) (a / 32 % 2 ^ 15))
  else if sramKind m.kind then some (.sram (a / 2 ^ 32) (a % 2 ^ 32))
  else none

/-- The actions of a message that are queued to their executors, and its interrupt (R321, R324). -/
def reactQueues (x : Accepted) (c : Ctl) (d : Dp) : Dp :=
  let a := actionsOf c x
  let live := d.sup.mode ≠ .drain
  let d1 := if a.getLsbD 0 then queueLog c x d else d
  let d2 := if a.getLsbD 1 && (live || linkUp d1) then msix 70 d1 else d1
  { d2 with flt := { d2.flt with
    poisonQ := if a.getLsbD 2 && live && dpaKind x.msg.kind then d2.flt.poisonQ ++ [x] else d2.flt.poisonQ
    retireQ := if a.getLsbD 3 && live && (retireLoc x.msg).isSome then d2.flt.retireQ ++ [x] else d2.flt.retireQ } }

/-- The actions of a message (R321 to R324): LOG, POISON and RETIRE are queued to their executors; DRAIN overrides
FALLOW. An isolation sends vector 70 (R146). A FALLOW action that takes the SW64 into FALLOW writes its record (R323). -/
def react (x : Accepted) (c : Ctl) (d : Dp) : Ctl × Dp :=
  let a := actionsOf c x
  let d3 := reactQueues x c d
  let z := if a.getLsbD 4 then isolateAction x c d3 else (c, d3)
  let y := if a.getLsbD 1 || z.2.pst.dev.isoChan = d3.pst.dev.isoChan && z.2.pst.dev.isoPkg = d3.pst.dev.isoPkg then z
    else (z.1, msix 70 z.2)
  if a.getLsbD 6 then (y.1, requestDrain y.1 0x0B y.2)
  else if a.getLsbD 5 then
    let z := enterFallow y.1 0x0A y.2
    (y.1, if z.sup.mode = .fallow && y.2.sup.mode ≠ .fallow then eventRecord y.1 2 2 0 z else z)
  else y

/-- The input of the collector's arbiter that a source's messages reach (R316). -/
def sourceInput (src : Nat) : Nat := if src ≤ 0x10 then 0 else if src < 0x40 then 1 else if src < 0x60 then 2 else 3

/-- Whether a message waits at an input of the collector's arbiter. -/
def inputWaits (d : Dp) (i : Nat) : Bool :=
  (d.flt.inq.any fun m => sourceInput m.source.toNat = i) || d.flt.outq.any fun e => e.2 ≠ [] && sourceInput e.1 = i

/-- The input that the arbiter grants next (R316, R27): the first in ring order after the last winner at which a message waits. -/
def inputGrant (d : Dp) : Option Nat := ((List.range 4).map fun k => (d.flt.lastIn + 1 + k) % 4).find? (inputWaits d)

/-- The oldest message of a source, in the collector's input queue or still on its way there (R315), and what is left. -/
def takeMsg (src : BitVec 8) (d : Dp) : Option (Msg × Dp) :=
  match d.flt.inq.find? (·.source = src), smGet [] d.flt.outq src.toNat with
  | some m, _ => some (m, { d with flt := { d.flt with inq := d.flt.inq.erase m } })
  | none, m :: rest => some (m, { d with flt := { d.flt with outq := smSet [] d.flt.outq src.toNat rest } })
  | none, [] => none

/-- The oldest message of a source is accepted by the collector (R315, R316, R319). One whose parity fails is discarded, and a
message of source 0x6D stands in its place. Which source of an input is next is its tree's decision; the inputs take turns (R316, log
entry 161). In DORMANT the collector is idle (R353). -/
def messageArrives (src : BitVec 8) (parityOk : Bool) (c : Ctl) (d0 : Dp) : Ctl × Dp :=
  let d := { d0 with flt := { d0.flt with lastIn := sourceInput src.toNat } }
  match takeMsg src d with
  | none => (c, d0)
  | some (m, d1) =>
    if d0.sup.mode = .dormant || inputGrant d0 ≠ some (sourceInput src.toNat) then (c, d0)
    else if parityOk then let r := acceptMessage c m (pmuCount c 21 0x14 1 d1); react r.1 c r.2
    else (c, raise 0x6D 0x2C 0 1 0xFF noAccess { d1 with flt := { d1.flt with netParity := true, msgLost := true } })

/-- FAULT_MESSAGE (R319). -/
def execFaultMessage (source : BitVec 8) (parityOk : Bool) (s : State) : Host.Outcome State Fault Refusal :=
  onBoth (messageArrives source parityOk) s

/-- The record of a message (R328): its type by its address format, the message in its host view, the transaction type
from the first-error master. -/
def recordOf (d : Dp) (x : Accepted) (health : List (BitVec 8)) (suppressed : Nat) : EvRec :=
  { handle := 0
    fmt := if dpaKind x.msg.kind then 0 else if hbmKind x.msg.kind then 1 else 2
    msg := hostMsg x.msg
    dpa := if dpaKind x.msg.kind then x.msg.address.setWidth 37 else 0
    stamp := x.stamp, severe := x.severe, suppressed := suppressed, timestamp := 0, text := 0, health := health
    trans := match (smGet none d.flt.fe x.msg.source.toNat).map (·.master) with
      | some m => if m = 0 then 1 else if m = 1 then 2 else 6
      | none => 6 }

/-- The kinds of the records of R157, which are written in full (R329). -/
def fullKinds : List (BitVec 6) := [0x04, 0x07, 0x08, 0x31, 0x32, 0x33, 0x36]

/-- Write the record of a message, at most one per millisecond for a pair of source and kind; those of R157 in full (R329). -/
def writeLog (c : Ctl) (y : Accepted × List (BitVec 8)) (d : Dp) : Dp :=
  let x := y.1
  let mine := fun (e : BitVec 8 × BitVec 6 × Stamp × Nat) => decide (e.1 = x.msg.source ∧ e.2.1 = x.msg.kind)
  let others := d.flt.last.filter fun e => !mine e
  let put := fun (t : Stamp) (n : Nat) (d : Dp) =>
    { d with flt := { d.flt with last := others ++ [(x.msg.source, x.msg.kind, t, n)] } }
  let record := fun (n : Nat) (d : Dp) => writeEvent c x.msg.severity.toNat (recordOf d x y.2 n) d
  if x.msg.kind ∈ fullKinds then record 0 d
  else match d.flt.last.find? mine with
    | none => put d.now 0 (record 0 d)
    | some e => if elapsed e.2.2.1 d.now < 1000000 then put e.2.2.1 (e.2.2.2 + 1) d else put d.now 0 (record e.2.2.2 d)

/-- The LOG action carried out by MP_3 (R321); it waits while MP_3 does not run (R322). -/
def logs (c : Ctl) (d : Dp) : Dp :=
  match d.flt.logQ with
  | [] => d
  | x :: rest =>
    if d.que.mps.getD 3 1 ≠ 0 then d else writeLog c x { d with flt := { d.flt with logQ := rest } }

/-- LOG (R328). -/
def execLog (s : State) : Host.Outcome State Fault Refusal := onDp logs s

/-- Store a line poisoned (R162, R321) and list it as injected poison. -/
def storePoison (c : Ctl) (a : SecAddr) (d : Dp) : Dp :=
  updWithhold c (poisonAdd a true
    (placeSector c (secLine a) (secIdx a) 0 true ((slotOfDpa d (secDpa a)).getD 0) false d))

/-- The POISON action (R321). -/
def poisons (c : Ctl) (d : Dp) : Dp :=
  match d.flt.poisonQ with
  | [] => d
  | x :: rest =>
    if serving d then storePoison c (x.msg.address.setWidth 37) { d with flt := { d.flt with poisonQ := rest } } else d

/-- POISON (R321). -/
def execPoison (s : State) : Host.Outcome State Fault Refusal := onDp poisons s

/-- The RETIRE action (R321): the step-4 action of R172 for the location named. -/
def retires (c : Ctl) (d : Dp) : Dp :=
  match d.flt.retireQ with
  | [] => d
  | x :: rest =>
    if !serving d then d
    else
      let d1 := { d with flt := { d.flt with retireQ := rest } }
      match retireLoc x.msg with
      | some l => emptyOutWays c (rctAct4 c l d1)
      | none => d1

/-- RETIRE (R321). -/
def execRetire (s : State) : Host.Outcome State Fault Refusal := onDp retires s

/-- MSG_DROPPED of a source whose queue has room again (R315). -/
def sendsDropped (src : BitVec 8) (d : Dp) : Dp :=
  let n := smGet 0 d.flt.dropped src.toNat
  if n = 0 || 4 ≤ (smGet [] d.flt.outq src.toNat).length then d
  else raise src.toNat 0x2C 0 n 0xFF noAccess
    { d with flt := { d.flt with dropped := smSet 0 d.flt.dropped src.toNat 0 } }

/-- MSG_DROPPED (R315). -/
def execMsgDropped (source : BitVec 8) (s : State) : Host.Outcome State Fault Refusal :=
  onDp (fun _ d => sendsDropped source d) s

/-- What a restart of a processor ends: the command that MP_1 held (R280). -/
def restartEnds (c : Ctl) (mp : Nat) (d : Dp) : Dp := if mp = 1 then stopCommand c .abortedRestart [] d else d

/-- A heartbeat has been missing for 100 ms (R32): the processor restarts from the image in SRAM, or waits for it to be
reloaded. A processor halted under debug is not checked. -/
def beatLost (mp : Nat) (reload : Bool) (c : Ctl) (d : Dp) : Dp :=
  if 4 ≤ mp || d.que.mps.getD mp 1 ≠ 0 || d.sup.mode = .off || d.sup.mode = .dormant || !d.sup.isoReleased then d
  else
    let d1 := pmuCount c 23 0x15 1 (restartEnds c mp (raise (0x60 + mp) 0x38 0 mp 0xFF noAccess d))
    { d1 with que := { d1.que with mps := setAt d1.que.mps mp (if reload then 3 else 0)
                                   beats := setAt d1.que.beats mp d1.sup.clock } }

/-- What a processor's firmware met (R168, R169): an uncorrectable word of its HBM data restarts it, one of its SRAM restarts
it from an image that is reloaded. -/
def firmwareMet (mp : Nat) (err : FwErr) (c : Ctl) (d : Dp) : Dp :=
  match err with
  | .hbm w e =>
    let x := structPos d .firmware w
    match (hbmRead 0 (hbmVas x.1 x.2.1 x.2.2.1 x.2.2.2) e).1 with
    | .good => d
    | .corrected => hbmCorrected c x.1 x.2.1 x.2.2.1 x.2.2.2 d
    | .uncorrectable => beatLost mp false c (postWord 3 .firmware w
        (raise (0x20 + x.1) 0x21 (hbmAddr x.2.1 x.2.2.1 x.2.2.2) 0 (8 + mp) 0 d))
  | .sram e =>
    let d1 := wordEcc c (0x60 + mp) 0x23 786432 e d
    match e with
    | .uncorrectable _ => beatLost mp true c d1
    | _ => d1

/-- HEARTBEAT (R31, R32): a running processor's heartbeat, and what its firmware met since the last one. In DORMANT the
processors are halted (R352). -/
def heartbeats (mp : Nat) (err : Option FwErr) (c : Ctl) (d : Dp) : Dp :=
  if d.que.mps.getD mp 1 ≠ 0 ∨ d.sup.mode = .dormant ∨ d.sup.isoReleased = false then d
  else
    let d1 := { d with que := { d.que with beats := setAt d.que.beats mp d.sup.clock } }
    match err with
    | some e => firmwareMet mp e c d1
    | none => d1

/-- HEARTBEAT (R32). -/
def execHeartbeat (mp : Nat) (err : Option FwErr) (s : State) : Host.Outcome State Fault Refusal :=
  onDp (heartbeats mp err) s

/-- HEARTBEAT_LOST (R32). -/
def execHeartbeatLost (mp : Nat) (reload : Bool) (s : State) : Host.Outcome State Fault Refusal :=
  onDp (fun c d => beatLost mp reload c d) s

/-- The firmware image is reloaded and verified (R32, R395): the processor restarts, or stays halted until the next RISE.
MP_0 does the reload of the others, so it must run. -/
def reloads (mp : Nat) (a b : Option FwImage) (c : Ctl) (d : Dp) : Dp :=
  if d.que.mps.getD mp 1 ≠ 3 ∨ (mp ≠ 0 ∧ d.que.mps.getD 0 1 ≠ 0) then d
  else
    let x := bootSlot c a b { d with sec := { d.sec with imgA := a, imgB := b } }
    match x.1 with
    | some _ => { x.2 with que := { x.2.que with
        mps := setAt x.2.que.mps mp 0, beats := setAt x.2.que.beats mp x.2.sup.clock, fwSram := [] } }
    | none => setMp mp 4 x.2

/-- FIRMWARE_RELOAD (R32). -/
def execFirmwareReload (mp : Nat) (a : Option FwImage) (b : Option FwImage) (s : State) :
    Host.Outcome State Fault Refusal :=
  onDp (reloads mp a b) s

end Sys2Proof.Machine
end

