-- ==== Sys2Proof/Machine/Mailbox.lean ====
section
/-! DEFINITION. The standard mailbox commands (R266 to R268, R156), security commands apart. Payload layouts and return
codes are those of CXL 3.1 (PRESUMED, log entries 16 and 17). -/

namespace Sys2Proof.Machine

/-- Run a standard command's meaning while it is in hand and not delayed. -/
def whenStd (x : Nat) (f : Ctl → Dp → Dp) (s : State) : Host.Outcome State Fault Refusal :=
  onDp (fun c d => if stdInHand d x && d.que.delayed.isNone then f c d else d) s

/-- Byte i of the mailbox's input payload. -/
def mboxByte (d : Dp) (i : Nat) : BitVec 8 := (smGet 0 d.que.mboxIn (i / 4)).extractLsb' (8 * (i % 4)) 8

/-- A number in the input payload, least significant byte first. -/
def mboxNum (d : Dp) (off n : Nat) : Nat := leBytes ((List.range n).map fun i => mboxByte d (off + i))

/-- The input payload from an offset on. -/
def mboxFrom (d : Dp) (off : Nat) : List (BitVec 8) := (List.range (d.que.mboxLen - off)).map fun i => mboxByte d (off + i)

/-- Answer with a return code and no payload. -/
def reject (r : Ret) (d : Dp) : Dp := mailboxReply r [] d

/-- Run a meaning when the input payload has the right length. -/
def withLen (n : Nat) (f : Dp → Dp) (d : Dp) : Dp := if d.que.mboxLen = n then f d else reject .invalidLength d

/-- Start a background operation (R266): the command is answered at once. -/
def startBackground (op : BitVec 16) (first last : LineAddr) (d : Dp) : Dp :=
  reject .background { d with que := { d.que with
    bg := some { opcode := op, percent := 0, start := first, next := first, endLine := last } } }

/-- Run a background command's meaning unless another one runs (R266). -/
def unlessBusy (f : Dp → Dp) (d : Dp) : Dp := if d.que.bg.isSome || d.sec.erase then reject .busy d else f d

/-- IDENTIFY_GENERIC_COMPONENT (R267): identifiers, of which R245 gives the vendor's and the Device ID, serial number, 64 KiB
messages, a memory device. -/
def execIdentifyGenericComponent (s : State) : Host.Outcome State Fault Refusal :=
  whenStd 0x0001 (fun _ d => withLen 0 (mailboxReply .success
    (bytesLe 2 Config.vendorId.toNat ++ bytesLe 2 0x0064 ++
      (List.range 2).flatMap (fun i => bytesLe 2 (Config.freeValue 70 (i + 1)).toNat) ++
      bytesLe 8 Config.dsn.toNat ++ [16, 3])) d) s

/-- The UUID of an event record's format (PRESUMED), first byte first: general media, DRAM, memory module. -/
def recordUuid (fmt : BitVec 2) : Nat :=
  if fmt = 0 then 0xfbcd0a77c260417f85a9088b1621eba6 else if fmt = 1 then 0x601dcbb39c064eabb8af4e9bfb5c9624
  else 0xfe927475dd594339a58679bab113b774

/-- Whether the record's message reports an uncorrectable loss (R328): LINES_LOST and MAP_ENTRY_LOSS. -/
def lossKind (m : Msg) : Bool := m.kind = 0x04 || m.kind = 0x24

/-- The Device Event Type of a memory-module record, by class (R314, R328): its coding is not stated. -/
def moduleType (m : Msg) : BitVec 8 := (Config.freeValue 73 (kindClass m.kind)).extractLsb' 0 8

/-- The 64 bytes between a record's common header and its vendor-specific area (R328). A physical address of all ones marks it not
valid (DESIGN CHOICE, log entry 162). -/
def recordBody (r : EvRec) : List (BitVec 8) :=
  let bank := r.msg.address.toNat / 2 ^ 20 % 64
  let body :=
    if r.fmt = 0 then
      bytesLe 8 (r.dpa.toNat * 64 + b2n (lossKind r.msg)) ++ [0, if lossKind r.msg then 0 else 4, r.trans] ++ bytesLe 2 0
    else if r.fmt = 1 then
      bytesLe 8 (2 ^ 64 - 1) ++ [0, 0, r.trans] ++ bytesLe 2 0x39 ++ bytesLe 1 (r.msg.source.toNat - 0x20) ++ [0] ++ bytesLe 3 0 ++
        bytesLe 1 (bank / 12) ++ bytesLe 1 (bank % 12) ++ bytesLe 3 (r.msg.address.toNat / 32 % 2 ^ 15)
    else moduleType r.msg :: r.health
  padTo 56 body

/-- An event record of 128 bytes (R328): the common header, the body, and the vendor-specific area: the count carried
(R329), the message in its host view, and the stamp with the severe bit. -/
def recordBytes (sev : Nat) (r : EvRec) : List (BitVec 8) :=
  padTo 48 (bytesBe 16 (recordUuid r.fmt) ++ [0x80] ++ bytesLe 3 sev ++ bytesLe 2 r.handle ++ bytesLe 2 0 ++
    bytesLe 8 r.timestamp.toNat) ++ recordBody r ++ bytesLe 8 (r.suppressed + r.text.toNat * 2 ^ 56) ++
    bytesLe 8 (msgBits r.msg).toNat ++ bytesLe 8 (r.stamp.toNat % 2 ^ 63 + b2n r.severe * 2 ^ 63)

/-- GET_EVENT_RECORDS (R267). -/
def execGetEventRecords (s : State) : Host.Outcome State Fault Refusal :=
  whenStd 0x0100 (fun _ d => withLen 1 (fun d =>
    let sev := mboxNum d 0 1
    let l := logOf d sev
    if 4 ≤ sev then reject .invalidInput d
    else mailboxReply .success
      ([BitVec.ofNat 8 (b2n (0 < l.overflow)), 0] ++ bytesLe 2 (sat 0xFFFF l.overflow) ++ bytesLe 8 l.first.toNat ++
        bytesLe 8 l.last.toNat ++ bytesLe 2 l.recs.length ++ bytesLe 10 0 ++ l.recs.flatMap (recordBytes sev)) d) d) s

/-- A log with some of its records cleared; its overflow state goes once it is empty (R267). -/
def clearLog (keep : EvRec → Bool) (l : EvLog) : EvLog :=
  let recs := l.recs.filter keep
  if recs = [] then { l with recs := [], overflow := 0, first := 0, last := 0 } else { l with recs := recs }

/-- CLEAR_EVENT_RECORDS (R267): all of a log, or the records named, all of which must be there. -/
def execClearEventRecords (s : State) : Host.Outcome State Fault Refusal :=
  whenStd 0x0101 (fun _ d =>
    let sev := mboxNum d 0 1
    let n := mboxNum d 2 1
    let hs := (List.range n).map fun i => mboxNum d (6 + 2 * i) 2
    if d.que.mboxLen < 6 ∨ d.que.mboxLen ≠ 6 + 2 * n then reject .invalidLength d
    else if 4 ≤ sev then reject .invalidInput d
    else if (mboxByte d 1).getLsbD 0 then reject .success (setLog sev (clearLog (fun _ => false) (logOf d sev)) d)
    else if hs.any fun h => !((logOf d sev).recs.any fun r => r.handle % 65536 = h) then reject .invalidHandle d
    else reject .success (setLog sev (clearLog (fun r => !(r.handle % 65536 ∈ hs)) (logOf d sev)) d)) s

/-- GET_EVENT_INTERRUPT_POLICY (R263): the four modes, then the vectors of the logs that use MSI-X. -/
def execGetEventInterruptPolicy (s : State) : Host.Outcome State Fault Refusal :=
  whenStd 0x0102 (fun _ d => withLen 0 (mailboxReply .success
    ((List.range 4).map (fun i => (logOf d i).policy.setWidth 8) ++
      (List.range 4).map fun i => if (logOf d i).policy = 1 then BitVec.ofNat 8 (65 + i) else 0)) d) s

/-- SET_EVENT_INTERRUPT_POLICY (R263): none or MSI-X for each log; firmware interrupts are not supported. -/
def execSetEventInterruptPolicy (s : State) : Host.Outcome State Fault Refusal :=
  whenStd 0x0103 (fun _ d => withLen 4 (fun d =>
    let m := fun (i : Nat) => mboxNum d i 1 % 4
    if (List.range 4).any fun i => 2 ≤ m i then reject .invalidInput d
    else reject .success ((List.range 4).foldl (fun d i => setLog i { logOf d i with policy := BitVec.ofNat 2 (m i) } d) d)) d) s

/-- A slot's firmware revision, 16 bytes. -/
def slotRev (i : Option FwImage) : List (BitVec 8) := padTo 16 (bytesLe 4 ((i.map (·.version.toNat)).getD 0))

/-- GET_FW_INFO (R267): two slots, the running one, the one staged for the next RISE, no online activation. -/
def execGetFwInfo (s : State) : Host.Outcome State Fault Refusal :=
  whenStd 0x0200 (fun _ d => withLen 0 (fun d =>
    let running := if d.sec.running = 2 then 0 else d.sec.running.toNat + 1
    let next := b2n d.pst.dev.fwSelect + 1
    mailboxReply .success ([2, BitVec.ofNat 8 (running + (if next = running then 0 else 8 * next)), 0] ++ bytesLe 13 0 ++
      slotRev d.sec.imgA ++ slotRev d.sec.imgB ++ bytesLe 32 0) d) d) s

/-- The image a slot's transferred words spell (R394, R395): none without the magic and the format. -/
def parseImage (ws : List (BitVec 64)) : Option FwImage :=
  let w := fun (i : Nat) => ws.getD i 0
  let bytes := ws.flatMap wordBytes
  let len := ((w 2).extractLsb' 32 32).toNat
  let index : BitVec 2 := (w 3).extractLsb' 0 2
  let at_ := fun (off n : Nat) => (bytes.drop off).take n
  let number := fun (off : Nat) => (packBytes 384 (at_ off 48)).toNat
  if w 0 ≠ 0x000000015241534F ∨ 16776704 < len ∨ 4 ≤ ((w 3).extractLsb' 0 8).toNat ∨ 4 ≤ ((w 1).extractLsb' 32 8).toNat then none
  else some
    { version := (w 1).extractLsb' 0 32, index := (w 1).extractLsb' 32 2, secVersion := (w 2).extractLsb' 0 32,
      keyIndex := index, keyHashOk := sha384 (at_ 80 96) = Config.keyHash index
      signatureOk := ecdsaOk (number 80) (number 128) (number 176) (number 224) (at_ 0 176)
      digestOk := packBytes 384 (at_ 32 48) = sha384 (at_ 512 len), whole := sha384 (at_ 0 (512 + len)) }

/-- Put the transferred words into their slot. -/
def finishTransfer (x : Bool × List (BitVec 64)) (d : Dp) : Dp :=
  let i := parseImage x.2
  { d with sec := { d.sec with
    xfer := none, imgA := if x.1 then d.sec.imgA else i, imgB := if x.1 then i else d.sec.imgB } }

/-- The background operation of one part of a transfer. -/
def transferPart (x : Option (Bool × List (BitVec 64))) (last : Bool) (d : Dp) : Dp :=
  match x with
  | none => startBackground 0x0201 0 0 { d with sec := { d.sec with xfer := none } }
  | some y =>
    if 2097152 < y.2.length then reject .invalidInput d
    else startBackground 0x0201 0 0 (if last then finishTransfer y d else { d with sec := { d.sec with xfer := some y } })

/-- TRANSFER_FW (R267): a whole image, or its parts in order, into a slot other than the running one. -/
def execTransferFw (s : State) : Host.Outcome State Fault Refusal :=
  whenStd 0x0201 (fun _ d => unlessBusy (fun d =>
    let action := mboxNum d 0 1
    let slot := mboxNum d 1 1
    let off := mboxNum d 4 4 * 128
    let data := wordsOf ((d.que.mboxLen - 128 + 7) / 8) (mboxFrom d 128)
    let b : Bool := slot = 2
    if d.que.mboxLen < 128 then reject .invalidLength d
    else if 5 ≤ action then reject .invalidInput d
    else if slot ≠ 1 ∧ slot ≠ 2 ∨ d.sec.running.toNat + 1 = slot then reject .invalidSlot d
    else match action with
      | 0 => if d.sec.xfer.isSome then reject .fwInProgress d else transferPart (some (b, data)) true d
      | 1 => if d.sec.xfer.isSome then reject .fwInProgress d
             else if off ≠ 0 then reject .fwOutOfOrder d else transferPart (some (b, data)) false d
      | 4 => transferPart none false d
      | n => match d.sec.xfer with
        | none => reject .fwOutOfOrder d
        | some y =>
          if y.1 ≠ b ∨ off ≠ 8 * y.2.length then reject .fwOutOfOrder d
          else transferPart (some (b, y.2 ++ data)) (n = 3) d) d) s

/-- ACTIVATE_FW (R267, R396): at the next RISE only. -/
def execActivateFw (s : State) : Host.Outcome State Fault Refusal :=
  whenStd 0x0202 (fun c d => withLen 2 (fun d =>
    let slot := mboxNum d 1 1
    let b : Bool := slot = 2
    if mboxNum d 0 1 ≠ 1 then reject .invalidInput d
    else if slot ≠ 1 ∧ slot ≠ 2 then reject .invalidSlot d
    else if !slotOk c (slotImg d b) then reject .fwVerify d
    else reject .success (selectSlot b d)) d) s

/-- GET_TIMESTAMP (R267). -/
def execGetTimestamp (s : State) : Host.Outcome State Fault Refusal :=
  whenStd 0x0300 (fun _ d => withLen 0 (mailboxReply .success (bytesLe 8 (cxlTime d).toNat)) d) s

/-- SET_TIMESTAMP (R267). -/
def execSetTimestamp (s : State) : Host.Outcome State Fault Refusal :=
  whenStd 0x0301 (fun _ d => withLen 8 (fun d =>
    reject .success { d with hif := { d.hif with tsSet := some (BitVec.ofNat 64 (mboxNum d 0 8), d.now) } }) d) s

/-- The opcodes of the Command Effects Log (R267, R287): the standard ones and every vendor-specific one. -/
def celOps : List Nat := standardOps ++ opcodeShape.map fun x => 0xC000 + x.1

/-- The Command Effects Log: 4 bytes an opcode; the effects are not stated. -/
def celBytes : List (BitVec 8) := celOps.flatMap fun x => bytesLe 2 x ++ bytesLe 2 (Config.freeValue 72 x).toNat

/-- The UUID of the Command Effects Log (PRESUMED). -/
def celUuid : Nat := 0x0da9c0b5bf414b788f7996b1623b3f17

/-- GET_SUPPORTED_LOGS (R267). -/
def execGetSupportedLogs (s : State) : Host.Outcome State Fault Refusal :=
  whenStd 0x0400 (fun _ d => withLen 0 (mailboxReply .success
    (bytesLe 2 1 ++ bytesLe 6 0 ++ bytesBe 16 celUuid ++ bytesLe 4 celBytes.length)) d) s

/-- GET_LOG (R267): the Command Effects Log. -/
def execGetLog (s : State) : Host.Outcome State Fault Refusal :=
  whenStd 0x0401 (fun _ d => withLen 24 (fun d =>
    let off := mboxNum d 16 4
    let n := mboxNum d 20 4
    if (mboxFrom d 0).take 16 ≠ bytesBe 16 celUuid then reject .invalidLog d
    else if celBytes.length < off + n then reject .invalidInput d
    else mailboxReply .success ((celBytes.drop off).take n) d) d) s

/-- IDENTIFY_MEMORY_DEVICE (R268). -/
def execIdentifyMemoryDevice (s : State) : Host.Outcome State Fault Refusal :=
  whenStd 0x4000 (fun _ d => withLen 0 (fun d =>
    let cap := hostBytes (cfgN d) / 2 ^ 28
    mailboxReply .success (slotRev d.sec.runImage ++ bytesLe 8 cap ++ bytesLe 8 0 ++ bytesLe 8 cap ++ bytesLe 8 0 ++
      (List.range 4).flatMap (fun _ => bytesLe 2 128) ++ bytesLe 4 131072 ++ bytesLe 3 512 ++ bytesLe 2 64 ++ [3, 0] ++
      bytesLe 2 0) d) d) s

/-- GET_PARTITION_INFO (R267): volatile 0, persistent the whole capacity. -/
def execGetPartitionInfo (s : State) : Host.Outcome State Fault Refusal :=
  whenStd 0x4100 (fun _ d => withLen 0 (fun d => mailboxReply .success
    (bytesLe 8 0 ++ bytesLe 8 (hostBytes (cfgN d) / 2 ^ 28) ++ bytesLe 16 0) d) d) s

/-- SET_PARTITION_INFO (R267): the capacity is not partitionable. -/
def execSetPartitionInfo (s : State) : Host.Outcome State Fault Refusal := whenStd 0x4101 (fun _ d => reject .invalidInput d) s

/-- The pages of the label storage area that a range touches (R291). -/
def lsaPages (off n : Nat) : List Nat :=
  if n = 0 then [] else (List.range ((off + n - 1) / 256 - off / 256 + 1)).map fun i => 64 + off / 256 + i

/-- GET_LSA (R267, R300): a damaged page in the range is an internal error. -/
def execGetLsa (s : State) : Host.Outcome State Fault Refusal :=
  whenStd 0x4102 (fun _ d => withLen 8 (fun d =>
    let off := mboxNum d 0 4
    let n := mboxNum d 4 4
    let pages := (lsaPages off n).map (readPage d)
    if 131072 < off + n ∨ 65536 < n then reject .invalidInput d
    else if pages.any (·.isNone) then reject .internalError (pagesRead (lsaPages off n) d)
    else mailboxReply .success (((pages.flatMap fun p => pageBytes (p.getD 0)).drop (off % 256)).take n) (pagesRead (lsaPages off n) d)) d) s

/-- A page with new bytes over it; of a damaged page the rest is free. -/
def overlay (d : Dp) (page at_ : Nat) (data : List (BitVec 8)) : BitVec 2048 :=
  let old := match readPage d page with
    | some v => pageBytes v
    | none => freePage page d
  packBytes 2048 (padTo 256 (old.take at_ ++ data ++ old.drop (at_ + data.length)))

/-- SET_LSA (R267, R296): durable before it completes; busy while a background operation runs (R266). -/
def execSetLsa (s : State) : Host.Outcome State Fault Refusal :=
  whenStd 0x4103 (fun c d =>
    let off := mboxNum d 0 4
    let data := mboxFrom d 8
    if d.pst.writes.any fun w => w.who = 2 then d
    else if d.que.bg.isSome || d.sec.erase then reject .busy d
    else if d.que.mboxLen < 8 then reject .invalidLength d
    else if 131072 < off + data.length then reject .invalidInput d
    else if data = [] then reject .success d
    else
      let put := fun (p : Nat) =>
        let lo := (p - 64) * 256
        (p, overlay d p (off - lo) ((data.drop (lo - off)).take (min 256 (lo + 256 - off))))
      writePages c ((lsaPages off data.length).map put) 2 [] (bump d)) s

/-- GET_HEALTH_INFO (R156). -/
def execGetHealthInfo (s : State) : Host.Outcome State Fault Refusal :=
  whenStd 0x4200 (fun c d => withLen 0 (mailboxReply .success (healthBytes c d)) d) s

/-- GET_ALERT_CONFIGURATION (R267). -/
def execGetAlertConfiguration (s : State) : Host.Outcome State Fault Refusal :=
  whenStd 0x4201 (fun _ d => withLen 0 (fun d =>
    let a := fun (n : Nat) => (d.logs.alerts.getD n 0).toNat
    let k := fun (n : Nat) => (criticalAt n).toNat
    mailboxReply .success ([d.logs.alertOn, 0x1F] ++ bytesLe 1 (k 0) ++ bytesLe 1 (a 0) ++ bytesLe 2 (k 1) ++ bytesLe 2 (k 2) ++
      bytesLe 2 (a 1) ++ bytesLe 2 (a 2) ++ bytesLe 2 (a 3) ++ bytesLe 2 (a 4)) d) d) s

/-- SET_ALERT_CONFIGURATION (R267): the alerts named are enabled with a threshold, or disabled. -/
def execSetAlertConfiguration (s : State) : Host.Outcome State Fault Refusal :=
  whenStd 0x4202 (fun _ d => withLen 12 (fun d =>
    let valid := mboxByte d 0
    let on := mboxByte d 1
    let v := fun (n : Nat) => BitVec.ofNat 16 (if n = 0 then mboxNum d 2 1 else mboxNum d (2 + 2 * n) 2)
    let set := fun (d : Dp) (n : Nat) =>
      if !valid.getLsbD n then d
      else { d with logs := { d.logs with
        alerts := if on.getLsbD n then setAt d.logs.alerts n (v n) else d.logs.alerts
        alertOn := if on.getLsbD n then setBit d.logs.alertOn n else clrBit d.logs.alertOn n } }
    reject .success ((List.range 5).foldl set d)) d) s

/-- GET_SHUTDOWN_STATE (R267): the host's dirty flag; a damaged record reads as dirty (R300). -/
def execGetShutdownState (s : State) : Host.Outcome State Fault Refusal :=
  whenStd 0x4203 (fun _ d => withLen 0 (fun d =>
    mailboxReply .success [BitVec.ofNat 8 (b2n (d.pst.dev.hostDirty || decide (38 ∈ d.pst.undecodable)))] d) d) s

/-- SET_SHUTDOWN_STATE (R267): kept in the parameter store. -/
def execSetShutdownState (s : State) : Host.Outcome State Fault Refusal :=
  whenStd 0x4204 (fun _ d => withLen 1 (fun d =>
    if 2 ≤ mboxNum d 0 1 then reject .invalidInput d
    else reject .success (modDev 38 (fun r => { r with hostDirty := mboxNum d 0 1 = 1 }) d)) d) s

/-- A line address given in a payload: none when it is unaligned or beyond the capacity. -/
def dpaParam (c : Ctl) (d : Dp) (off : Nat) : Option SecAddr :=
  let a := mboxNum d off 8
  if a % 64 = 0 ∧ a < hostCapacity c d then some (BitVec.ofNat 37 (a / 64)) else none

/-- The first and last line of a range given in a payload as an address and a number of 64-byte units. -/
def rangeParam (c : Ctl) (d : Dp) : Option (Nat × Nat) :=
  let a := mboxNum d 0 8
  let n := mboxNum d 8 8
  if a % 64 = 0 ∧ 1 ≤ n ∧ a + 64 * n ≤ hostCapacity c d then some (a / 64, a / 64 + n) else none

/-- A media error record: address with its source, and one 64-byte unit. -/
def errorRecord (a : SecAddr) (source : Nat) : List (BitVec 8) := bytesLe 8 (a.toNat * 64 + source) ++ bytesLe 4 1 ++ bytesLe 4 0

/-- GET_POISON_LIST (R267). -/
def execGetPoisonList (s : State) : Host.Outcome State Fault Refusal :=
  whenStd 0x4300 (fun c d => withLen 16 (fun d =>
    match rangeParam c d with
    | none => reject .invalidAddress d
    | some (lo, hi) =>
      let recs := d.logs.poison.filter fun r => lo ≤ r.line.toNat && r.line.toNat < hi
      let scanning := match d.que.bg with
        | some b => b.opcode = 0x4304
        | none => false
      mailboxReply .success ([BitVec.ofNat 8 (2 * b2n d.logs.poisonOver.isSome + 4 * b2n scanning), 0] ++
        bytesLe 8 (d.logs.poisonOver.getD 0).toNat ++ bytesLe 2 recs.length ++ bytesLe 20 0 ++
        recs.flatMap fun r => errorRecord r.line (if r.injected then 3 else 2)) d) d) s

/-- INJECT_POISON (R267, R268): at most 64 lines. -/
def execInjectPoison (s : State) : Host.Outcome State Fault Refusal :=
  whenStd 0x4301 (fun c d => withLen 8 (fun d =>
    match dpaParam c d 0 with
    | none => reject .invalidAddress d
    | some a =>
      if refusing d then reject .invalidSecurity d
      else if 64 ≤ (d.logs.poison.filter (·.injected)).length then reject .poisonLimit d
      else reject .success (storePoison c a d)) d) s

/-- CLEAR_POISON (R267): handled as a completed host write of the whole line. -/
def execClearPoison (s : State) : Host.Outcome State Fault Refusal :=
  whenStd 0x4302 (fun c d => withLen 72 (fun d =>
    match dpaParam c d 0 with
    | none => reject .invalidAddress d
    | some a =>
      let data : Sector := packBytes 512 ((mboxFrom d 8).take 64)
      if refusing d ∨ d.sup.mode = .fallow then reject .success (refuseWrite c d)
      else if d.hif.withheld || ceilBytes c < 64 * (dSectors d + 1) + 64 * wOf d || mergeFree d ≤ wOf d then d
      else reject .success (updWithhold c (poisonRemove a
        (placeSector c (secLine a) (secIdx a) data false ((slotOfDpa d (secDpa a)).getD 0) false d)))) d) s

/-- The estimated time of a scan in ms (R267): 1 s per 64 GiB in W4, not stated for the others. -/
def scanTime (d : Dp) (units : Nat) : Nat :=
  if cfgN d = 4 then (units * 64 * 1000 + 2 ^ 36 - 1) / 2 ^ 36 else (Config.freeValue 74 units).toNat

/-- GET_SCAN_MEDIA_CAPABILITIES (R267). -/
def execGetScanMediaCapabilities (s : State) : Host.Outcome State Fault Refusal :=
  whenStd 0x4303 (fun c d => withLen 16 (fun d =>
    match rangeParam c d with
    | none => reject .invalidAddress d
    | some (lo, hi) => mailboxReply .success (bytesLe 4 (sat 0xFFFFFFFF (scanTime d (hi - lo)))) d) d) s

/-- SCAN_MEDIA (R267): a background operation over the lines of a range. -/
def execScanMedia (s : State) : Host.Outcome State Fault Refusal :=
  whenStd 0x4304 (fun c d => unlessBusy (withLen 17 (fun d =>
    match rangeParam c d with
    | none => reject .invalidAddress d
    | some (lo, hi) =>
      scanNext c (startBackground 0x4304 (BitVec.ofNat 35 (lo / 4)) (BitVec.ofNat 35 ((hi + 3) / 4))
        { d with logs := { d.logs with scan := [] } }))) d) s

/-- GET_SCAN_MEDIA_RESULTS (R267). The table does not say how results beyond one answer are given: every answer holds the first 4,000
lines, and its flag says when there are more (DESIGN CHOICE, log entry 163). -/
def execGetScanMediaResults (s : State) : Host.Outcome State Fault Refusal :=
  whenStd 0x4305 (fun _ d => withLen 0 (fun d =>
    let recs := d.logs.scan.take 4000
    mailboxReply .success (bytesLe 16 0 ++ [BitVec.ofNat 8 (b2n (4000 < d.logs.scan.length)), 0] ++ bytesLe 2 recs.length ++
      bytesLe 12 0 ++ recs.flatMap fun a => errorRecord a 2) d) d) s

end Sys2Proof.Machine
end

