-- ==== Sys2Proof/Machine/Mapping.lean ====
section
/-! DEFINITION. The upkeep of the mapping: acknowledged copy writes (R50), the journal's change and checkpoint stripes
(R109), and the release of removed stripes (R51). -/

namespace Sys2Proof.Machine

/-- A mirror copy's write of a page's new entry is acknowledged (R50), once it has issued at its pseudo-channel. Copy B is
written after copy A, the next change of the entry after both. -/
def copyWritten (page : Page) (copyB : Bool) (c : Ctl) (d : Dp) : Dp :=
  match d.hbm.queue.find? fun e => e.use = .mapWrite page.toNat copyB && e.issued with
  | none => d
  | some e =>
    let d1 := ackCopy page.toNat copyB { d with hbm := { d.hbm with queue := d.hbm.queue.erase e } }
    hbmServe c (if !copyB then postMapWrite page.toNat true d1
      else if (cacheLine d1 page.toNat).any (·.pinned) then postMapWrite page.toNat false d1 else d1)

/-- COPY_WRITE_ACKNOWLEDGED (R50): a mirror copy's write of a page's new entry is acknowledged; with the second one the
entry is unpinned and the change goes to the journal. -/
def execCopyWriteAcknowledged (page : Page) (copyB : Bool) (s : State) : Host.Outcome State Fault Refusal :=
  onDp (copyWritten page copyB) s

/-- Whether the mapping journal can be written: the configuration is known, media are in service, and the drain's reserve
stays free (R109). -/
def journalOpen (d : Dp) : Bool := cfgN d ≠ 0 && (serving d || d.sup.mode = .rise) && journalRoom d

/-- A change-stripe buffer is written, and in service with it the checkpoint stripes owed (R109). -/
def changeStripe (d : Dp) : Dp :=
  if !journalOpen d then d else if serving d then payOwed (writeChange d) else writeChange d

/-- CHANGE_STRIPE_BUFFER_WRITE (R109): a change-stripe buffer, full or 20 µs old, is written. -/
def execChangeStripeBufferWrite (ecc : WordEcc) (s : State) : Host.Outcome State Fault Refusal :=
  onDp (fun c d => changeStripe (wordEcc c 0x58 0x26 1024 ecc d)) s

/-- CHECKPOINT_STRIPE (R109): the next checkpoint stripe of the pass is written. -/
def execCheckpointStripe (s : State) : Host.Outcome State Fault Refusal :=
  onDp (fun _ d => if journalOpen d && serving d then writeCheckpoint d else d) s

/-- Whether the change with a number is durable: it is in no pinned line, no buffer and no unverified stripe. -/
def numDurable (d : Dp) (n : Nat) : Bool :=
  let has := fun (r : ChgRec) => match r with
    | .entry no _ _ => no = n
    | .media no _ _ _ => no = n
  !(d.map.cache.any fun m => m.chgs.any (·.1 = n)) && !((bufferedChgs d).any has) &&
  !(d.jrn.stripes.any fun x => !x.ok && (match x.body with
    | .change recs => recs.any has
    | _ => false))

/-- A removed stripe returns to the free pool (R51), or is retired (R143), once its change is durable, 40 µs have
passed, and nothing of its row is outstanding. -/
def releaseStripe (s : Stripe) (d : Dp) : Dp :=
  match d.map.waiting.find? fun w => w.stripe = s with
  | none => d
  | some w =>
    if numDurable d w.chg = false ∨ elapsed w.since d.now < 40000 ∨ (d.mrg.deltas.any fun x => x.stripe = s) ∨
        (d.mrg.progs.any fun p => p.set = stripeSet s && p.row = stripeRow s) then d
    else
      let d1 := { d with map := { d.map with waiting := d.map.waiting.filter fun x => x.stripe ≠ s } }
      match w.retire with
      | some chan => markRetired s chan d1
      | none => hbmPost 2 .bitmap s.toNat d1

/-- STRIPE_RELEASE (R51). -/
def execStripeRelease (stripe : Stripe) (s : State) : Host.Outcome State Fault Refusal :=
  onDp (fun _ d => releaseStripe stripe d) s

end Sys2Proof.Machine
end

