-- ==== Sys2Proof/Machine/Recorder.lean ====
section
/-! DEFINITION. The event recorder's fold and samples (R331 to R338), and the performance monitor's periodic work (R413,
R418). -/

namespace Sys2Proof.Machine

/-- The lesser of two optional extremes. -/
def optMin (a b : Option Int) : Option Int :=
  match a, b with
  | some x, some y => some (min x y)
  | some x, none => some x
  | none, y => y

/-- The greater of two optional extremes. -/
def optMax (a b : Option Int) : Option Int :=
  match a, b with
  | some x, some y => some (max x y)
  | some x, none => some x
  | none, y => y

/-- A histogram with the counts of another added. -/
def addHist (x y : Hist) : Hist :=
  { b := y.b.foldl (fun m e => smMod 0 m e.1 (· + e.2)) x.b
    mn := optMin x.mn y.mn, mx := optMax x.mx y.mx, total := x.total + y.total }

/-- A fold (R332): pending clears take effect, then the staging counters are added and emptied. REC_SEQ goes up twice. In
DORMANT the recorder is idle (R14, R353). -/
def folds (d : Dp) : Dp :=
  if d.sup.mode = .off ∨ d.sup.mode = .dormant then d
  else
    let live := (List.range 32).foldl (fun m h => if d.rec_.clear.getLsbD h then smErase m h else m) d.rec_.live
    { d with rec_ := { d.rec_ with
      seq := d.rec_.seq + 2, clear := 0, staging := [], foldAt := d.now
      live := d.rec_.staging.foldl (fun m e => smMod {} m e.1 fun x => addHist x e.2) live } }

/-- REC_FOLD (R332). -/
def execRecFold (s : State) : Host.Outcome State Fault Refusal := onDp (fun _ d => folds d) s

/-- REC_CTL.sample_min (R340). -/
def sampleMin (c : Ctl) : Nat := rg c 0x40000 24 8

/-- The periodic core sample (R335). -/
def samplesCore (c : Ctl) (d : Dp) : Dp :=
  if serving d && sampleMin c ≠ 0 && d.que.mps.getD 3 1 = 0 then writeSample c 0 0 0 0 d else d

/-- CORE_SAMPLE (R335). -/
def execCoreSample (s : State) : Host.Outcome State Fault Refusal := onDp samplesCore s

/-- The length of a window in µs (R418). -/
def windowUs (w : Nat) : Nat := 10 ^ min 6 w

/-- A bandwidth window ends (R418): every port loads its bytes over the window; channel ports, those of a window longer
than 1 ms only. The window selected takes effect. -/
def windowEndsBw (c : Ctl) (d : Dp) : Dp :=
  if d.sup.mode = .off then d
  else
    let us := windowUs d.pmu.bwWindow
    let ports := (List.range 27).filter fun p => !(2 ≤ p && p ≤ 18) || 3 < d.pmu.bwWindow
    { d with pmu := { d.pmu with
      bw := ports.foldl (fun m p => smSet 0 m p (smGet 0 d.pmu.bytes p / us)) d.pmu.bw
      bytes := [], bwSeq := d.pmu.bwSeq + 1, bwWindow := rg c 0x2003000 0 3 } }

/-- BANDWIDTH_WINDOW_END (R418). -/
def execBandwidthWindowEnd (s : State) : Host.Outcome State Fault Refusal := onDp windowEndsBw s

/-- A 1 ms boundary (R413): the channel units' staged counts are added to their counters unless the monitor is frozen, and
the channel ports' bytes are published. -/
def publishes (c : Ctl) (d : Dp) : Dp :=
  if d.sup.mode = .off then d
  else
    let d1 := if pmuFrozen c then d
      else d.pmu.stag.foldl (fun d e => pmuAdd c (e.1 / 8) (e.1 % 8) e.2 d) { d with pmu := { d.pmu with
          stag := [], othStag := [], oth := d.pmu.othStag.foldl (fun m e => smMod 0 m e.1 (· + e.2)) d.pmu.oth } }
    let ports := (List.range 17).map (· + 2)
    { d1 with pmu := { d1.pmu with
      chBytes := []
      bw := if d1.pmu.bwWindow ≤ 3 then
          ports.foldl (fun m p => smSet 0 m p (smGet 0 d1.pmu.chBytes p / 1000)) d1.pmu.bw
        else d1.pmu.bw
      bytes := if d1.pmu.bwWindow ≤ 3 then d1.pmu.bytes
        else ports.foldl (fun m p => smMod 0 m p (· + smGet 0 d1.pmu.chBytes p)) d1.pmu.bytes } }

/-- CHANNEL_PUBLISH (R413). -/
def execChannelPublish (s : State) : Host.Outcome State Fault Refusal := onDp publishes s

end Sys2Proof.Machine
end

