-- ==== Sys2Proof/Machine/Package.lean ====
section
/-! DEFINITION. The package as the spec lays it out (R442 to R448, R453, R454): what stands at each ball, the range of each
supply, the rail dependencies of a power sequence, and the address the straps select. No command reads or changes any of it. -/

namespace Sys2Proof.Machine

/-- The supplies (R447). -/
inductive Supply where
  | vddCore | vddSram | vddPll | vddHbm | vppHbm | vddqHbm | vddaPcie | vddhPcie | vddqMc | vddio | vddAux | vhold
  deriving DecidableEq, Repr

/-- The signals of one media channel (R444). -/
inductive McPin where
  | dq (n : Nat) | dqs (neg : Bool) (n : Nat) | ca (n : Nat) | ck (neg : Bool) | csN (n : Nat) | alertN | rdyN (n : Nat)
  deriving DecidableEq, Repr

/-- The signals of the supervisor, host and sideband regions (R445). -/
inductive CardPin where
  | supXin | supXout | pwrFailN | mrN | svcBtnN | thermTripN | avsClk | avsMdata | avsSdata | psEn (i : Nat) | psPg (i : Nat)
  | peTx (neg : Bool) (n : Nat) | peRx (neg : Bool) (n : Nat) | refclk (neg : Bool) | perstN | clkreqN | peWakeN | smbClk
  | smbDat | smbAlertN | testEn | xspiCk | xspiCsN | xspiDs | xspiResetN | xspiDq (n : Nat) | tck | tms | tdi | tdo | trstN
  | strap (n : Nat)
  deriving DecidableEq, Repr

/-- What a ball carries (R443). -/
inductive Ball where
  | vss
  | dnc
  | sense (neg : Bool)
  | supply (s : Supply)
  | mc (k : Nat) (p : McPin)
  | card (p : CardPin)
  deriving DecidableEq, Repr

/-- The ball of a media channel's block at depth d and position e (R444). -/
def mcBall (k d e : Nat) : Ball :=
  let dqs := fun (lane : Nat) => Ball.mc k (.dqs (e = 6) lane)
  match d with
  | 1 => if e ≤ 4 then .mc k (.dq (e - 1)) else dqs 0
  | 2 => if e ≤ 4 then .mc k (.dq (e + 3)) else .vss
  | 3 => if e ≤ 4 then .mc k (.dq (e + 7)) else dqs 1
  | 4 => if e ≤ 4 then .mc k (.dq (e + 11)) else .vss
  | 5 => if e ≤ 4 then .mc k (.ca (e - 1)) else .mc k (.ck (e = 6))
  | 6 => if e ≤ 4 then .mc k (.ca (e + 3)) else .supply .vddqMc
  | 7 => if e ≤ 4 then .mc k (.csN (e - 1)) else if e = 5 then .mc k .alertN else .supply .vddqMc
  | _ => if e ≤ 4 then .mc k (.rdyN (e - 1)) else .supply .vddqMc

/-- Where the ball of channel k at depth d and position e lies (R444): row and column. -/
def mcPlace (k d e : Nat) : Nat × Nat :=
  if k ≤ 5 then (8 + 6 * k + e - 1, d)
  else if k ≤ 10 then (54 - d, 12 + 6 * (k - 6) + e - 1)
  else (8 + 6 * (k - 11) + e - 1, 54 - d)

/-- The supervisor corner (R445): rows 1 to 7, columns 1 to 13. -/
def supervisorBall (row col : Nat) : Ball :=
  match row with
  | 1 =>
    if col ≤ 4 then .supply .vddAux else if col ≤ 6 then .supply .vhold
    else if col = 8 then .card .supXin else if col = 9 then .card .supXout else .vss
  | 2 =>
    match col with
    | 1 => .card .pwrFailN
    | 2 => .card .mrN
    | 3 => .card .svcBtnN
    | 4 => .card .thermTripN
    | 5 => .card .avsClk
    | 6 => .card .avsMdata
    | 7 => .card .avsSdata
    | _ => .vss
  | 3 => if col ≤ 12 then .card (.psEn (col - 1)) else .vss
  | 4 => if col ≤ 12 then .card (.psPg (col - 1)) else .vss
  | 6 => if col ≤ 6 then .supply .vddio else .vss
  | 7 => if col ≤ 8 then .supply .vddPll else .vss
  | _ => .vss

/-- The host lanes (R445): rows 1 to 7, columns 14 to 45. -/
def hostBall (row col : Nat) : Ball :=
  match row with
  | 2 => .card (.peTx (col % 2 = 1) ((col - 14) / 2))
  | 4 => .card (.peRx (col % 2 = 1) ((col - 14) / 2))
  | 6 => if col = 29 ∨ col = 30 then .card (.refclk (col = 30)) else .supply .vddaPcie
  | 7 => if col % 2 = 0 then .supply .vddhPcie else .vss
  | _ => .vss

/-- The sideband corner (R445): rows 1 to 7, columns 46 to 53. -/
def sidebandBall (row col : Nat) : Ball :=
  match row with
  | 1 =>
    match col with
    | 46 => .card .perstN
    | 47 => .card .clkreqN
    | 48 => .card .peWakeN
    | 49 => .card .smbClk
    | 50 => .card .smbDat
    | 51 => .card .smbAlertN
    | 52 => .card .testEn
    | _ => .vss
  | 2 =>
    match col with
    | 46 => .card .xspiCk
    | 47 => .card .xspiCsN
    | 48 => .card .xspiDs
    | 49 => .card .xspiResetN
    | _ => .card (.xspiDq (col - 50))
  | 3 =>
    match col with
    | 50 => .card .tck
    | 51 => .card .tms
    | 52 => .card .tdi
    | 53 => .card .tdo
    | _ => .card (.xspiDq (col - 42))
  | 4 => if col = 46 then .card .trstN else if col ≤ 50 then .card (.strap (col - 47)) else .vss
  | 6 => if col ≤ 51 then .supply .vddio else .vss
  | 7 => .supply .vddPll
  | _ => .vss

/-- The bottom media band (R443, R444): rows 46 to 53. -/
def bottomBall (row col : Nat) : Ball :=
  if 12 ≤ col ∧ col ≤ 41 then mcBall (6 + (col - 12) / 6) (54 - row) ((col - 12) % 6 + 1)
  else if (row = 53 ∧ (col ≤ 2 ∨ 52 ≤ col)) ∨ (row = 52 ∧ (col = 1 ∨ col = 53)) then .dnc
  else .vss

/-- The inner fields (R443): SRAM, core and HBM, rows 8 to 45, columns 9 to 45. -/
def fieldBall (row col : Nat) : Ball :=
  let even := (row + col) % 2 = 0
  if row ≤ 13 then (if even then .supply .vddSram else .vss)
  else if row ≤ 33 then
    if row = 23 ∧ (col = 27 ∨ col = 28) then .sense (col = 28) else if even then .supply .vddCore else .vss
  else if !even then .vss
  else if col ≤ 20 then .supply .vddqHbm
  else if col ≤ 24 then .supply .vppHbm
  else .supply .vddHbm

/-- What stands at the ball of a row and a column, 1 to 53 (R443 to R445). -/
def ballAt (row col : Nat) : Ball :=
  if row ≤ 7 then
    if col ≤ 13 then supervisorBall row col else if col ≤ 45 then hostBall row col else sidebandBall row col
  else if 46 ≤ row then bottomBall row col
  else if 9 ≤ col ∧ col ≤ 45 then fieldBall row col
  else if 44 ≤ row then .vss
  else if col ≤ 8 then mcBall ((row - 8) / 6) col ((row - 8) % 6 + 1)
  else mcBall (11 + (row - 8) / 6) (54 - col) ((row - 8) % 6 + 1)

/-- The letters of the rows (R442). -/
def rowLetters : List Char := ['A', 'B', 'C', 'D', 'E', 'F', 'G', 'H', 'J', 'K', 'L', 'M', 'N', 'P', 'T', 'U', 'V', 'W', 'Y']

/-- The name of a row, 1 to 53 (R442). -/
def rowName (row : Nat) : List Char :=
  let c := rowLetters.getD ((row - 1) % 19) 'A'
  if row ≤ 19 then [c] else if row ≤ 38 then ['A', c] else ['B', c]

/-- The range of a supply in mV (R447); that of VDD_CORE for a set point, from it to 30 mV above it. -/
def supplyRange (setPoint : Nat) : Supply → Nat × Nat
  | .vddCore => (setPoint, setPoint + 30)
  | .vddSram => (825, 875)
  | .vddPll => (873, 927)
  | .vddHbm => (1067, 1133)
  | .vppHbm => (1746, 1854)
  | .vddqHbm => (388, 412)
  | .vddaPcie => (728, 772)
  | .vddhPcie => (1164, 1236)
  | .vddqMc => (1045, 1155)
  | .vddio => (1710, 1890)
  | .vddAux => (3135, 3465)
  | .vhold => (2500, 3465)

/-- The on-delay or the off-delay of a rail, in units of 0.25 ms (R363). -/
def railDelay (c : Ctl) (off : Bool) (i : Nat) : Nat := rg c (0x10100 + 4 * i) (if off then 8 else 0) 8

/-- Whether a programmed rail sequence keeps the order of R448: VDDIO_1V8 first and last, VDD_HBM around VDDQ_HBM, VDD_PLL and
VDD_SRAM before VDD_CORE, VDDQ_MC around VTT_MC and VMEDIA. The SW64 does not check it. R448's relation of VPP_HBM to VDD_HBM, which is
one of voltages, is taken as: rail 1 on no later than rail 2, and off no earlier (DESIGN CHOICE, log entry 120). -/
def sequenceKept (c : Ctl) : Bool :=
  let on := railDelay c false
  let off := railDelay c true
  (List.range 12).all (fun i => decide (on 0 ≤ on i ∧ off i ≤ off 0)) &&
    decide (on 1 ≤ on 2 ∧ on 2 < on 3 ∧ off 3 < off 2 ∧ off 2 ≤ off 1 ∧ on 4 < on 6 ∧ on 5 < on 6) &&
    [10, 11].all fun i => decide (on 9 < on i ∧ off i < off 9)

/-- The SMBus target address that STRAP[1:0] select (R453, R454). -/
def smbusAddress (straps : BitVec 4) : Nat := 0x60 + (straps.extractLsb' 0 2).toNat

end Sys2Proof.Machine
end

