-- ==== Sys2Proof/Machine/ConfigSpace.lean ====
section
/-! DEFINITION. What the function reports in configuration space: identity and capabilities (R245), BARs (R247), the register
locator (R248), the CXL Device and GPF DVSECs (R119, R257), the HDM decoder capability (R258) and the L1 exit latency
(R244). -/

namespace Sys2Proof.Machine

/-- The configuration values of R245. -/
structure Identity where
  vendor : BitVec 16
  device : BitVec 16
  revision : BitVec 8
  classCode : BitVec 24
  functions : Nat
  completionTimeoutRanges : Nat
  deriving DecidableEq, Repr

/-- What the function reports of itself (R245). The vendor ID is the part's (log entry 32). -/
def identity : Identity :=
  { vendor := Config.vendorId, device := 0x0064, revision := 0xA1, classCode := 0x050210, functions := 1,
    completionTimeoutRanges := 0 }

/-- The capabilities of R245. -/
inductive Capability where
  | pciExpress | powerManagement | msiX | aer | dsn | doe | ide | l1PmSubstates | dataLinkFeature | physicalLayer16
  | physicalLayer32 | physicalLayer64
  deriving DecidableEq, Repr

/-- The capabilities reported (R245). -/
def capabilities : List Capability :=
  [.pciExpress, .powerManagement, .msiX, .aer, .dsn, .doe, .ide, .l1PmSubstates, .dataLinkFeature, .physicalLayer16,
    .physicalLayer32, .physicalLayer64]

/-- The DVSECs of R245. -/
inductive Dvsec where
  | cxlDevice | flexBusPort | registerLocator | gpfDevice
  deriving DecidableEq, Repr

/-- The DVSECs reported (R245). -/
def dvsecs : List Dvsec := [.cxlDevice, .flexBusPort, .registerLocator, .gpfDevice]

/-- Bytes of the three 64-bit non-prefetchable BARs (R247): control, queue, PMU. -/
def barBytes : List Nat := [33554432, 4194304, 65536]

/-- The register of BAR i: base address and type bits (R247), 64-bit and not prefetchable. No row of the table writes
configuration space, and register accesses are given by their BAR and offset, so the bases change nothing (log entry 145). -/
def barRegister (d : Dp) (i : Nat) : BitVec 32 := ((d.hif.bars.getD (i / 2) 0) >>> (32 * (i % 2))).setWidth 32

/-- Register blocks named by the Register Locator, each with BIR 0 (R248): offset and bytes of the component and the device
registers. -/
def registerBlocks : List (Nat × Nat) := [(0x1000000, 65536), (0x1010000, 131072)]

/-- Entries of the MSI-X table (R248, R263), its offset and that of the PBA. -/
def msixCapability : Nat × Nat × Nat := (96, 0x90000, 0x91000)

/-- The L1 exit latency reported, in ns: from and to (R244). -/
def l1ExitNs : Nat × Nat := (32000, 64000)

/-- The GPF DVSEC for Device (R119): phase 2 duration in ns and power in mW. -/
def gpfFigures : Nat × Nat := (40000, 62000)

/-- The fields of the CXL Device DVSEC that R257 gives. -/
inductive DeviceField where
  | cacheCapable | ioCapable | memCapable | memHwInitMode | hdmCount | mldCapable | viralCapable | cxlResetCapable
  | cacheWbInvCapable | range1Size | range1InfoValid | range1Active | range1TimeoutSeconds | range2Size
  deriving DecidableEq, Repr

/-- What the CXL Device DVSEC reports (R257). -/
def deviceDvsec (c : Ctl) (d : Dp) : DeviceField → Nat
  | .cacheCapable => 0
  | .ioCapable => 1
  | .memCapable => 1
  | .memHwInitMode => 0
  | .hdmCount => 1
  | .mldCapable => 0
  | .viralCapable => 0
  | .cxlResetCapable => 0
  | .cacheWbInvCapable => 0
  | .range1Size => hostCapacity c d
  | .range1InfoValid => b2n d.hif.memInfo
  | .range1Active => b2n d.hif.memActive
  | .range1TimeoutSeconds => 64
  | .range2Size => 0

/-- Range 1 Media_Type and Memory_Class (R257). -/
inductive RangeClass where
  | throughCdat
  deriving DecidableEq, Repr

/-- The media type and the memory class of range 1 (R257). -/
def range1Class : RangeClass × RangeClass := (.throughCdat, .throughCdat)

/-- The HDM decoder capability (R258): decoders, interleave ways and granularities, and the address bits interleaved on. -/
structure HdmCapability where
  decoders : Nat
  ways : List Nat
  granularities : List Nat
  bits11To8 : Bool
  bits14To12 : Bool
  deriving DecidableEq, Repr

/-- The HDM decoder capability reported (R258). -/
def hdmCapability : HdmCapability :=
  { decoders := 4, ways := [1, 2, 3, 4, 6, 8, 12, 16], granularities := [256, 512, 1024, 2048, 4096, 8192, 16384],
    bits11To8 := true, bits14To12 := true }

end Sys2Proof.Machine
end

