-- ==== Sys2Proof/Machine/RegCmds.lean ====
section
/-! DEFINITION. Register accesses from outside (R9, R78, R318, R334, R402, R415 to R417, R424, R430 to R435). -/

namespace Sys2Proof.Machine

/-- One host write of a register word. -/
def hostWord (off : Nat) (data : Word) (s : State) : Host.Outcome State Fault Refusal :=
  onBoth (writeAccess .host off 4 (data.setWidth 64)) s

/-- REC_CLEAR_MASK_WRITE (R334). -/
def execRecClearMaskWrite (mask : Word) (s : State) : Host.Outcome State Fault Refusal := hostWord 0x40008 mask s

/-- CEIL_CTL_CLEAR (R78). -/
def execCeilCtlClear (s : State) : Host.Outcome State Fault Refusal := hostWord 0x80E00 1 s

/-- REARM (R318): FLT_FE_SEL.rearm with the source selected kept. -/
def execRearm (s : State) : Host.Outcome State Fault Refusal :=
  onBoth (fun c d => writeAccess .host 0x30800 4 (((crGet c 0x30800) ||| 0x100).setWidth 64) c d) s

/-- A write of PMU_CTL: the freeze bit given, and the write-only bits given (R424). -/
def writePmuCtl (freeze : Bool) (bits : Nat) (c : Ctl) (d : Dp) : Ctl × Dp :=
  writeAccess .host 0x2000000 4 (BitVec.ofNat 64 (b2n freeze + bits)) c d

/-- SNAPSHOT (R416): PMU_CTL.snap, freeze as it is. -/
def execSnapshot (s : State) : Host.Outcome State Fault Refusal := onBoth (fun c d => writePmuCtl (pmuFrozen c) 4 c d) s

/-- PMU_CLEAR (R424): PMU_CTL.clear, freeze as it is. -/
def execPmuClear (s : State) : Host.Outcome State Fault Refusal := onBoth (fun c d => writePmuCtl (pmuFrozen c) 2 c d) s

/-- FREEZE (R415). -/
def execFreeze (on : Bool) (s : State) : Host.Outcome State Fault Refusal := onBoth (writePmuCtl on 0) s

/-- COUNTER_WRITE (R417): an 8-byte write of PMU_CNT_u_n. -/
def execCounterWrite (unit n : Nat) (value : BitVec 48) (s : State) : Host.Outcome State Fault Refusal :=
  onBoth (fun c d =>
    if 24 ≤ unit ∨ 8 ≤ n then (c, d)
    else writeAccess .host (0x2001000 + unit * 0x40 + n * 8) 8 (value.setWidth 64) c d) s

/-- Whether an offset lies in the queue BAR (R247, R271): its 4 MiB stand at 0x280_0000 in the model's numbering of the host's
BARs (log entry 156). -/
def inQueueBar (off : Nat) : Bool := 0x2800000 ≤ off && off < 0x2C00000

/-- A read by a path (R430 to R432): the debug port answers as DBG_ACCESS does, the sideband makes no side effect. The host's
reads of the queue BAR return 0 (R271). -/
def pathRead (p : Path) (off size : Nat) (c : Ctl) (d : Dp) : Ctl × Dp :=
  match p with
  | .debug => debugAccess (.readReg off) c d
  | .sideband => if portOpen p d then (c, emit (.readData (readAccess c p off size d).1) d) else (c, d)
  | _ =>
    if portOpen p d then
      let x := if inQueueBar off then (List.replicate ((size + 3) / 4) 0, d) else readAccess c p off size d
      (c, emit (.readData x.1) x.2)
    else (c, d)

/-- RC_READ (R9): the value read, and the RC fields cleared. -/
def execRcRead (path : Path) (off size : Nat) (s : State) : Host.Outcome State Fault Refusal := onBoth (pathRead path off size) s

/-- LOW_WORD_READ (R431): a 4-byte read, which latches the high word on its path. -/
def execLowWordRead (path : Path) (off : Nat) (s : State) : Host.Outcome State Fault Refusal := onBoth (pathRead path off 4) s

/-- A write by a path (R430, R432): the debug port writes under R402 to R405, the sideband never. -/
def pathWrite (path : Path) (off size : Nat) (data : BitVec 64) (c : Ctl) (d : Dp) : Ctl × Dp :=
  match path with
  | .debug =>
    if !jtagUp d || d.sup.mode = .off then (c, d)
    else if d.sup.mode = .dormant ∨ d.sup.mode = .rise then (c, deny d)
    else if dbgState c d = .sealed then (c, d)
    else if serving d then writeAccess .debug off size data c d
    else (c, deny d)
  | p => writeAccess p off size data c d

/-- REGISTER_WRITE (R430, R432). -/
def execRegisterWrite (path : Path) (off size : Nat) (data : BitVec 64) (s : State) : Host.Outcome State Fault Refusal :=
  onBoth (pathWrite path off size data) s

/-- Whether n words from an offset lie in the 14 windows (R425, R433). -/
def inWindows (off n : Nat) : Bool := off % 4 = 0 && (List.range n).all fun i => inWindow (off + 4 * i)

/-- SIDEBAND_REGISTER_READ (R433): no side effect but the wake from DORMANT (R354). -/
def execSidebandRegisterRead (words off : Nat) (s : State) : Host.Outcome State Fault Refusal :=
  onDp (fun c d =>
    if d.sup.mode = .off then d
    else
      let d1 := dormantExit c .doeOrSideband d
      if words = 0 ∨ 16 < words then emit (.sideband 2 []) d1
      else if !inWindows off words then emit (.sideband 1 []) d1
      else emit (.sideband 0 ((List.range words).map fun i => peek c d true (off + 4 * i))) d1) s

/-- BLOCK_TIMEOUT (R434): the access of a block that does not acknowledge fails and is counted; a read returns all ones,
a write is dropped. -/
def execBlockTimeout (write : Bool) (words : Nat) (s : State) : Host.Outcome State Fault Refusal :=
  onDp (fun _ d =>
    if d.sup.mode = .off then d
    else
      let d1 := { d with glb := { d.glb with accTimeout := satInc 0xFF d.glb.accTimeout } }
      if write then d1 else emit (.readData (List.replicate words 0xFFFFFFFF)) d1) s

end Sys2Proof.Machine
end

