-- ==== Sys2Proof/Machine/Security.lean ====
section
/-! DEFINITION. The standard security commands and the erases (R387 to R393). The passphrase fields lie as CXL 3.1 lays
them out (PRESUMED, log entry 17). -/

namespace Sys2Proof.Machine

/-- The 32-byte passphrase field at an offset of the input payload, first byte least significant. -/
def passAt (d : Dp) (off : Nat) : BitVec 256 := packBytes 256 ((List.range 32).map fun i => mboxByte d (off + i))

/-- Whether a passphrase of a kind is right: its verifier is the one page 16 holds (R385). -/
def passOk (master : Bool) (pass : BitVec 256) (d : Dp) : Bool :=
  let r := d.pst.sec
  if master then verifierOf true r.masterSalt pass = r.masterVer else verifierOf false r.userSalt pass = r.userVer

/-- Whether wrong passphrases count in the present state (R389). -/
def passCounts (d : Dp) : Bool := d.sec.st = .locked || d.sec.st = .exhausted

/-- The counts after a wrong passphrase (R389): one less in LOCKED and EXHAUSTED; LOCKED with no user attempt left is
EXHAUSTED. -/
def wrongCount (master : Bool) (d : Dp) : Dp :=
  if !passCounts d then d
  else if master then { d with sec := { d.sec with masterLeft := d.sec.masterLeft - 1 } }
  else
    let n := d.sec.userLeft - 1
    { d with sec := { d.sec with userLeft := n, st := if n = 0 then .exhausted else d.sec.st } }

/-- A wrong passphrase (R389): counted, and answered Incorrect Passphrase at the end of the delay. -/
def wrongPass (master : Bool) (d : Dp) : Dp :=
  let d1 := wrongCount master d
  match d.que.cur with
  | some x => { d1 with que := { d1.que with delayed := some (x, Ret.incorrectPassphrase.code, []) } }
  | none => d1

/-- A right passphrase restores the count of its kind (R389). -/
def rightPass (master : Bool) (d : Dp) : Dp :=
  { d with sec := { d.sec with
    userLeft := if master then d.sec.userLeft else 5
    masterLeft := if master then 5 else d.sec.masterLeft } }

/-- Check the passphrase of a kind at an offset, which counts as one key-engine operation (R421), and go on with what a
right one does; an all-zero one is refused (R389). -/
def withPass (c : Ctl) (master : Bool) (off : Nat) (f : Dp → Dp) (d : Dp) : Dp :=
  let p := passAt d off
  if p = 0 then reject .invalidInput d
  else
    let d1 := pmuCount c 22 0x12 1 d
    if passOk master p d then f (rightPass master d1) else wrongPass master d1

/-- Refuse a command for the security state (R390). -/
def refuseState (d : Dp) : Dp := reject .invalidSecurity d

/-- Get Security State (R390, R389): 4 bytes of flags. -/
def securityFlags (d : Dp) : Nat :=
  b2n d.pst.sec.userSet + 2 * b2n d.pst.sec.masterSet + 4 * b2n (passCounts d) + 8 * b2n (d.sec.st = .frozen) +
    16 * b2n (d.sec.userLeft = 0) + 32 * b2n (d.sec.masterLeft = 0)

/-- GET_SECURITY_STATE (R390). -/
def execGetSecurityState (s : State) : Host.Outcome State Fault Refusal :=
  whenStd 0x4500 (fun _ d => withLen 0 (mailboxReply .success (bytesLe 4 (securityFlags d))) d) s

/-- Set a user passphrase (R385, R387, R390): a new salt and verifier, the media master key wrapped under the new user
KEK, all in one page. -/
def setUser (c : Ctl) (pass : BitVec 256) (d : Dp) : Dp :=
  let x := draw256 d
  let salt := x.1.extractLsb' 0 128
  let d1 := modSec 16 (fun r => { r with userSet := true, userSalt := salt, userVer := verifierOf false salt pass }) x.2
  let d2 := { d1 with sec := { d1.sec with userKek := some (userKekOf salt pass), st := .unlocked } }
  reject .success (pmuCount c 22 0x12 3 (wrapMedia (d.sec.mediaKey.getD 0) d2))

/-- Set a master passphrase (R385, R390). -/
def setMaster (c : Ctl) (pass : BitVec 256) (d : Dp) : Dp :=
  let x := draw256 d
  let salt := x.1.extractLsb' 0 128
  reject .success (pmuCount c 22 0x12 1
    (modSec 16 (fun r => { r with masterSet := true, masterSalt := salt, masterVer := verifierOf true salt pass }) x.2))

/-- SET_PASSPHRASE (R389, R390). -/
def execSetPassphrase (s : State) : Host.Outcome State Fault Refusal :=
  whenStd 0x4501 (fun c d => withLen 0x60 (fun d =>
    let kind := mboxNum d 0 1
    let new := passAt d 0x40
    if 2 ≤ kind then reject .invalidInput d
    else if kind = 0 then
      if d.sec.st ≠ .disabled then refuseState d
      else if new = 0 then reject .invalidInput d
      else if d.pst.sec.masterSet then withPass c true 0x20 (setMaster c new) d else setMaster c new d
    else if d.sec.st ≠ .disabled ∧ d.sec.st ≠ .unlocked then refuseState d
    else if new = 0 then reject .invalidInput d
    else if d.sec.st = .unlocked then withPass c false 0x20 (setUser c new) d else setUser c new d) d) s

/-- Remove the user passphrase: the key is rewrapped under the device KEK (R390). -/
def dropUser (c : Ctl) (d : Dp) : Dp :=
  let d1 := modSec 16 (fun r => { r with userSet := false, userSalt := 0, userVer := 0 }) d
  let d2 := wrapMedia (d.sec.mediaKey.getD 0) d1
  reject .success (pmuCount c 22 0x12 1 { d2 with sec := { d2.sec with userKek := none, st := .disabled } })

/-- DISABLE_PASSPHRASE (R390). -/
def execDisablePassphrase (s : State) : Host.Outcome State Fault Refusal :=
  whenStd 0x4502 (fun c d => withLen 0x40 (fun d =>
    let kind := mboxNum d 0 1
    if 2 ≤ kind then reject .invalidInput d
    else if kind = 0 then
      if d.sec.st ≠ .disabled ∨ !d.pst.sec.masterSet then refuseState d
      else withPass c true 0x20 (fun d =>
        reject .success (modSec 16 (fun r => { r with masterSet := false, masterSalt := 0, masterVer := 0 }) d)) d
    else if d.sec.st ≠ .unlocked then refuseState d
    else withPass c false 0x20 (dropUser c) d) d) s

/-- A right Unlock (R387, R383): the keys are derived, and what is held under them is merged. -/
def unlockRight (c : Ctl) (pass : BitVec 256) (d : Dp) : Dp :=
  let kek := userKekOf d.pst.sec.userSalt pass
  let key := match d.pst.sec.wrapped with
    | some w => keyUnwrap kek w
    | none => none
  let d1 := { d with sec := { d.sec with st := .unlocked, userKek := some kek, mediaKey := key } }
  let d2 := if d1.sec.heldSectors = [] then d1 else addWork 2 .mergeHeld d1
  reject .success (pmuCount c 22 0x12 2 d2)

/-- A failed Unlock (R389): counted, spread counter 7 and UNLOCK_FAIL besides. -/
def unlockWrong (c : Ctl) (d : Dp) : Ctl × Dp :=
  let d1 := wrongPass false d
  (cntInc 7 c, raise 0x68 0x3D 0 d1.sec.userLeft 0x09 noAccess d1)

/-- Unlock (R390): only in LOCKED. -/
def unlockCmd (c : Ctl) (d : Dp) : Ctl × Dp :=
  let p := passAt d 0
  if !stdInHand d 0x4503 || d.que.delayed.isSome then (c, d)
  else if d.que.mboxLen ≠ 0x20 then (c, reject .invalidLength d)
  else if d.sec.st ≠ .locked then (c, refuseState d)
  else if p = 0 then (c, reject .invalidInput d)
  else
    let d1 := pmuCount c 22 0x12 1 d
    if passOk false p d then (c, unlockRight c p (rightPass false d1)) else unlockWrong c d1

/-- UNLOCK. -/
def execUnlock (s : State) : Host.Outcome State Fault Refusal := onBoth unlockCmd s

/-- PASSPHRASE_DELAY_END (R389): the command with the wrong passphrase completes, 1 s after its take-up. -/
def execPassphraseDelayEnd (s : State) : Host.Outcome State Fault Refusal :=
  onDp (fun _ d => match d.que.delayed with
    | some _ => reject .incorrectPassphrase { d with que := { d.que with delayed := none } }
    | none => d) s

/-- FREEZE_SECURITY_STATE (R390). -/
def execFreezeSecurityState (s : State) : Host.Outcome State Fault Refusal :=
  whenStd 0x4504 (fun _ d => withLen 0 (fun d =>
    match d.sec.st with
    | .locked => refuseState d
    | .exhausted => refuseState d
    | .disabled => reject .success { d with sec := { d.sec with st := .frozen } }
    | .unlocked => reject .success { d with sec := { d.sec with st := .frozen } }
    | .frozen => reject .success d) d) s

/-- Begin an erase (R392 step 1), a background operation. Its key wraps are counted here: one, or two with a new placement
key. -/
def beginErase (c : Ctl) (op : BitVec 16) (kind : BitVec 2) (d : Dp) : Dp :=
  eraseAdvance (pmuCount c 22 0x12 (if kind = 3 then 2 else 1) <| startBackground op 0 0 { d with sec := { d.sec with erase := true, eraseCommitted := false, eraseKind := kind } })

/-- Whether Passphrase Secure Erase takes a passphrase of a kind in the present state (R390). -/
def pseAllows (master : Bool) (d : Dp) : Bool :=
  match d.sec.st with
  | .disabled => master && d.pst.sec.masterSet
  | .unlocked => !master || d.pst.sec.masterSet
  | .locked => !master || d.pst.sec.masterSet
  | .frozen => false
  | .exhausted => master && d.pst.sec.masterSet && decide (0 < d.sec.masterLeft)

/-- PASSPHRASE_SECURE_ERASE (R390, R392). -/
def execPassphraseSecureErase (s : State) : Host.Outcome State Fault Refusal :=
  whenStd 0x4505 (fun c d => unlessBusy (withLen 0x40 (fun d =>
    let kind := mboxNum d 0 1
    let master : Bool := kind = 0
    if 2 ≤ kind then reject .invalidInput d
    else if !pseAllows master d then refuseState d
    else withPass c master 0x20 (beginErase c 0x4505 2) d)) d) s

/-- An erase that needs no passphrase: only in DISABLED and UNLOCKED (R390). -/
def eraseCmd (c : Ctl) (op : BitVec 16) (kind : BitVec 2) (d : Dp) : Dp :=
  unlessBusy (withLen 0 (fun d =>
    if d.sec.st ≠ .disabled ∧ d.sec.st ≠ .unlocked then refuseState d else beginErase c op kind d)) d

/-- SANITIZE (R390, R392). -/
def execSanitize (s : State) : Host.Outcome State Fault Refusal := whenStd 0x4400 (fun c d => eraseCmd c 0x4400 3 d) s

/-- SECURE_ERASE (R390, R392). -/
def execSecureErase (s : State) : Host.Outcome State Fault Refusal := whenStd 0x4401 (fun c d => eraseCmd c 0x4401 1 d) s

/-- ERASE_CURSOR_WRITE (R392 step 6): page 16's cursor is the lowest row not yet finished in every stripe set. -/
def execEraseCursorWrite (s : State) : Host.Outcome State Fault Refusal :=
  onDp (fun _ d =>
    if d.sec.erase && d.sec.eraseCommitted && d.sec.eraseKind = 3 && serving d then
      modSec 16 (fun r => { r with cursor := eraseLow d }) d
    else d) s

end Sys2Proof.Machine
end

