-- ==== Sys2Proof/Machine/Dispatch.lean ====
section
/-! DEFINITION. The dispatch of a command to its meaning: one arm per row of the operations and events table. -/

namespace Sys2Proof.Machine

def exec (i : Instr) (s : State) : Host.Outcome State Fault Refusal :=
  match i with
  | .memrd hpa ecc mapEcc => Sys2Proof.Machine.execMemrd hpa ecc mapEcc s
  | .memspecrd hpa => Sys2Proof.Machine.execMemspecrd hpa s
  | .meminv hpa => Sys2Proof.Machine.execMeminv hpa s
  | .memwr hpa data poison ecc => Sys2Proof.Machine.execMemwr hpa data poison ecc s
  | .memwrptl hpa data enables poison ecc => Sys2Proof.Machine.execMemwrptl hpa data enables poison ecc s
  | .otherOpcode rwd => Sys2Proof.Machine.execOtherOpcode rwd s
  | .mappingReadReturn tag err => Sys2Proof.Machine.execMappingReadReturn tag err s
  | .mapEntryRestore page => Sys2Proof.Machine.execMapEntryRestore page s
  | .sectorReturn tag raw inner crc => Sys2Proof.Machine.execSectorReturn tag raw inner crc s
  | .codewordReturn tag raw => Sys2Proof.Machine.execCodewordReturn tag raw s
  | .reconstruction tag peers => Sys2Proof.Machine.execReconstruction tag peers s
  | .absentBurst chan tag => Sys2Proof.Machine.execAbsentBurst chan tag s
  | .readyFrame chan warp frame tprgNs => Sys2Proof.Machine.execReadyFrame chan warp frame tprgNs s
  | .programmeOverrun chan set => Sys2Proof.Machine.execProgrammeOverrun chan set s
  | .resetOverrun chan set => Sys2Proof.Machine.execResetOverrun chan set s
  | .alertN chan => Sys2Proof.Machine.execAlertN chan s
  | .stsResponse chan warp resp low => Sys2Proof.Machine.execStsResponse chan warp resp low s
  | .tmpResponse chan warp resp => Sys2Proof.Machine.execTmpResponse chan warp resp s
  | .programmingRight set => Sys2Proof.Machine.execProgrammingRight set s
  | .programmingRightHoldEnd set => Sys2Proof.Machine.execProgrammingRightHoldEnd set s
  | .issuePortDecision chan hbm => Sys2Proof.Machine.execIssuePortDecision chan hbm s
  | .watchdog chan => Sys2Proof.Machine.execWatchdog chan s
  | .mergeHoldExpiry entry held => Sys2Proof.Machine.execMergeHoldExpiry entry held s
  | .readModifyWriteReturn entry raw peers => Sys2Proof.Machine.execReadModifyWriteReturn entry raw peers s
  | .deltaAgeExpiry stripe => Sys2Proof.Machine.execDeltaAgeExpiry stripe s
  | .oldParityReadReturn stripe raw members ecc => Sys2Proof.Machine.execOldParityReadReturn stripe raw members ecc s
  | .cleaner held => Sys2Proof.Machine.execCleaner held s
  | .streamEnd tracker => Sys2Proof.Machine.execStreamEnd tracker s
  | .copyWriteAcknowledged page copyB => Sys2Proof.Machine.execCopyWriteAcknowledged page copyB s
  | .changeStripeBufferWrite ecc => Sys2Proof.Machine.execChangeStripeBufferWrite ecc s
  | .checkpointStripe => Sys2Proof.Machine.execCheckpointStripe s
  | .stripeRelease stripe => Sys2Proof.Machine.execStripeRelease stripe s
  | .backgroundWork hbm => Sys2Proof.Machine.execBackgroundWork hbm s
  | .rewriteCopyReturn page raw peers => Sys2Proof.Machine.execRewriteCopyReturn page raw peers s
  | .tillingMove page => Sys2Proof.Machine.execTillingMove page s
  | .horizonTick => Sys2Proof.Machine.execHorizonTick s
  | .harrowReadReturn chan raw peers => Sys2Proof.Machine.execHarrowReadReturn chan raw peers s
  | .harrowOverLimit => Sys2Proof.Machine.execHarrowOverLimit s
  | .rebuildCursorWrite => Sys2Proof.Machine.execRebuildCursorWrite s
  | .fallowEntry => Sys2Proof.Machine.execFallowEntry s
  | .rctAgeExpiry => Sys2Proof.Machine.execRctAgeExpiry s
  | .refreshSlot pc delayNs => Sys2Proof.Machine.execRefreshSlot pc delayNs s
  | .activationTableClear => Sys2Proof.Machine.execActivationTableClear s
  | .pacingEnd pc requester => Sys2Proof.Machine.execPacingEnd pc requester s
  | .hbmCaParity pc => Sys2Proof.Machine.execHbmCaParity pc s
  | .vddAuxApplied sensor31 => Sys2Proof.Machine.execVddAuxApplied sensor31 s
  | .riseStart errs => Sys2Proof.Machine.execRiseStart errs s
  | .railOnStep rail => Sys2Proof.Machine.execRailOnStep rail s
  | .powerGoodWindowEnd rail pg => Sys2Proof.Machine.execPowerGoodWindowEnd rail pg s
  | .isolationRelease straps refclk => Sys2Proof.Machine.execIsolationRelease straps refclk s
  | .hbmTraining lanes ms bad => Sys2Proof.Machine.execHbmTraining lanes ms bad s
  | .hbmFill => Sys2Proof.Machine.execHbmFill s
  | .firmwareVerify a b => Sys2Proof.Machine.execFirmwareVerify a b s
  | .mediaTraining found => Sys2Proof.Machine.execMediaTraining found s
  | .mappingRebuild reads => Sys2Proof.Machine.execMappingRebuild reads s
  | .replay members bad => Sys2Proof.Machine.execReplay members bad s
  | .reanchor reads => Sys2Proof.Machine.execReanchor reads s
  | .riseComplete => Sys2Proof.Machine.execRiseComplete s
  | .pwrFailNAsserted => Sys2Proof.Machine.execPwrFailNAsserted s
  | .drainLog held => Sys2Proof.Machine.execDrainLog held s
  | .sealRecord verified => Sys2Proof.Machine.execSealRecord verified s
  | .pwrFailNDeasserted => Sys2Proof.Machine.execPwrFailNDeasserted s
  | .mrN high => Sys2Proof.Machine.execMrN high s
  | .svcBtnPress => Sys2Proof.Machine.execSvcBtnPress s
  | .svcBtnRelease heldMs => Sys2Proof.Machine.execSvcBtnRelease heldMs s
  | .svcBtnHeld8s => Sys2Proof.Machine.execSvcBtnHeld8s s
  | .perstNAsserted => Sys2Proof.Machine.execPerstNAsserted s
  | .perstNDeasserted => Sys2Proof.Machine.execPerstNDeasserted s
  | .vddAuxLost vhold cut => Sys2Proof.Machine.execVddAuxLost vhold cut s
  | .railFault rail => Sys2Proof.Machine.execRailFault rail s
  | .drainDeadline => Sys2Proof.Machine.execDrainDeadline s
  | .offStep rail => Sys2Proof.Machine.execOffStep rail s
  | .railOffCheck rail pg => Sys2Proof.Machine.execRailOffCheck rail pg s
  | .powerDownRecord => Sys2Proof.Machine.execPowerDownRecord s
  | .thermalLatchClear sensor31 => Sys2Proof.Machine.execThermalLatchClear sensor31 s
  | .d3hot => Sys2Proof.Machine.execD3hot s
  | .returnToD0 => Sys2Proof.Machine.execReturnToD0 s
  | .dormantEntry permits => Sys2Proof.Machine.execDormantEntry permits s
  | .dormantExit trigger => Sys2Proof.Machine.execDormantExit trigger s
  | .dormantExitComplete => Sys2Proof.Machine.execDormantExitComplete s
  | .zoneUpdate readings => Sys2Proof.Machine.execZoneUpdate readings s
  | .thermTripN => Sys2Proof.Machine.execThermTripN s
  | .throttleEvaluation => Sys2Proof.Machine.execThrottleEvaluation s
  | .proxyHoldEnd => Sys2Proof.Machine.execProxyHoldEnd s
  | .speedMeasurement zone factor => Sys2Proof.Machine.execSpeedMeasurement zone factor s
  | .vcoreStep => Sys2Proof.Machine.execVcoreStep s
  | .avsReadback mv => Sys2Proof.Machine.execAvsReadback mv s
  | .heartbeat mp err => Sys2Proof.Machine.execHeartbeat mp err s
  | .heartbeatLost mp reload => Sys2Proof.Machine.execHeartbeatLost mp reload s
  | .firmwareReload mp a b => Sys2Proof.Machine.execFirmwareReload mp a b s
  | .faultMessage source parityOk => Sys2Proof.Machine.execFaultMessage source parityOk s
  | .log => Sys2Proof.Machine.execLog s
  | .poison => Sys2Proof.Machine.execPoison s
  | .retire => Sys2Proof.Machine.execRetire s
  | .msgDropped source => Sys2Proof.Machine.execMsgDropped source s
  | .recFold => Sys2Proof.Machine.execRecFold s
  | .coreSample => Sys2Proof.Machine.execCoreSample s
  | .bandwidthWindowEnd => Sys2Proof.Machine.execBandwidthWindowEnd s
  | .channelPublish => Sys2Proof.Machine.execChannelPublish s
  | .linkTraining rate width flit tries => Sys2Proof.Machine.execLinkTraining rate width flit tries s
  | .flitReplay => Sys2Proof.Machine.execFlitReplay s
  | .linkRecovery => Sys2Proof.Machine.execLinkRecovery s
  | .integrityCheckFailure pcie reads writes => Sys2Proof.Machine.execIntegrityCheckFailure pcie reads writes s
  | .flr => Sys2Proof.Machine.execFlr s
  | .hotReset => Sys2Proof.Machine.execHotReset s
  | .refclkLoss => Sys2Proof.Machine.execRefclkLoss s
  | .gpfPhase1 => Sys2Proof.Machine.execGpfPhase1 s
  | .gpfPhase2 => Sys2Proof.Machine.execGpfPhase2 s
  | .busMasterEnable on => Sys2Proof.Machine.execBusMasterEnable on s
  | .vectorUnmask vector => Sys2Proof.Machine.execVectorUnmask vector s
  | .s2mCreditReturn drs ndr => Sys2Proof.Machine.execS2mCreditReturn drs ndr s
  | .decoderCommit n base size iw ig skip lock => Sys2Proof.Machine.execDecoderCommit n base size iw ig skip lock s
  | .decoderCommitClear n => Sys2Proof.Machine.execDecoderCommitClear n s
  | .doeDiscovery index => Sys2Proof.Machine.execDoeDiscovery index s
  | .cdatTableAccess => Sys2Proof.Machine.execCdatTableAccess s
  | .getMeasurements req => Sys2Proof.Machine.execGetMeasurements req s
  | .getCertificate slot offset length => Sys2Proof.Machine.execGetCertificate slot offset length s
  | .setCertificate slot => Sys2Proof.Machine.execSetCertificate slot s
  | .keySetGo pcie set tx => Sys2Proof.Machine.execKeySetGo pcie set tx s
  | .keySetStop pcie set tx => Sys2Proof.Machine.execKeySetStop pcie set tx s
  | .dataWords queue off bytes words ep => Sys2Proof.Machine.execDataWords queue off bytes words ep s
  | .begin queue bytes w ep => Sys2Proof.Machine.execBegin queue bytes w ep s
  | .endWord queue bytes w ep => Sys2Proof.Machine.execEndWord queue bytes w ep s
  | .beginAndEnd queue bytes w ep => Sys2Proof.Machine.execBeginAndEnd queue bytes w ep s
  | .queueReset queue => Sys2Proof.Machine.execQueueReset queue s
  | .queueEnable queue en => Sys2Proof.Machine.execQueueEnable queue en s
  | .takeUp ecc => Sys2Proof.Machine.execTakeUp ecc s
  | .nop => Sys2Proof.Machine.execNop s
  | .identify => Sys2Proof.Machine.execIdentify s
  | .getTime => Sys2Proof.Machine.execGetTime s
  | .hltSummary => Sys2Proof.Machine.execHltSummary s
  | .hltLostList => Sys2Proof.Machine.execHltLostList s
  | .hltTemps => Sys2Proof.Machine.execHltTemps s
  | .hltUnits => Sys2Proof.Machine.execHltUnits s
  | .mmCacheOp => Sys2Proof.Machine.execMmCacheOp s
  | .clean => Sys2Proof.Machine.execClean s
  | .invalidate => Sys2Proof.Machine.execInvalidate s
  | .cleanAndInvalidate => Sys2Proof.Machine.execCleanAndInvalidate s
  | .lock raw peers => Sys2Proof.Machine.execLock raw peers s
  | .unlockLine => Sys2Proof.Machine.execUnlockLine s
  | .zeroLine => Sys2Proof.Machine.execZeroLine s
  | .mmHbmHardRepair => Sys2Proof.Machine.execMmHbmHardRepair s
  | .mmHarrowRestart => Sys2Proof.Machine.execMmHarrowRestart s
  | .mmRetireList => Sys2Proof.Machine.execMmRetireList s
  | .mmIsolate => Sys2Proof.Machine.execMmIsolate s
  | .pstRead ecc => Sys2Proof.Machine.execPstRead ecc s
  | .pstWrite => Sys2Proof.Machine.execPstWrite s
  | .pstCommit => Sys2Proof.Machine.execPstCommit s
  | .cntRead => Sys2Proof.Machine.execCntRead s
  | .cntInc => Sys2Proof.Machine.execCntInc s
  | .cfgValidate => Sys2Proof.Machine.execCfgValidate s
  | .recSampleNow => Sys2Proof.Machine.execRecSampleNow s
  | .recReadSample => Sys2Proof.Machine.execRecReadSample s
  | .recHist => Sys2Proof.Machine.execRecHist s
  | .recClear => Sys2Proof.Machine.execRecClear s
  | .recClearMaskWrite mask => Sys2Proof.Machine.execRecClearMaskWrite mask s
  | .secState => Sys2Proof.Machine.execSecState s
  | .secKeyslotBind => Sys2Proof.Machine.execSecKeyslotBind s
  | .fwState => Sys2Proof.Machine.execFwState s
  | .fwSelect => Sys2Proof.Machine.execFwSelect s
  | .pmuUserEn => Sys2Proof.Machine.execPmuUserEn s
  | .pmuUserDis => Sys2Proof.Machine.execPmuUserDis s
  | .pmuSamples => Sys2Proof.Machine.execPmuSamples s
  | .dbgChallenge => Sys2Proof.Machine.execDbgChallenge s
  | .dbgResponse => Sys2Proof.Machine.execDbgResponse s
  | .nonceExpiry => Sys2Proof.Machine.execNonceExpiry s
  | .dbgClose => Sys2Proof.Machine.execDbgClose s
  | .dbgReturn => Sys2Proof.Machine.execDbgReturn s
  | .modeGet => Sys2Proof.Machine.execModeGet s
  | .modeDormant => Sys2Proof.Machine.execModeDormant s
  | .modeFallowEnter => Sys2Proof.Machine.execModeFallowEnter s
  | .modeFallowExit => Sys2Proof.Machine.execModeFallowExit s
  | .modeDrainOff => Sys2Proof.Machine.execModeDrainOff s
  | .identifyGenericComponent => Sys2Proof.Machine.execIdentifyGenericComponent s
  | .getEventRecords => Sys2Proof.Machine.execGetEventRecords s
  | .clearEventRecords => Sys2Proof.Machine.execClearEventRecords s
  | .getEventInterruptPolicy => Sys2Proof.Machine.execGetEventInterruptPolicy s
  | .setEventInterruptPolicy => Sys2Proof.Machine.execSetEventInterruptPolicy s
  | .getFwInfo => Sys2Proof.Machine.execGetFwInfo s
  | .transferFw => Sys2Proof.Machine.execTransferFw s
  | .activateFw => Sys2Proof.Machine.execActivateFw s
  | .getTimestamp => Sys2Proof.Machine.execGetTimestamp s
  | .setTimestamp => Sys2Proof.Machine.execSetTimestamp s
  | .getSupportedLogs => Sys2Proof.Machine.execGetSupportedLogs s
  | .getLog => Sys2Proof.Machine.execGetLog s
  | .identifyMemoryDevice => Sys2Proof.Machine.execIdentifyMemoryDevice s
  | .getPartitionInfo => Sys2Proof.Machine.execGetPartitionInfo s
  | .setPartitionInfo => Sys2Proof.Machine.execSetPartitionInfo s
  | .getLsa => Sys2Proof.Machine.execGetLsa s
  | .setLsa => Sys2Proof.Machine.execSetLsa s
  | .getHealthInfo => Sys2Proof.Machine.execGetHealthInfo s
  | .getAlertConfiguration => Sys2Proof.Machine.execGetAlertConfiguration s
  | .setAlertConfiguration => Sys2Proof.Machine.execSetAlertConfiguration s
  | .getShutdownState => Sys2Proof.Machine.execGetShutdownState s
  | .setShutdownState => Sys2Proof.Machine.execSetShutdownState s
  | .getPoisonList => Sys2Proof.Machine.execGetPoisonList s
  | .injectPoison => Sys2Proof.Machine.execInjectPoison s
  | .clearPoison => Sys2Proof.Machine.execClearPoison s
  | .getScanMediaCapabilities => Sys2Proof.Machine.execGetScanMediaCapabilities s
  | .scanMedia => Sys2Proof.Machine.execScanMedia s
  | .getScanMediaResults => Sys2Proof.Machine.execGetScanMediaResults s
  | .sanitize => Sys2Proof.Machine.execSanitize s
  | .secureErase => Sys2Proof.Machine.execSecureErase s
  | .eraseCursorWrite => Sys2Proof.Machine.execEraseCursorWrite s
  | .getSecurityState => Sys2Proof.Machine.execGetSecurityState s
  | .setPassphrase => Sys2Proof.Machine.execSetPassphrase s
  | .disablePassphrase => Sys2Proof.Machine.execDisablePassphrase s
  | .unlock => Sys2Proof.Machine.execUnlock s
  | .passphraseDelayEnd => Sys2Proof.Machine.execPassphraseDelayEnd s
  | .freezeSecurityState => Sys2Proof.Machine.execFreezeSecurityState s
  | .passphraseSecureErase => Sys2Proof.Machine.execPassphraseSecureErase s
  | .ceilCtlClear => Sys2Proof.Machine.execCeilCtlClear s
  | .rearm => Sys2Proof.Machine.execRearm s
  | .snapshot => Sys2Proof.Machine.execSnapshot s
  | .pmuClear => Sys2Proof.Machine.execPmuClear s
  | .freeze on => Sys2Proof.Machine.execFreeze on s
  | .counterWrite unit n value => Sys2Proof.Machine.execCounterWrite unit n value s
  | .rcRead path off size => Sys2Proof.Machine.execRcRead path off size s
  | .lowWordRead path off => Sys2Proof.Machine.execLowWordRead path off s
  | .registerWrite path off size data => Sys2Proof.Machine.execRegisterWrite path off size data s
  | .sidebandRegisterRead words off => Sys2Proof.Machine.execSidebandRegisterRead words off s
  | .blockTimeout write words => Sys2Proof.Machine.execBlockTimeout write words s
  | .idcode => Sys2Proof.Machine.execIdcode s
  | .bypass => Sys2Proof.Machine.execBypass s
  | .samplePreload => Sys2Proof.Machine.execSamplePreload s
  | .extest => Sys2Proof.Machine.execExtest s
  | .extestExit => Sys2Proof.Machine.execExtestExit s
  | .dbgAccess op => Sys2Proof.Machine.execDbgAccess op s
  | .writeEyeCheck chan warp drift => Sys2Proof.Machine.execWriteEyeCheck chan warp drift s
  | .tmpPeriod chan => Sys2Proof.Machine.execTmpPeriod chan s
  | .refclkReturn => Sys2Proof.Machine.execRefclkReturn s
  | .creditPacingInterval => Sys2Proof.Machine.execCreditPacingInterval s
  | .progressTick chan => Sys2Proof.Machine.execProgressTick chan s
  | .keyEx => Sys2Proof.Machine.execKeyEx s
  | .ideKm msg => Sys2Proof.Machine.execIdeKm msg s

end Sys2Proof.Machine
end

