-- ==== Sys2Proof/Machine/Tick.lean ====
section
/-! DEFINITION. What the block does of its own accord in 1 ns while no command waits (log entry 1): its clocks run (R14,
R17), the monitor counts ticks (R411, R412), the recorder takes its periodic samples (R331), and work that waited only
for its conditions goes on. Every other timed event is a row of the table, taken when it is sent (log entry 14). -/

namespace Sys2Proof.Machine

/-- The "ns with" conditions of R412 that hold now, as unit and code. The contested resolutions of
mutexes that `tickPmu` counts lie below the model's grain: free values (R26, R412; log entry 121). -/
def tickEvents (c : Ctl) (d : Dp) : List (Nat × Nat) :=
  (if d.hif.withheld then [(0, 0x1E)] else []) ++ (if 0 < d.thm.cut then [(0, 0x1F)] else []) ++
    ((List.range 17).filter fun k => dqReserved d k).map (fun k => (k + 1, 0x1A)) ++
    (if d.mrg.deltas.length = 6144 then [(19, 0x1A)] else []) ++
    (if d.hbm.queue.any fun e => 8 ≤ places d e.pc then [(20, 0x18)] else []) ++
    (if d.fab.setPoint < vset c then [(21, 0x11)] else []) ++ (if d.thm.guard then [(21, 0x12)] else [])

/-- One tick of the monitor (R411, R412). -/
def tickPmu (c : Ctl) (d : Dp) : Dp :=
  if pmuFrozen c then d
  else
    ((List.range 24).map (fun u => (u, 1)) ++ tickEvents c d).foldl (fun (d : Dp) (e : Nat × Nat) => pmuTicks c e.1 e.2 1 d)
      (pmuCount c 18 0x18 (Config.freeValue 98 d.now.toNat).toNat (pmuCount c 21 0x10 (Config.freeValue 99 d.now.toNat).toNat
        { d with pmu := { d.pmu with time := d.pmu.time + 1 } }))

/-- The bucket of a zone's temperature, in units of 0.25 °C (R331). -/
def zoneBucket (t : Int) : Nat := if t < 120 then 0 else min 15 (1 + ((t - 120) / 20).toNat)

/-- The bucket of a number of corrected errors (R331). -/
def errorBucket (n : Nat) : Nat := if n = 0 then 0 else min 15 (Nat.log2 n + 1)

/-- The zone samples of every 100 ms (R331). -/
def sampleZones (d : Dp) : Dp :=
  (List.range 10).foldl (fun d z =>
    let x := d.thm.zones.getD z {}
    if x.valid || x.proxy then recHist (19 + z) (zoneBucket x.value.toInt) x.value.toInt d else d) d

/-- The corrected errors of a 1 s interval (R331). -/
def sampleErrors (d : Dp) : Dp :=
  let d1 := recHist 31 (errorBucket d.rec_.corrSecond) d.rec_.corrSecond d
  { d1 with rec_ := { d1.rec_ with corrSecond := 0 } }

/-- The recorder's own samples at multiples of 100 ms and 1 s of the timebase (R331); in DORMANT the recorder is idle
(R14, R353). -/
def tickSamples (d : Dp) : Dp :=
  if !fabricLive d || d.sup.mode = .dormant then d
  else
    let n := d.now.toNat
    Dp.when (n % 1000000000 = 0) sampleErrors (Dp.when (n % 100000000 = 0) sampleZones d)

/-- The message network (R315): the oldest message of a source's output queue crosses to the collector's input queue of 512
while that has room. -/
def crossMsg (d : Dp) (src : Nat) : Dp :=
  match smGet [] d.flt.outq src with
  | [] => d
  | m :: rest =>
    if d.flt.inq.length < 512 then
      { d with flt := { d.flt with inq := d.flt.inq ++ [m], outq := smSet [] d.flt.outq src rest } }
    else d

/-- One step of the message network: every link carries one message. In DORMANT it is idle (R353). -/
def tickNetwork (d : Dp) : Dp := if d.sup.mode = .dormant then d else d.flt.outq.foldl (fun d e => crossMsg d e.1) d

/-- A part of a firmware transfer is done (R266). -/
def tickTransfer (d : Dp) : Dp :=
  match d.que.bg with
  | some b => if b.opcode = 0x0201 then endBackground d else d
  | none => d

/-- Work that waited only for its conditions: the warm RISE of PERST_N, DBG_RETURN, an erase, a maintenance request, Scan
Media, a transfer, the store, the record of refused writes. -/
def tickWork (c : Ctl) (d : Dp) : Ctl × Dp :=
  let x := tryWarmRise c d
  let y := returnAdvance x.1 x.2
  let d1 := scanNext y.1 (mntSettle y.1 (eraseAdvance (hbmRuns y.1 (storeRuns y.1 y.2))))
  (y.1, gpfSettle (refusedRecord y.1 (tickTransfer d1)))

/-- The clocks of the block (R14): the supervisor's while VDD_AUX is present, the timebase except in OFF. -/
def tickClocks (d : Dp) : Dp :=
  { d with now := if d.sup.mode = .off then d.now else d.now + 1
           sup := { d.sup with clock := d.sup.clock + 1 } }

/-- One tick of 1 ns. -/
def tick (s : State) : State :=
  let d := s.dp
  if !d.sup.aux then s
  else if d.sup.mode = .off then
    let x := countRuns s.ctl (tickClocks d)
    { s with ctl := x.1, dp := x.2 }
  else
    let y := countRuns s.ctl (tickClocks d)
    let x := tickWork y.1 (tickNetwork <| tickSamples (tickPmu y.1 y.2))
    { s with ctl := x.1, dp := x.2 }

end Sys2Proof.Machine
end

