-- ==== Sys2Proof/WellFormed.lean ====
section
/-! DEFINITION. Well-formed commands: every number that names a part of the block names one it has (R33, R411, R425, R463).
A command that is not well-formed has a meaning all the same: it changes nothing, or answers as the spec says a request
for a thing that is not there is answered. -/

namespace Sys2Proof

/-- A media channel, MC_0 to MC_16. -/
def chanOk (k : Nat) : Bool := k < 17

/-- A warp position. -/
def warpOk (w : Nat) : Bool := w < 4

/-- A stripe set: a warp and one of 32 partitions. -/
def setOk (s : Nat) : Bool := s < 128

/-- A rail of R344. -/
def railOk (r : Nat) : Bool := r < 12

/-- A management processor. -/
def mpOk (m : Nat) : Bool := m < 4

/-- A command queue. -/
def queueOk (k : Nat) : Bool := k < 64

/-- An HBM pseudo-channel. -/
def pcOk (p : Nat) : Bool := p < 32

/-- An MSI-X vector. -/
def vectorOk (v : Nat) : Bool := v < 96

/-- The codeword images of a stripe, or those of the other members. -/
def imagesOk (l : List Image) : Bool := l.length ≤ 17

/-- The codewords of a stripe that one command brings as they arrived: at most its 17 members (R33). -/
def burstsOk (l : List Burst) : Bool := l.length ≤ 17

/-- An HDM decoder (R259). -/
def decoderOk (n : Nat) : Bool := n < 4

/-- A programmable counter (R411). -/
def counterOk (u n : Nat) : Bool := u < 24 && n < 8

/-- An offset of the control BAR or, from 0x200_0000, of the PMU BAR (R410, R425). -/
def offsetOk (off : Nat) : Bool := off < 0x2010000

/-- An offset the host reads: of the control, the PMU or the queue BAR, which stands at 0x280_0000 (R247, R271). -/
def readOffsetOk (off : Nat) : Bool := offsetOk off || (0x2800000 ≤ off && off < 0x2C00000)

/-- The size of an access in bytes (R430). -/
def sizeOk (n : Nat) : Bool := 1 ≤ n && n ≤ 64

/-- A number of 32-bit words of one access. -/
def wordsOk (n : Nat) : Bool := 1 ≤ n && n ≤ 16

/-- Sensor readings: of the sensors 0 to 104 (R364). -/
def readingsOk (l : List Reading) : Bool := l.all fun r => decide (r.sensor < 105)

/-- A ring-oscillator zone (R25). -/
def speedOk (z : Nat) : Bool := z < 8

/-- What training finds: 17 channels of at most four packages (R234). -/
def trainOk (l : List ChanTrain) : Bool := decide (l.length = 17) && l.all fun x => decide (x.pkgs.length ≤ 4)

/-- An access of the fabric debug port. -/
def dbgOpOk : DbgOp → Bool
  | .halt m => mpOk m
  | .step m => mpOk m
  | .resume m => mpOk m
  | .readReg off => offsetOk off
  | .writeReg off _ => offsetOk off
  | .readHostData _ _ => true
  | .readSram _ _ => true
  | .readHbm n => decide (n < 1207959552)
  | .writeFwSram _ _ => true

/-- The outcome of an array's codes names one of its words (R461). -/
def wordEccOk (n : Nat) : WordEcc → Bool
  | .ok => true
  | .corrected w => w < n
  | .uncorrectable w => w < n

/-- What a processor's firmware met names a word of its data (R198, R461). -/
def fwErrOk : Option FwErr → Bool
  | none => true
  | some (.hbm w _) => w < 141393920
  | some (.sram e) => wordEccOk 786432 e

/-- Whether a command is well-formed. -/
def Instr.wf (i : Instr) : Bool :=
  match i with
  | .memrd _ _ _ => true
  | .memspecrd _ => true
  | .meminv _ => true
  | .memwr _ _ _ _ => true
  | .memwrptl _ _ _ _ _ => true
  | .otherOpcode _ => true
  | .mappingReadReturn _ _ => true
  | .mapEntryRestore _ => true
  | .sectorReturn _ _ _ _ => true
  | .codewordReturn _ _ => true
  | .reconstruction _ peers => burstsOk peers
  | .absentBurst chan _ => chanOk chan
  | .readyFrame chan warp _ _ => chanOk chan && warpOk warp
  | .programmeOverrun chan set => chanOk chan && setOk set
  | .resetOverrun chan set => chanOk chan && setOk set
  | .alertN chan => chanOk chan
  | .stsResponse chan warp _ _ => chanOk chan && warpOk warp
  | .tmpResponse chan warp _ => chanOk chan && warpOk warp
  | .programmingRight set => setOk set
  | .programmingRightHoldEnd set => setOk set
  | .issuePortDecision chan _ => chanOk chan
  | .watchdog chan => chanOk chan
  | .mergeHoldExpiry _ _ => true
  | .readModifyWriteReturn _ _ peers => burstsOk peers
  | .deltaAgeExpiry _ => true
  | .oldParityReadReturn _ _ members ecc => burstsOk members && wordEccOk 36 ecc
  | .cleaner _ => true
  | .streamEnd _ => true
  | .copyWriteAcknowledged _ _ => true
  | .changeStripeBufferWrite ecc => wordEccOk 1024 ecc
  | .checkpointStripe => true
  | .stripeRelease _ => true
  | .backgroundWork _ => true
  | .rewriteCopyReturn _ _ peers => burstsOk peers
  | .tillingMove _ => true
  | .horizonTick => true
  | .harrowReadReturn chan _ peers => chanOk chan && burstsOk peers
  | .harrowOverLimit => true
  | .rebuildCursorWrite => true
  | .fallowEntry => true
  | .rctAgeExpiry => true
  | .refreshSlot pc _ => pcOk pc
  | .activationTableClear => true
  | .pacingEnd pc _ => pcOk pc
  | .hbmCaParity pc => pcOk pc
  | .vddAuxApplied _ => true
  | .riseStart errs => errs.all fun e => match e with
    | .group slot g _ => slot < 1920 && g < 17
    | .counter n i _ => n < 32 && i < 64
    | .codeword slot _ _ => slot < 131072
  | .railOnStep rail => railOk rail
  | .powerGoodWindowEnd rail _ => railOk rail
  | .isolationRelease _ _ => true
  | .hbmTraining _ _ _ => true
  | .hbmFill => true
  | .firmwareVerify _ _ => true
  | .mediaTraining found => trainOk found
  | .mappingRebuild reads => reads.all fun r => r.2.length = 17
  | .replay members bad => imagesOk members && bad.all fun x => x.2 < 17
  | .reanchor reads => reads.all fun r => r.length ≤ 32
  | .riseComplete => true
  | .pwrFailNAsserted => true
  | .drainLog _ => true
  | .sealRecord _ => true
  | .pwrFailNDeasserted => true
  | .mrN _ => true
  | .svcBtnPress => true
  | .svcBtnRelease _ => true
  | .svcBtnHeld8s => true
  | .perstNAsserted => true
  | .perstNDeasserted => true
  | .vddAuxLost _ _ => true
  | .railFault rail => railOk rail
  | .drainDeadline => true
  | .offStep rail => railOk rail
  | .railOffCheck rail _ => railOk rail
  | .powerDownRecord => true
  | .thermalLatchClear _ => true
  | .d3hot => true
  | .returnToD0 => true
  | .dormantEntry _ => true
  | .dormantExit _ => true
  | .dormantExitComplete => true
  | .zoneUpdate readings => readingsOk readings
  | .thermTripN => true
  | .throttleEvaluation => true
  | .proxyHoldEnd => true
  | .speedMeasurement zone _ => speedOk zone
  | .vcoreStep => true
  | .avsReadback _ => true
  | .heartbeat mp err => mpOk mp && fwErrOk err
  | .heartbeatLost mp _ => mpOk mp
  | .firmwareReload mp _ _ => mpOk mp
  | .faultMessage _ _ => true
  | .log => true
  | .poison => true
  | .retire => true
  | .msgDropped _ => true
  | .recFold => true
  | .coreSample => true
  | .bandwidthWindowEnd => true
  | .channelPublish => true
  | .linkTraining _ _ _ _ => true
  | .flitReplay => true
  | .linkRecovery => true
  | .integrityCheckFailure _ _ _ => true
  | .flr => true
  | .hotReset => true
  | .refclkLoss => true
  | .gpfPhase1 => true
  | .gpfPhase2 => true
  | .busMasterEnable _ => true
  | .vectorUnmask vector => vectorOk vector
  | .s2mCreditReturn _ _ => true
  | .decoderCommit n _ _ _ _ _ _ => decoderOk n
  | .decoderCommitClear n => decoderOk n
  | .doeDiscovery _ => true
  | .cdatTableAccess => true
  | .getMeasurements _ => true
  | .getCertificate _ _ _ => true
  | .setCertificate _ => true
  | .keySetGo _ _ _ => true
  | .keySetStop _ _ _ => true
  | .dataWords queue _ bytes words _ => queueOk queue && decide (words.length = bytes / 8)
  | .begin queue _ _ _ => queueOk queue
  | .endWord queue _ _ _ => queueOk queue
  | .beginAndEnd queue _ _ _ => queueOk queue
  | .queueReset queue => queueOk queue
  | .queueEnable queue _ => queueOk queue
  | .takeUp _ => true
  | .nop => true
  | .identify => true
  | .getTime => true
  | .hltSummary => true
  | .hltLostList => true
  | .hltTemps => true
  | .hltUnits => true
  | .mmCacheOp => true
  | .clean => true
  | .invalidate => true
  | .cleanAndInvalidate => true
  | .lock _ peers => burstsOk peers
  | .unlockLine => true
  | .zeroLine => true
  | .mmHbmHardRepair => true
  | .mmHarrowRestart => true
  | .mmRetireList => true
  | .mmIsolate => true
  | .pstRead ecc => wordEccOk 131072 ecc
  | .pstWrite => true
  | .pstCommit => true
  | .cntRead => true
  | .cntInc => true
  | .cfgValidate => true
  | .recSampleNow => true
  | .recReadSample => true
  | .recHist => true
  | .recClear => true
  | .recClearMaskWrite _ => true
  | .secState => true
  | .secKeyslotBind => true
  | .fwState => true
  | .fwSelect => true
  | .pmuUserEn => true
  | .pmuUserDis => true
  | .pmuSamples => true
  | .dbgChallenge => true
  | .dbgResponse => true
  | .nonceExpiry => true
  | .dbgClose => true
  | .dbgReturn => true
  | .modeGet => true
  | .modeDormant => true
  | .modeFallowEnter => true
  | .modeFallowExit => true
  | .modeDrainOff => true
  | .identifyGenericComponent => true
  | .getEventRecords => true
  | .clearEventRecords => true
  | .getEventInterruptPolicy => true
  | .setEventInterruptPolicy => true
  | .getFwInfo => true
  | .transferFw => true
  | .activateFw => true
  | .getTimestamp => true
  | .setTimestamp => true
  | .getSupportedLogs => true
  | .getLog => true
  | .identifyMemoryDevice => true
  | .getPartitionInfo => true
  | .setPartitionInfo => true
  | .getLsa => true
  | .setLsa => true
  | .getHealthInfo => true
  | .getAlertConfiguration => true
  | .setAlertConfiguration => true
  | .getShutdownState => true
  | .setShutdownState => true
  | .getPoisonList => true
  | .injectPoison => true
  | .clearPoison => true
  | .getScanMediaCapabilities => true
  | .scanMedia => true
  | .getScanMediaResults => true
  | .sanitize => true
  | .secureErase => true
  | .eraseCursorWrite => true
  | .getSecurityState => true
  | .setPassphrase => true
  | .disablePassphrase => true
  | .unlock => true
  | .passphraseDelayEnd => true
  | .freezeSecurityState => true
  | .passphraseSecureErase => true
  | .ceilCtlClear => true
  | .rearm => true
  | .snapshot => true
  | .pmuClear => true
  | .freeze _ => true
  | .counterWrite unit n _ => counterOk unit n
  | .rcRead _ off size => readOffsetOk off && sizeOk size
  | .lowWordRead _ off => readOffsetOk off
  | .registerWrite _ off size _ => offsetOk off && sizeOk size
  | .sidebandRegisterRead _ _ => true
  | .blockTimeout _ words => wordsOk words
  | .idcode => true
  | .bypass => true
  | .samplePreload => true
  | .extest => true
  | .extestExit => true
  | .dbgAccess op => dbgOpOk op
  | .writeEyeCheck chan warp _ => chanOk chan && warpOk warp
  | .tmpPeriod chan => chanOk chan
  | .refclkReturn => true
  | .creditPacingInterval => true
  | .progressTick chan => chanOk chan
  | .keyEx => true
  | .ideKm _ => true

end Sys2Proof
end

