-- ==== Sys2Proof/Safety.lean ====
section
/-! DEFINITION. What claims are stated in: a step that goes on, the fields under the configuration lock (R10, R437), the
ranges of the registers that clamp, and the canonical form of the register file. -/

namespace Sys2Proof.Machine

/-- The state with another datapath: control fields and queue as they are. -/
def State.withDp (s : State) (d : Dp) : State := { s with dp := d }

/-- A standard mailbox command in MP_1's hands, its input payload of n bytes, not waiting for a delay. -/
def StdReady (d : Dp) (op n : Nat) : Prop := stdInHand d op = true ∧ d.que.delayed = none ∧ d.que.mboxLen = n

/-- A host request may be handled at once: its flit can be acted on, the part is in SERVE and refuses no host data, and a
committed decoder gives the sector. -/
def HostReady (d : Dp) (hpa : BitVec 52) (a : SecAddr) : Prop :=
  memOpen d = true ∧ d.hif.memActive = true ∧ d.sup.mode = .serve ∧ refusing d = false ∧
    (hdmDecode d hpa).map (fun x => dpaSec x.2) = some a

/-- The bits of the RWL fields of the register word at an offset. -/
def rwlMask (off : Nat) : Word :=
  match findReg off with
  | none => 0
  | some h => h.reg.flds.foldl (fun m f => if f.acc = .rwl then m ||| fieldMask h.word f else m) 0

/-- Two control states with the same RWL fields. -/
def SameRwl (c c' : Ctl) : Prop := ∀ off, crGet c' off &&& rwlMask off = crGet c off &&& rwlMask off

/-- The stated ranges of control fields that clamp what is written (R23, R80, R98, R115, R132, R133, R134, R183). -/
def RangesOk (c : Ctl) : Prop :=
  (700 ≤ rg c 0xA0000 0 10 ∧ rg c 0xA0000 0 10 ≤ 900) ∧ 1 ≤ rg c 0xC0840 0 3 ∧
    (4 ≤ rg c 0xC0800 0 6 ∧ rg c 0xC0800 0 6 ≤ 32) ∧ (60 ≤ rg c 0xE0300 0 8 ∧ rg c 0xE0300 0 8 ≤ 240) ∧
    rg c 0xC0030 0 4 ≤ 12 ∧ 1 ≤ rg c 0x10004 0 8

/-- The register file is in its canonical form: offsets rising, no word at its reset value. -/
def CtlWf (c : Ctl) : Prop := c.cr.Pairwise (fun a b => a.1 < b.1) ∧ ∀ e ∈ c.cr, e.2 ≠ resetWord e.1

/-- The offset of word w of instance (i, j) of a register (R428): its base, each index times its stride, four bytes a word. -/
def regAt (r : RegDef) (i j w : Nat) : Nat :=
  r.off + i * ((r.dims[0]?).map (·.1)).getD 0 + j * ((r.dims[1]?).map (·.1)).getD 0 + 4 * w

/-- Whether a register has a word w of an instance (i, j). -/
def regHas (r : RegDef) (i j w : Nat) : Prop :=
  i < ((r.dims[0]?).map (·.2)).getD 1 ∧ j < ((r.dims[1]?).map (·.2)).getD 1 ∧ w < r.words

/-- The sealed image of four plaintext sectors (R91). -/
def sealedImage (key : BitVec 512) (slot : BitVec 6) (l : LineAddr) (poison : BitVec 4) (v : Nat → Sector) : Image :=
  outerEncode (xtsSector key l 0 (v 0) ++ xtsSector key l 1 (v 1) ++ xtsSector key l 2 (v 2) ++ xtsSector key l 3 (v 3))
    (metaWord (hostLabel slot (linePage l) (linePos l)) poison)

/-- Bits that have changed in a slot of a spread counter leave it reading otherwise, or not at all (R170, R303). -/
def CountMisread (c : Ctl) (errs : List PstErr) : Prop :=
  ∃ n < 32, ∃ i < 64, readCount (cntSlot (errs.foldl bitsChange (c, Dp.reset)).1 n i) ≠ readCount (cntSlot c n i)

/-- A RISE at which a slot of a spread counter does not read as it did: the counter then falls back on the slots that do (R303); or a
loss of VDD_AUX that leaves a slot being written with wrong bits (R304). -/
def Misreads (c : Ctl) (i : Instr) : Prop :=
  match i with
  | .riseStart errs => CountMisread c errs
  | .vddAuxLost _ (.failing _) => True
  | _ => False

/-- The commands that may change control fields: those that count on a spread counter, that reset registers or release
the configuration lock, and the accesses of the register ports. No other command changes any. -/
def touchesCtl (i : Instr) : Bool :=
  match i with
  | .mmIsolate | .dbgReturn | .dbgAccess _ | .unlock | .queueReset _ | .queueEnable _ _
    | .faultMessage _ _ | .watchdog _ | .sealRecord _ | .vddAuxApplied _ | .vddAuxLost _ _ | .riseStart _ | .hbmFill
    | .firmwareVerify _ _ | .mediaTraining _ | .replay _ _ | .riseComplete | .perstNAsserted | .flr | .hotReset
    | .dormantExitComplete
    | .refclkLoss | .recClearMaskWrite _ | .ceilCtlClear | .rearm | .snapshot | .pmuClear | .freeze _
    | .counterWrite _ _ _ | .rcRead _ _ _ | .lowWordRead _ _ | .registerWrite _ _ _ _ => true
  | _ => false

end Sys2Proof.Machine
end

