-- ==== Sys2Proof/Certificates/Slice0/Obligations.lean ====
section
/-! DEFINITION. The statements for the provers: what the rules say each command does, and what every step keeps. -/

open Sys2Proof Sys2Proof.Machine

/-- STEPPING. With command c at the front of the queue, a step is exec of c on the state with the queue's rest. The
queue is the model's (log entry 1). -/
def Obligations.StepRunsTheFrontCommand : Prop :=
  ∀ (c : Instr) (s : State), step { s with pending := c :: s.pending } = exec c s

/-- Every command answers a next state, and only a step takes commands off the queue. -/
def Obligations.EveryCommandAnswersAndKeepsTheQueue : Prop :=
  ∀ (c : Instr) (s : State), ∃ t, exec c s = .next t ∧ t.pending = s.pending

/-- R286: the queries of the command set that return result words. The layouts of FW_STATE's r2 follow SEC_BOOT. R283,
R286: the commands that return data in the host buffer described by their last two parameter words. The places of
FW_STATE and REC_HIST are the model's reading (log entries 100 and 101); damaged or unstated bytes read free values (log
entries 34 and 99). Each of these commands is shown to complete, under hypotheses on the state and its operands alone:
nop, identify, getTime, hltSummary, hltUnits, cntRead, cfgValidate, secState, fwState, modeGet, hltLostList, hltTemps,
mmRetireList, pstRead, recReadSample, recHist, pmuSamples. -/
def Obligations.OxsarReportsReturnTheirResults : Prop :=
  (∀ s : State,
    (inHand s.dp 0x0000 = true → exec .nop s = .next (s.withDp (complete s.ctl .success [] s.dp))) ∧
    (inHand s.dp 0x0001 = true → exec .identify s = .next (s.withDp (complete s.ctl .success
      [((s.dp.sec.runImage.map (·.version)).getD 0) ++ peek s.ctl s.dp false 0, BitVec.ofNat 64 (hostCapacity s.ctl s.dp),
        16384] s.dp))) ∧
    (inHand s.dp 0x0002 = true → exec .getTime s = .next (s.withDp (complete s.ctl .success [s.dp.now] s.dp))) ∧
    (inHand s.dp 0x0100 = true → exec .hltSummary s = .next (s.withDp (complete s.ctl .success
      [BitVec.ofNat 64 (fv 32 31 (spare s.dp) + fv 0 31 (retiredCount s.dp)),
        BitVec.ofNat 64 (fv 32 31 (degradedCount s.dp) + fv 0 31 (lostCount s.dp)),
        BitVec.ofNat 64 (fv 48 16 (sat 0xFFFF (maxWear s.dp)) + fv 32 16 (sat 0xFFFF (meanWear s.dp)) +
          fb 31 s.dp.mh.rebActive + fv 16 10 (rebuildProgress s.dp) + sat 0xFFFF s.dp.mh.lastLap)] s.dp))) ∧
    (inHand s.dp 0x0103 = true → exec .hltUnits s = .next (s.withDp (complete s.ctl .success
      [BitVec.ofNat 64 ((List.range 17).foldl (fun a k => a + fb k (chanOf s.dp k).isolated) 0),
        BitVec.ofNat 64 ((List.range 16).foldl (fun a k => a + (chanOf s.dp k).pkgIso.toNat * 16 ^ k) 0),
        BitVec.ofNat 64 (chanOf s.dp 16).pkgIso.toNat] s.dp))) ∧
    (∀ n : Nat, inHand s.dp 0x0303 = true → n < 32 → param s.dp 0 = BitVec.ofNat 64 n →
      exec .cntRead s = .next (s.withDp (complete s.ctl .success
        [BitVec.ofNat 64 (if 9 ≤ n ∧ n ≤ 15 then 0 else cntValue s.ctl n)] s.dp))) ∧
    (∀ recs, inHand s.dp 0x0305 = true → validateImage s.dp = .valid recs →
      exec .cfgValidate s = .next (s.withDp (complete s.ctl .success [BitVec.ofNat 64 (2 ^ 63 + recs.length)]
        (pagesRead (List.range 16) s.dp)))) ∧
    (inHand s.dp 0x0500 = true → exec .secState s = .next (s.withDp (complete s.ctl .success
      [BitVec.ofNat 64 (s.dp.sec.st.code + fv 4 2 (dbgState s.ctl s.dp).code + fv 16 8 s.dp.sec.userLeft)] s.dp))) ∧
    (∀ i, inHand s.dp 0x0600 = true → s.dp.sec.runImage = some i → exec .fwState s = .next (s.withDp (complete s.ctl .success
      [((s.dp.sec.imgA.map (·.version)).getD 0) ++ ((s.dp.sec.imgB.map (·.version)).getD 0),
        BitVec.ofNat 64 (s.dp.sec.running.toNat + fv 2 2 (b2n s.dp.pst.dev.fwSelect) + fb 4 s.dp.sec.aFail + fb 5 s.dp.sec.bFail),
        BitVec.ofNat 64 (cntValue s.ctl (3 + i.index.toNat))] s.dp))) ∧
    (inHand s.dp 0x0900 = true → exec .modeGet s = .next (s.withDp (complete s.ctl .success
      [BitVec.ofNat 64 (s.dp.sup.mode.code + s.dp.sup.cause.toNat * 256)] s.dp)))) ∧
  (∀ s : State,
    (inHand s.dp 0x0101 = true → exec .hltLostList s = .next (s.withDp (completeBuffer s.ctl 0
      ((s.dp.mh.lostLines.flatMap fun a => (List.range 4).map fun k => (lineSec (secLine a) k).toNat).flatMap (bytesLe 8))
      [BitVec.ofNat 64 (4 * s.dp.mh.lostLines.length)] s.dp))) ∧
    (inHand s.dp 0x0102 = true → ∃ recs : List Nat,
      exec .hltTemps s = .next (s.withDp (completeBuffer s.ctl 0 (recs.flatMap (bytesLe 8)) [BitVec.ofNat 64 recs.length] s.dp)) ∧
      recs = (((List.range 105).filter (sensorPresent s.ctl s.dp)).map (tempRecord s.ctl s.dp))) ∧
    (inHand s.dp 0x0203 = true → ∃ recs : List Nat,
      exec .mmRetireList s = .next (s.withDp (completeBuffer s.ctl 0 (recs.flatMap (bytesLe 8)) [BitVec.ofNat 64 recs.length] s.dp)) ∧
      recs = s.dp.map.state.flatMap stripeRecords ++ s.dp.map.failed.map fun x => fv 32 31 x.1 + fv 0 5 x.2 + 64) ∧
    (∀ (first n : Nat) (e : WordEcc) (d1 : Dp), inHand s.dp 0x0300 = true → d1 = wordEcc s.ctl 0x64 0x25 131072 e s.dp →
      ((param d1 0).extractLsb' 32 32).toNat = first → (param d1 0).extractLsb' 16 16 = 0 →
      ((param d1 0).extractLsb' 0 16).toNat = n → 1 ≤ n → n ≤ 4096 → first + n - 1 ≤ lastPage d1 →
      (∀ i < n, pstReadable (first + i) = true ∧ (pageOut d1 (first + i)).isSome = true) →
      exec (.pstRead e) s = .next (s.withDp (completeBuffer s.ctl 1
        ((List.range n).flatMap fun i => (pageOut d1 (first + i)).getD []) []
        (bump (pagesRead ((List.range n).map (first + ·)) d1))))) ∧
    (∀ x, inHand s.dp 0x0401 = true → sampleBusy s.dp = false → (samplesByAge s.dp)[(param s.dp 0).toNat]? = some x →
      exec .recReadSample s = .next (s.withDp (completeBuffer s.ctl 1 (x.words.flatMap wordBytes)
        [BitVec.ofNat 64 x.seq] s.dp))) ∧
    (inHand s.dp 0x0402 = true → (param s.dp 0).toNat < 32 →
      exec .recHist s = .next (s.withDp (completeBuffer s.ctl 1 (histBytes s.dp (param s.dp 0).toNat)
        [BitVec.ofNat 64 (min (histBytes s.dp (param s.dp 0).toNat).length (bufferRoom s.dp 1))] s.dp))) ∧
    (inHand s.dp 0x0702 = true → bufferOk s.dp 0 = true →
      exec .pmuSamples s = .next (s.withDp (completeBuffer s.ctl 0
        ((List.range (sampleCount s.dp)).flatMap fun i =>
          (smGet [] s.dp.pmu.ring ((s.dp.pmu.rd.toNat + i) % 256)).flatMap wordBytes)
        [BitVec.ofNat 64 (sampleCount s.dp)]
        (moveRd s.ctl (s.dp.pmu.rd + BitVec.ofNat 8 (min (sampleCount s.dp) (bufferRoom s.dp 0 / 64))) s.dp)))))

/-- R286, R298, R302, R334, R338, R396, R423: commands that change one thing and complete with SUCCESS. PST_COMMIT and
CNT_INC begin their writes and complete, within the tick, when these have ended; how long they take is the model's
choice (log 157). R286, R341, R352, R355: the commands of the mode group complete, then ask for their transition. R146,
R286: MM_ISOLATE with a good guard word, its target in range and no unit isolated yet. Each of these commands is shown
to complete, under hypotheses on the state and its operands alone: mmHbmHardRepair, mmHarrowRestart, pstWrite,
pstCommit, cntInc, recSampleNow, recClear, secKeyslotBind, fwSelect, pmuUserEn, pmuUserDis, modeDormant,
modeFallowEnter, modeFallowExit, modeDrainOff, mmIsolate. -/
def Obligations.OxsarActionsTakeEffect : Prop :=
  (∀ s : State,
    (inHand s.dp 0x0201 = true → guarded s.dp = true → (param s.dp 0).extractLsb' 26 38 = 0 →
      ((param s.dp 0).extractLsb' 15 6).toNat < 48 → ((param s.dp 0).extractLsb' 0 15).toNat < 24576 →
      (s.dp.pst.dev.repairs.length < 64 ∨ (s.dp.pst.dev.repairs.any fun r => r.pc = ((param s.dp 0).extractLsb' 21 5).toNat &&
        r.bank = ((param s.dp 0).extractLsb' 15 6).toNat && r.row = ((param s.dp 0).extractLsb' 0 15).toNat) = true) →
      exec .mmHbmHardRepair s = .next (s.withDp (complete s.ctl .success [] (hardRepair
        ((param s.dp 0).extractLsb' 21 5).toNat ((param s.dp 0).extractLsb' 15 6).toNat ((param s.dp 0).extractLsb' 0 15).toNat
        s.dp)))) ∧
    (inHand s.dp 0x0202 = true → exec .mmHarrowRestart s = .next (s.withDp (complete s.ctl .success []
      { s.dp with mh := { s.dp.mh with hrwDone := 0, hrwNext := [], lapStart := s.dp.now, lapDormant := 0 } }))) ∧
    (∀ page, inHand s.dp 0x0301 = true → cmdWriting s.dp = false → cfgN s.dp < 3 → (page < 16 ∨ 704 ≤ page ∧ page < 960) →
      ((param s.dp 0).extractLsb' 32 32).toNat = page → (param s.dp 0).extractLsb' 0 32 = 1 →
      exec .pstWrite s = .next (s.withDp (complete s.ctl .success [] (workPage page (writtenPage s.dp 0) s.dp)))) ∧
    (inHand s.dp 0x0302 = true → (3 ≤ cfgN s.dp ∨ toStore s.dp = [] ∧ s.dp.pst.storing = []) →
      exec .pstCommit s = .next (s.withDp (complete s.ctl .success [] s.dp))) ∧
    (inHand s.dp 0x0302 = true → cfgN s.dp < 3 → toStore s.dp ≠ [] → s.dp.pst.storeCmd = false →
      exec .pstCommit s = .next (s.withDp { s.dp with pst := { s.dp.pst with
        storing := toStore s.dp, storeAt := if s.dp.pst.storing = [] then s.dp.sup.clock else s.dp.pst.storeAt
        storeCmd := true } })) ∧
    (∀ page, inHand s.dp 0x0302 = true → s.dp.pst.storing = [page] → s.dp.pst.storeCmd = true →
      2000 ≤ elapsed s.dp.pst.storeAt s.dp.sup.clock →
      ∃ d, storeRuns s.ctl s.dp = complete s.ctl .success [] (storePage page d) ∧ d = { s.dp with pst := { s.dp.pst with
        storing := [], storeAt := s.dp.sup.clock, storeCmd := false } }) ∧
    (∀ n, inHand s.dp 0x0304 = true → 16 ≤ n → n < 32 → param s.dp 0 = BitVec.ofNat 64 n → s.dp.pst.cntPend = none →
      exec .cntInc s = .next (s.withDp { s.dp with pst := { s.dp.pst with cntPend := some (n, s.dp.sup.clock, true) } })) ∧
    (∀ n t, inHand s.dp 0x0304 = true → s.dp.pst.cntPend = some (n, t, true) → 500 ≤ elapsed t s.dp.sup.clock →
      countRuns s.ctl s.dp = (cntInc n s.ctl, complete (cntInc n s.ctl) .success [BitVec.ofNat 64 (cntValue (cntInc n s.ctl) n)]
        { s.dp with pst := { s.dp.pst with cntPend := none } })) ∧
    (inHand s.dp 0x0400 = true → cmdWriting s.dp = false →
      exec .recSampleNow s = .next (s.withDp (writeSample s.ctl 2 0 0 1 s.dp))) ∧
    (inHand s.dp 0x0403 = true → (param s.dp 0).extractLsb' 32 32 = 0 →
      exec .recClear s = .next (s.withDp (complete s.ctl .success [] { s.dp with rec_ := { s.dp.rec_ with
        clear := s.dp.rec_.clear ||| (param s.dp 0).extractLsb' 0 32 } }))) ∧
    (inHand s.dp 0x0501 = true → (param s.dp 0).extractLsb' 2 6 = 0 → (param s.dp 0).extractLsb' 14 50 = 0 →
      (s.dp.sec.st = .disabled ∨ s.dp.sec.st = .unlocked) →
      (s.dp.hif.decoders.getD ((param s.dp 0).extractLsb' 0 2).toNat {}).committed = false →
      ∃ b, b = setAt s.dp.sec.bind ((param s.dp 0).extractLsb' 0 2).toNat ((param s.dp 0).extractLsb' 8 6) ∧
      exec .secKeyslotBind s = .next (s.withDp (complete s.ctl .success []
        (modSec 19 (fun r => { r with bind := b }) { s.dp with sec := { s.dp.sec with bind := b } })))) ∧
    (∀ b : Bool, inHand s.dp 0x0601 = true → param s.dp 0 = BitVec.ofNat 64 (b2n b) → slotOk s.ctl (slotImg s.dp b) = true →
      exec .fwSelect s = .next (s.withDp (complete s.ctl .success [] (selectSlot b s.dp)))) ∧
    (inHand s.dp 0x0700 = true → exec .pmuUserEn s = .next (s.withDp (complete s.ctl .success []
      { s.dp with pmu := { s.dp.pmu with userEn := true } }))) ∧
    (inHand s.dp 0x0701 = true → exec .pmuUserDis s = .next (s.withDp (complete s.ctl .success []
      { s.dp with pmu := { s.dp.pmu with userEn := false } })))) ∧
  (∀ s : State,
    (inHand s.dp 0x0901 = true → (s.dp.sec.heldSectors = [] ∨ (s.dp.sec.st ≠ .locked ∧ s.dp.sec.st ≠ .exhausted)) →
      exec .modeDormant s = .next (s.withDp (requestDormant 0x0D (complete s.ctl .success [] s.dp)))) ∧
    (inHand s.dp 0x0902 = true → s.dp.sup.mode = .serve →
      exec .modeFallowEnter s = .next (s.withDp (complete s.ctl .success [] (enterFallow s.ctl 0x0F s.dp)))) ∧
    (inHand s.dp 0x0903 = true → fallowCond s.ctl s.dp = false → s.dp.sup.mode = .fallow →
      exec .modeFallowExit s = .next (s.withDp (complete s.ctl .success [] (exitFallow s.ctl s.dp)))) ∧
    (inHand s.dp 0x0904 = true → param s.dp 0 = 0 → param s.dp 1 = BitVec.allOnes 64 →
      exec .modeDrainOff s = .next (s.withDp (requestDrain s.ctl 0x11 (complete s.ctl .success [] s.dp))))) ∧
  (∀ (s : State) (k : Nat) (mask : BitVec 4), inHand s.dp 0x0204 = true → guarded s.dp = true → k < 17 →
    mask.toNat < 2 ^ cfgN s.dp → param s.dp 0 = BitVec.ofNat 64 (k * 256 + mask.toNat) → anyIsolated s.dp = false →
    s.dp.mh.rebActive = false →
    ∃ x, x = isolateCounted k (mask = 0) mask s.ctl s.dp ∧
      exec .mmIsolate s = .next { s with ctl := x.1, dp := complete x.1 .success [] (msix 70 x.2) })

/-- R281, R282, R284: a completion is one 32-byte entry at the tail of its queue's ring, whose phase bit turns over with
the ring; then the queue's message is sent unless the command was quiet. -/
def Obligations.CompletionIsPostedAtTheTail : Prop :=
  ∀ (c : Ctl) (d : Dp) (x : Cmd) (k : Nat) (st : Status) (rs : List (BitVec 64)) (q : Queue),
    d.que.cur = some x → x.queue = some k → qOf d k = q → d.hif.busMaster = true → d.hif.vecMask.getLsbD k = false →
    (st = .success ∨ pmuFrozen c = true) →
    ∃ d', complete c st rs d = d' ∧ d'.que.cur = none ∧
      (qOf d' k).tail = (q.tail + 1) % ringSize c k ∧
      (qOf d' k).phase = (if (q.tail + 1) % ringSize c k = 0 then !q.phase else q.phase) ∧
      d'.out = d.out ++ [.hostWrite (BitVec.ofNat 64 (ringBase c k + q.tail * 32))
        [BitVec.ofNat 16 st.code ++ x.opcode ++ x.tag ++ BitVec.ofBool q.phase ++ (0 : BitVec 1) ++ BitVec.ofNat 6 k ++
          (0 : BitVec 8), rs.getD 0 0, rs.getD 1 0, rs.getD 2 0]] ++ (if x.quiet then [] else [.msix k])

/-- R270, R271, R273, R354: words that open, fill and commit a packet; each word of the SRAM they write starts its
reliability record anew (R173, `queueWrote`). A commit is an exit trigger of DORMANT. A data word at an offset past the
window is ignored. Each of these commands is shown to complete, under hypotheses on the state and its operands alone:
begin, dataWords, endWord, beginAndEnd. -/
def Obligations.QueueWordsBuildAPacket : Prop :=
  ∀ (s : State) (k : Nat) (q q' : Queue) (d : Dp), windowOpenQ s.ctl s.dp k = true → qOf s.dp k = q →
    d = queueWrote k q q' (modQ k (fun _ => q') s.dp) →
    (∀ w : QWord, q.isOpen = false → w.parityOk = true → queueFull q = false →
      q' = { q with sram := smSet 0 q.sram (sramSlot q.wwp) w.word, mark := q.wwp, isOpen := true, header := w.word,
                    wwp := q.wwp + 1, have_ := 1 } →
      exec (.begin k 8 w false) s = .next (s.withDp d)) ∧
    (∀ (off : BitVec 16) (ws : List QWord), payloadOk off (8 * ws.length) = true → q.isOpen = true →
      (∀ w ∈ ws, w.parityOk = true) → q.have_ + ws.length ≤ hdrWords q.header + 1 →
      (q.wwp - q.crp).toNat + ws.length ≤ 1024 → q' = ws.foldl (fun q w => storeWord w.word q) q →
      exec (.dataWords k off (8 * ws.length) ws false) s = .next (if off.toNat < 0x8000 then s.withDp d else s)) ∧
    (∀ w : QWord, q.isOpen = true → w.parityOk = true → q.have_ = hdrWords q.header → queueFull q = false →
      q.cwp ≠ q.wwp + 1 →
      q' = { q with sram := smSet 0 q.sram (sramSlot q.wwp) w.word, wwp := q.wwp + 1, cwp := q.wwp + 1, isOpen := false,
                    have_ := 0 } →
      exec (.endWord k 8 w false) s = .next (s.withDp (dormantExit s.ctl .queueCommit d))) ∧
    (∀ w : QWord, q.isOpen = false → w.parityOk = true → hdrWords w.word = 0 → queueFull q = false → q.cwp ≠ q.wwp + 1 →
      q' = { q with sram := smSet 0 q.sram (sramSlot q.wwp) w.word, mark := q.wwp, header := w.word, wwp := q.wwp + 1,
                    cwp := q.wwp + 1, isOpen := false, have_ := 0 } →
      exec (.beginAndEnd k 8 w false) s = .next (s.withDp (dormantExit s.ctl .queueCommit d)))

/-- R271, R273, R274, R276: a poisoned word, one with bad parity, one of a bad size or beyond the packet's length, and
one that finds the queue full each make the open packet bad, as data or as its END: it is rewound to its header, and its
completion is recorded. R281, R289: QUE_k_CTL.reset empties the queue, and enabling a disabled queue restarts its
completion ring; no other register changes. R279, R280, R285, R287: the packet at the head of the next ready member of
the ring is taken up, and is in hand where its header passes its checks; at the mailbox's turn its command is. The
ring's restart and the order of the checks are the model's (log entries 30 and 89). Each of these commands is shown to
complete, under hypotheses on the state and its operands alone: dataWords, endWord, queueReset, queueEnable, takeUp. -/
def Obligations.QueuesRewindResetAndAreServed : Prop :=
  (∀ (s : State) (k : Nat) (w : QWord) (ep : Bool) (status code : Nat) (q : Queue) (d : Dp), windowOpenQ s.ctl s.dp k = true →
    qOf s.dp k = q → q.isOpen = true → q.bad.length < 4 →
    d = modQ k (fun q => { q with
      wwp := q.mark, isOpen := false, have_ := 0, lastBad := code, overrun := q.overrun || code = 5
      bad := q.bad ++ [{ status := status, opcode := q.header.extractLsb' 48 16, tag := q.header.extractLsb' 16 16,
                         quiet := q.header.getLsbD 32, words := q.have_ }] }) s.dp →
    (∀ (off : BitVec 16) (bytes : Nat) (ws : List QWord), off.toNat < 0x8000 → ws.headD ⟨0, true⟩ = w →
      (payloadOk off bytes = false ∨ bytes = 8 ∧ ws = [w]) →
      (ep = true ∧ status = 0x10 ∧ code = 1 ∨ ep = false ∧ w.parityOk = false ∧ status = 0x11 ∧ code = 2 ∨
        ep = false ∧ w.parityOk = true ∧ (payloadOk off bytes = false ∨ hdrWords q.header < q.have_) ∧
          status = 0x12 ∧ code = 3 ∨
        ep = false ∧ w.parityOk = true ∧ payloadOk off bytes = true ∧ q.have_ ≤ hdrWords q.header ∧ queueFull q = true ∧
          status = 0x14 ∧ code = 5) →
      exec (.dataWords k off bytes ws ep) s = .next (s.withDp d)) ∧
    (∀ bytes : Nat,
      (ep = true ∧ status = 0x10 ∧ code = 1 ∨ ep = false ∧ w.parityOk = false ∧ status = 0x11 ∧ code = 2 ∨
        ep = false ∧ w.parityOk = true ∧ (bytes ≠ 8 ∨ q.have_ ≠ hdrWords q.header) ∧ status = 0x12 ∧ code = 3 ∨
        ep = false ∧ w.parityOk = true ∧ bytes = 8 ∧ q.have_ = hdrWords q.header ∧ queueFull q = true ∧
          status = 0x14 ∧ code = 5) →
      exec (.endWord k bytes w ep) s = .next (s.withDp d))) ∧
  (∀ (s : State) (k : Nat), k < 64 → portOpen .host s.dp = true → writesHeld s.ctl s.dp = false →
    (∃ t, exec (.queueReset k) s = .next t ∧ t.dp = resetQueue k s.dp ∧ queEn t.ctl k = queEn s.ctl k ∧
      ∀ off, off ≠ queOff k 0 → crGet t.ctl off = crGet s.ctl off) ∧
    (∀ en : Bool, ∃ t, exec (.queueEnable k en) s = .next t ∧ queEn t.ctl k = en ∧
      t.dp = (if queEn s.ctl k = false ∧ en = true then restartRing k s.dp else s.dp) ∧
      ∀ off, off ≠ queOff k 0 → crGet t.ctl off = crGet s.ctl off)) ∧
  ((∀ (s : State) (k : Nat) (h : BitVec 64) (ps : List (BitVec 64)), takesUp s.dp = true → s.dp.que.ring = k → k < 64 →
    memberReady s.ctl s.dp k = true → (qOf s.dp k).bad = [] → headPacket (qOf s.dp k) = h :: ps →
    refusedAtOnce (h.extractLsb' 33 7 ≠ 0 || h.extractLsb' 0 16 ≠ 0) false true (h.extractLsb' 48 16).toNat ps = none →
    ∃ d1, d1 = pmuCount s.ctl 23 0x10 1 (modQ k (fun q => { q with crp := q.crp + BitVec.ofNat 11 (ps.length + 1) })
        { s.dp with que := { s.dp.que with ring := (k + 1) % 65 } }) ∧
      exec (.takeUp none) s = .next (s.withDp { d1 with que := { d1.que with cur := some { queue := some k
                                                                                           opcode := h.extractLsb' 48 16
                                                                                           tag := h.extractLsb' 16 16
                                                                                           quiet := h.getLsbD 32
                                                                                           params := ps } } })) ∧
  (∀ (s : State) (ecc : Option (Nat × Bool)), takesUp s.dp = true → s.dp.que.ring = 64 → s.dp.que.mboxBusy = true →
    exec (.takeUp ecc) s = .next (s.withDp (takeMailbox s.ctl { s.dp with que := { s.dp.que with ring := 0 } }))))

/-- R266, R288: the reply of a mailbox command leaves the command's hands, clears the doorbell, gives its return code
and payload, and sends vector 64 where the host asked for it. R266 to R268, R156, R390: the standard commands that only
report. R267, R300: the standard commands that report a part of a record which their input names. The byte places of the
payloads and the return codes are the model's, PRESUMED from CXL 3.1 (log entries 16 and 17). Each of these commands is
shown to complete, under hypotheses on the state and its operands alone: identifyGenericComponent,
getEventInterruptPolicy, getFwInfo, getTimestamp, getSupportedLogs, identifyMemoryDevice, getPartitionInfo,
getHealthInfo, getAlertConfiguration, getShutdownState, getScanMediaResults, getSecurityState, getEventRecords, getLog,
getLsa, getPoisonList, getScanMediaCapabilities. -/
def Obligations.MailboxReportsAndReplies : Prop :=
  (∀ (r : Ret) (payload : List (BitVec 8)) (d d' : Dp), mailboxReply r payload d = d' → d.hif.vecMask.getLsbD 64 = false →
    d.hif.busMaster = true →
    d'.que.cur = none ∧ d'.que.mboxBusy = false ∧ d'.que.mboxRet = BitVec.ofNat 16 r.code ∧ d'.que.mboxLen = payload.length ∧
    d'.que.mboxOut = wordsOf ((payload.length + 7) / 8) payload ∧
    d'.out = d.out ++ [.mailbox r.code (wordsOf ((payload.length + 7) / 8) payload)] ++
      (if d.que.mboxIrq then [.msix 64] else []) ∧
    d' = { d with que := d'.que, out := d'.out }) ∧
  (∀ s : State,
    (StdReady s.dp 0x0001 0 → exec .identifyGenericComponent s = .next (s.withDp (mailboxReply .success
      (bytesLe 2 Config.vendorId.toNat ++ bytesLe 2 0x0064 ++
        (List.range 2).flatMap (fun i => bytesLe 2 (Config.freeValue 70 (i + 1)).toNat) ++
        bytesLe 8 Config.dsn.toNat ++ [16, 3]) s.dp))) ∧
    (StdReady s.dp 0x0102 0 → exec .getEventInterruptPolicy s = .next (s.withDp (mailboxReply .success
      ((List.range 4).map (fun i => (logOf s.dp i).policy.setWidth 8) ++
        (List.range 4).map fun i => if (logOf s.dp i).policy = 1 then BitVec.ofNat 8 (65 + i) else 0) s.dp))) ∧
    (StdReady s.dp 0x0200 0 → ∃ head tail : List (BitVec 8), head.length = 16 ∧ head.getD 0 0 = 2 ∧
      tail = slotRev s.dp.sec.imgA ++ slotRev s.dp.sec.imgB ++ List.replicate 32 0 ∧
      exec .getFwInfo s = .next (s.withDp (mailboxReply .success (head ++ tail) s.dp))) ∧
    (StdReady s.dp 0x0300 0 → exec .getTimestamp s = .next (s.withDp (mailboxReply .success
      (bytesLe 8 (cxlTime s.dp).toNat) s.dp))) ∧
    (StdReady s.dp 0x0400 0 → exec .getSupportedLogs s = .next (s.withDp (mailboxReply .success
      (bytesLe 2 1 ++ bytesLe 6 0 ++ bytesBe 16 celUuid ++ bytesLe 4 celBytes.length) s.dp))) ∧
    (StdReady s.dp 0x4000 0 → exec .identifyMemoryDevice s = .next (s.withDp (mailboxReply .success
      (slotRev s.dp.sec.runImage ++ bytesLe 8 (hostBytes (cfgN s.dp) / 2 ^ 28) ++ bytesLe 8 0 ++
        bytesLe 8 (hostBytes (cfgN s.dp) / 2 ^ 28) ++ bytesLe 8 0 ++ (List.range 4).flatMap (fun _ => bytesLe 2 128) ++
        bytesLe 4 131072 ++ bytesLe 3 512 ++ bytesLe 2 64 ++ [3, 0] ++ bytesLe 2 0) s.dp))) ∧
    (StdReady s.dp 0x4100 0 → exec .getPartitionInfo s = .next (s.withDp (mailboxReply .success
      (bytesLe 8 0 ++ bytesLe 8 (hostBytes (cfgN s.dp) / 2 ^ 28) ++ bytesLe 16 0) s.dp))) ∧
    (StdReady s.dp 0x4200 0 → exec .getHealthInfo s = .next (s.withDp (mailboxReply .success (healthBytes s.ctl s.dp) s.dp))) ∧
    (∀ k a : Nat → Nat, StdReady s.dp 0x4201 0 → (∀ n, k n = (criticalAt n).toNat) →
      (∀ n, a n = (s.dp.logs.alerts.getD n 0).toNat) →
      exec .getAlertConfiguration s = .next (s.withDp (mailboxReply .success ([s.dp.logs.alertOn, 0x1F] ++ bytesLe 1 (k 0) ++
        bytesLe 1 (a 0) ++ bytesLe 2 (k 1) ++ bytesLe 2 (k 2) ++ bytesLe 2 (a 1) ++ bytesLe 2 (a 2) ++ bytesLe 2 (a 3) ++
        bytesLe 2 (a 4)) s.dp))) ∧
    (StdReady s.dp 0x4203 0 → exec .getShutdownState s = .next (s.withDp (mailboxReply .success
      [BitVec.ofNat 8 (b2n (s.dp.pst.dev.hostDirty || decide (38 ∈ s.dp.pst.undecodable)))] s.dp))) ∧
    (StdReady s.dp 0x4305 0 → s.dp.logs.scan.length ≤ 4000 → exec .getScanMediaResults s = .next (s.withDp (mailboxReply .success
      (bytesLe 16 0 ++ [0, 0] ++ bytesLe 2 s.dp.logs.scan.length ++ bytesLe 12 0 ++
        s.dp.logs.scan.flatMap fun a => errorRecord a 2) s.dp))) ∧
    (StdReady s.dp 0x4500 0 → exec .getSecurityState s = .next (s.withDp (mailboxReply .success
      (bytesLe 4 (securityFlags s.dp)) s.dp)))) ∧
  (∀ s : State,
    (StdReady s.dp 0x0100 1 → mboxNum s.dp 0 1 < 4 → ∃ l, l = logOf s.dp (mboxNum s.dp 0 1) ∧
      exec .getEventRecords s = .next (s.withDp (mailboxReply .success
        ([BitVec.ofNat 8 (b2n (0 < l.overflow)), 0] ++ bytesLe 2 (sat 0xFFFF l.overflow) ++ bytesLe 8 l.first.toNat ++
          bytesLe 8 l.last.toNat ++ bytesLe 2 l.recs.length ++ bytesLe 10 0 ++
          l.recs.flatMap (recordBytes (mboxNum s.dp 0 1))) s.dp))) ∧
    (StdReady s.dp 0x0401 24 → (mboxFrom s.dp 0).take 16 = bytesBe 16 celUuid →
      mboxNum s.dp 16 4 + mboxNum s.dp 20 4 ≤ celBytes.length →
      exec .getLog s = .next (s.withDp (mailboxReply .success
        ((celBytes.drop (mboxNum s.dp 16 4)).take (mboxNum s.dp 20 4)) s.dp))) ∧
    (∀ vs : List (BitVec 2048), StdReady s.dp 0x4102 8 → mboxNum s.dp 0 4 + mboxNum s.dp 4 4 ≤ 131072 →
      mboxNum s.dp 4 4 ≤ 65536 → (lsaPages (mboxNum s.dp 0 4) (mboxNum s.dp 4 4)).map (readPage s.dp) = vs.map some →
      exec .getLsa s = .next (s.withDp (mailboxReply .success
        (((vs.flatMap pageBytes).drop (mboxNum s.dp 0 4 % 256)).take (mboxNum s.dp 4 4))
          (pagesRead (lsaPages (mboxNum s.dp 0 4) (mboxNum s.dp 4 4)) s.dp)))) ∧
    (∀ lo hi, StdReady s.dp 0x4300 16 → rangeParam s.ctl s.dp = some (lo, hi) → s.dp.logs.poisonOver = none →
      s.dp.que.bg = none → ∃ recs : List PoisonRec,
      recs = s.dp.logs.poison.filter (fun r => lo ≤ r.line.toNat && r.line.toNat < hi) ∧
      exec .getPoisonList s = .next (s.withDp (mailboxReply .success ([0, 0] ++ bytesLe 8 0 ++ bytesLe 2 recs.length ++
        bytesLe 20 0 ++ recs.flatMap fun r => errorRecord r.line (if r.injected then 3 else 2)) s.dp))) ∧
    (∀ lo hi, StdReady s.dp 0x4303 16 → rangeParam s.ctl s.dp = some (lo, hi) →
      exec .getScanMediaCapabilities s = .next (s.withDp (mailboxReply .success
        (bytesLe 4 (sat 0xFFFFFFFF (scanTime s.dp (hi - lo)))) s.dp))))

/-- R263, R266 to R268, R296, R396: the standard commands that change something, on inputs they accept. The byte places
of the payloads are the model's, PRESUMED from CXL 3.1 (log entry 17). Each of these commands is shown to complete,
under hypotheses on the state and its operands alone: clearEventRecords, setEventInterruptPolicy, transferFw,
activateFw, setTimestamp, setPartitionInfo, setLsa, setAlertConfiguration, setShutdownState, injectPoison, clearPoison,
scanMedia. -/
def Obligations.MailboxActionsTakeEffect : Prop :=
  ∀ s : State,
    (StdReady s.dp 0x0101 6 → mboxNum s.dp 0 1 < 4 → mboxNum s.dp 2 1 = 0 → (mboxByte s.dp 1).getLsbD 0 = true →
      exec .clearEventRecords s = .next (s.withDp (mailboxReply .success [] (setLog (mboxNum s.dp 0 1)
        { logOf s.dp (mboxNum s.dp 0 1) with recs := [], overflow := 0, first := 0, last := 0 } s.dp)))) ∧
    (StdReady s.dp 0x0103 4 → (∀ i < 4, mboxNum s.dp i 1 % 4 < 2) → ∃ d', (∀ i < 4, (logOf d' i).policy =
        BitVec.ofNat 2 (mboxNum s.dp i 1 % 4)) ∧ d' = { s.dp with logs := d'.logs } ∧
      exec .setEventInterruptPolicy s = .next (s.withDp (mailboxReply .success [] d'))) ∧
    (∀ b : Bool, stdInHand s.dp 0x0201 = true → s.dp.que.delayed = none → s.dp.que.bg = none → s.dp.sec.erase = false →
      128 ≤ s.dp.que.mboxLen → s.dp.que.mboxLen ≤ 16777216 → mboxNum s.dp 0 1 = 0 → mboxNum s.dp 1 1 = b2n b + 1 →
      s.dp.sec.running.toNat ≠ b2n b → s.dp.sec.xfer = none →
      exec .transferFw s = .next (s.withDp (startBackground 0x0201 0 0 (finishTransfer
        (b, wordsOf ((s.dp.que.mboxLen - 128 + 7) / 8) (mboxFrom s.dp 128)) s.dp)))) ∧
    (∀ b : Bool, StdReady s.dp 0x0202 2 → mboxNum s.dp 0 1 = 1 → mboxNum s.dp 1 1 = b2n b + 1 →
      slotOk s.ctl (slotImg s.dp b) = true →
      exec .activateFw s = .next (s.withDp (mailboxReply .success [] (selectSlot b s.dp)))) ∧
    (StdReady s.dp 0x0301 8 → exec .setTimestamp s = .next (s.withDp (mailboxReply .success []
      { s.dp with hif := { s.dp.hif with tsSet := some (BitVec.ofNat 64 (mboxNum s.dp 0 8), s.dp.now) } }))) ∧
    (∀ n, StdReady s.dp 0x4101 n → exec .setPartitionInfo s = .next (s.withDp (mailboxReply .invalidInput [] s.dp))) ∧
    (stdInHand s.dp 0x4103 = true → s.dp.que.delayed = none → s.dp.que.bg = none → s.dp.sec.erase = false →
      (∀ w ∈ s.dp.pst.writes, w.who ≠ 2) → 8 < s.dp.que.mboxLen → mboxNum s.dp 0 4 + (s.dp.que.mboxLen - 8) ≤ 131072 →
      exec .setLsa s = .next (s.withDp (writePages s.ctl ((lsaPages (mboxNum s.dp 0 4) (s.dp.que.mboxLen - 8)).map fun p =>
        (p, overlay s.dp p (mboxNum s.dp 0 4 - (p - 64) * 256) (((mboxFrom s.dp 8).drop ((p - 64) * 256 - mboxNum s.dp 0 4)).take
          (min 256 ((p - 64) * 256 + 256 - mboxNum s.dp 0 4))))) 2 [] (bump s.dp)))) ∧
    (StdReady s.dp 0x4202 12 → mboxByte s.dp 0 = 1 → (mboxByte s.dp 1).getLsbD 0 = true →
      exec .setAlertConfiguration s = .next (s.withDp (mailboxReply .success [] { s.dp with logs := { s.dp.logs with
        alerts := setAt s.dp.logs.alerts 0 (BitVec.ofNat 16 (mboxNum s.dp 2 1)), alertOn := setBit s.dp.logs.alertOn 0 } }))) ∧
    (StdReady s.dp 0x4204 1 → mboxNum s.dp 0 1 < 2 → exec .setShutdownState s = .next (s.withDp (mailboxReply .success []
      (modDev 38 (fun r => { r with hostDirty := mboxNum s.dp 0 1 = 1 }) s.dp)))) ∧
    (∀ a, StdReady s.dp 0x4301 8 → dpaParam s.ctl s.dp 0 = some a → refusing s.dp = false →
      (s.dp.logs.poison.filter (·.injected)).length < 64 →
      exec .injectPoison s = .next (s.withDp (mailboxReply .success [] (storePoison s.ctl a s.dp)))) ∧
    (∀ a, StdReady s.dp 0x4302 72 → dpaParam s.ctl s.dp 0 = some a → refusing s.dp = false → s.dp.sup.mode = .serve →
      s.dp.hif.withheld = false → 64 * (dSectors s.dp + 1) + 64 * wOf s.dp ≤ ceilBytes s.ctl → wOf s.dp < mergeFree s.dp →
      exec .clearPoison s = .next (s.withDp (mailboxReply .success [] (updWithhold s.ctl (poisonRemove a
        (placeSector s.ctl (secLine a) (secIdx a) (packBytes 512 ((mboxFrom s.dp 8).take 64)) false
          ((slotOfDpa s.dp (secDpa a)).getD 0) false s.dp)))))) ∧
    (∀ lo hi, StdReady s.dp 0x4304 17 → s.dp.que.bg = none → s.dp.sec.erase = false → rangeParam s.ctl s.dp = some (lo, hi) →
      exec .scanMedia s = .next (s.withDp (scanNext s.ctl (startBackground 0x4304 (BitVec.ofNat 35 (lo / 4))
        (BitVec.ofNat 35 ((hi + 3) / 4)) { s.dp with logs := { s.dp.logs with scan := [] } }))))

/-- R387, R389, R390: the passphrase commands in the states that allow them, with a right passphrase where one is asked
for. The byte places of the payloads are the model's, PRESUMED from CXL 3.1 (log entry 17). Each of these commands is
shown to complete, under hypotheses on the state and its operands alone: setPassphrase, disablePassphrase, unlock,
freezeSecurityState. -/
def Obligations.PassphraseCommandsTakeEffect : Prop :=
  ∀ s : State, s.dp.que.delayed = none →
    (StdReady s.dp 0x4501 0x60 → mboxNum s.dp 0 1 = 1 → s.dp.sec.st = .disabled → passAt s.dp 0x40 ≠ 0 →
      exec .setPassphrase s = .next (s.withDp (setUser s.ctl (passAt s.dp 0x40) s.dp))) ∧
    (StdReady s.dp 0x4502 0x40 → mboxNum s.dp 0 1 = 1 → s.dp.sec.st = .unlocked → passAt s.dp 0x20 ≠ 0 →
      passOk false (passAt s.dp 0x20) s.dp = true →
      exec .disablePassphrase s = .next (s.withDp (dropUser s.ctl (rightPass false (pmuCount s.ctl 22 0x12 1 s.dp))))) ∧
    (StdReady s.dp 0x4503 0x20 → s.dp.sec.st = .locked → passAt s.dp 0 ≠ 0 → passOk false (passAt s.dp 0) s.dp = true →
      exec .unlock s = .next (s.withDp
        (unlockRight s.ctl (passAt s.dp 0) (rightPass false (pmuCount s.ctl 22 0x12 1 s.dp))))) ∧
    (StdReady s.dp 0x4504 0 → (s.dp.sec.st = .disabled ∨ s.dp.sec.st = .unlocked) →
      exec .freezeSecurityState s = .next (s.withDp (mailboxReply .success []
        { s.dp with sec := { s.dp.sec with st := .frozen } })))

/-- R389: a wrong passphrase for Unlock leaves one attempt fewer and one more on spread counter 7, makes the part
EXHAUSTED with the last attempt, reports UNLOCK_FAIL, and is answered only at the end of the delay. The master and
access fields of that report are the model's (no rule names them): MP_1, and a free value (log 158). R389: at the end of
the delay the command with the wrong passphrase is answered. Each of these commands is shown to complete, under
hypotheses on the state and its operands alone: unlock, passphraseDelayEnd. -/
def Obligations.WrongUnlockIsCountedAndDelayed : Prop :=
  (∀ (s : State) (x : Cmd), StdReady s.dp 0x4503 0x20 → s.dp.que.cur = some x → s.dp.sec.st = .locked → passAt s.dp 0 ≠ 0 →
    passOk false (passAt s.dp 0) s.dp = false →
    ∃ t, exec .unlock s = .next t ∧ t.ctl = cntInc 7 s.ctl ∧
      t.dp.sec.userLeft = s.dp.sec.userLeft - 1 ∧ t.dp.sec.masterLeft = s.dp.sec.masterLeft ∧
      t.dp.sec.st = (if s.dp.sec.userLeft ≤ 1 then .exhausted else .locked) ∧ t.dp.sec.mediaKey = s.dp.sec.mediaKey ∧
      t.dp.que.delayed = some (x, Ret.incorrectPassphrase.code, []) ∧ t.dp.que.cur = some x ∧ t.dp.pst = s.dp.pst ∧
      t.dp.flt = (raise 0x68 0x3D 0 (s.dp.sec.userLeft - 1) 0x09 noAccess s.dp).flt) ∧
  (∀ (s : State) (x : Cmd × Nat × List (BitVec 64)), s.dp.que.delayed = some x →
    exec .passphraseDelayEnd s = .next (s.withDp (mailboxReply .incorrectPassphrase []
      { s.dp with que := { s.dp.que with delayed := none } })))

/-- R383, R385, R387: setting a user passphrase unlocks nothing new: the part goes from DISABLED to UNLOCKED, page 16
holds the verifier of the new passphrase, and the media master key as it was, wrapped under the user KEK. R381: a key
that is wrapped unwraps under the same key, and to nothing else. Key wrap and key derivation are those of their
standards, PRESUMED, and the root key is free (log entry 8). -/
def Obligations.UserPassphraseWrapsTheMediaKey : Prop :=
  (∀ (c : Ctl) (pass : BitVec 256) (key : BitVec 256) (d d' : Dp), setUser c pass d = d' → d.sec.mediaKey = some key →
    d'.sec.st = .unlocked ∧ d'.sec.mediaKey = some key ∧ d'.pst.sec.userSet = true ∧ d'.pst.sec.wrapUser = true ∧
    d'.pst.sec.userVer = verifierOf false d'.pst.sec.userSalt pass ∧
    d'.sec.userKek = some (userKekOf d'.pst.sec.userSalt pass) ∧
    (d'.pst.sec.wrapped.bind fun w => keyUnwrap (userKekOf d'.pst.sec.userSalt pass) w) = some key ∧
    d'.pst.sec.masterVer = d.pst.sec.masterVer ∧
    ∀ n, (∀ i < 2, n ≠ slotKey d 16 i) → smGet {} d'.pst.slots n = smGet {} d.pst.slots n) ∧
  (∀ (kek key : BitVec 256) (w : BitVec 320), keyUnwrap kek (keyWrap kek key) = some key ∧
    (keyUnwrap kek w = some key → w = keyWrap kek key))

/-- R390, R392: the three erases in the states that allow them, the background operation begun. R392: the commit point
of an erase. A new media master key is drawn and stored wrapped, no sector value or intent is left in the persistence
domain, and no mapping entry is left. What the journal keeps is the model's reading (log entry 65). Each of these
commands is shown to complete, under hypotheses on the state and its operands alone: sanitize, secureErase,
passphraseSecureErase, eraseCursorWrite. -/
def Obligations.ErasesBeginAndCommit : Prop :=
  (∀ s : State, s.dp.que.bg = none → s.dp.sec.erase = false →
    (StdReady s.dp 0x4400 0 → (s.dp.sec.st = .disabled ∨ s.dp.sec.st = .unlocked) →
      exec .sanitize s = .next (s.withDp (eraseAdvance (pmuCount s.ctl 22 0x12 2 (startBackground 0x4400 0 0
        { s.dp with sec := { s.dp.sec with erase := true, eraseCommitted := false, eraseKind := 3 } }))))) ∧
    (StdReady s.dp 0x4401 0 → (s.dp.sec.st = .disabled ∨ s.dp.sec.st = .unlocked) →
      exec .secureErase s = .next (s.withDp (eraseAdvance (pmuCount s.ctl 22 0x12 1 (startBackground 0x4401 0 0
        { s.dp with sec := { s.dp.sec with erase := true, eraseCommitted := false, eraseKind := 1 } }))))) ∧
    (∀ d1, StdReady s.dp 0x4505 0x40 → mboxNum s.dp 0 1 = 1 → (s.dp.sec.st = .locked ∨ s.dp.sec.st = .unlocked) →
      passAt s.dp 0x20 ≠ 0 → passOk false (passAt s.dp 0x20) s.dp = true →
      rightPass false (pmuCount s.ctl 22 0x12 1 s.dp) = d1 →
      exec .passphraseSecureErase s = .next (s.withDp (eraseAdvance (pmuCount s.ctl 22 0x12 1 (startBackground 0x4505 0 0
        { d1 with sec := { d1.sec with erase := true, eraseCommitted := false, eraseKind := 2 } }))))) ∧
    (∀ t, t = s.withDp { s.dp with sec := { s.dp.sec with erase := true, eraseCommitted := true, eraseKind := 3 } } →
      serving s.dp = true →
      exec .eraseCursorWrite t = .next (t.withDp (modSec 16 (fun r => { r with cursor := eraseLow t.dp }) t.dp)))) ∧
  (∀ d d' : Dp, commitErase d = d' → d.sec.eraseKind ≠ 3 →
    d'.sec.mediaKey = some ((Config.rng d.free).extractLsb' 0 256) ∧
    (∀ x ∈ d'.lc.ways, x.2.valid = false ∧ x.2.sv = 0 ∧ x.2.sd = 0 ∧ x.2.lock = true) ∧ d'.mrg.entries = [] ∧
    d'.mrg.deltas = [] ∧ d'.sec.heldSectors = [] ∧ d'.map.copyA = [] ∧ d'.map.copyB = [] ∧ d'.map.cache = [] ∧
    d'.pst.sec.eraseInProgress = true ∧ d'.pst.sec.eraseCommitted = true ∧
    (d.sec.eraseKind = 2 → d'.pst.sec.userSet = false ∧ d'.sec.st = .disabled))

/-- R400, R401, R406: the commands of a debug session. R402, R403: the JTAG instructions. IDCODE and the boundary cells
read free values: the spec states none. R402, R404, R405, R407: the fabric debug port. In an open session in SERVE every
operation is carried out, but host data is denied while the part is LOCKED or EXHAUSTED; in DRAIN only the SUP, FLT and
SEC windows can be read; in DORMANT and RISE everything is denied. The free values are the model's (log entries 102 and
114), as is what a halted processor is (log entry 103). Each of these commands is shown to complete, under hypotheses on
the state and its operands alone: dbgChallenge, dbgResponse, nonceExpiry, dbgClose, dbgReturn, bypass, idcode,
samplePreload, extest, extestExit, dbgAccess. -/
def Obligations.DebugAndJtagAct : Prop :=
  (∀ s : State,
    (∀ n : BitVec 192, inHand s.dp 0x0800 = true → challengeOk s.ctl s.dp = true → n = (Config.rng s.dp.free).extractLsb' 0 192 →
      exec .dbgChallenge s = .next (s.withDp (complete s.ctl .success
        [n.extractLsb' 0 64, n.extractLsb' 64 64, n.extractLsb' 128 64]
        { s.dp with sec := { s.dp.sec with nonce := some (n, s.dp.now) }, free := s.dp.free + 1 }))) ∧
    (inHand s.dp 0x0801 = true → responseOk s.ctl s.dp = true →
      exec .dbgResponse s = .next (s.withDp (complete s.ctl .success [] { s.dp with sec := { s.dp.sec with
        nonce := none, open_ := true, sessions := satInc 0xFF s.dp.sec.sessions } }))) ∧
    (inHand s.dp 0x0801 = true → responseOk s.ctl s.dp = false →
      exec .dbgResponse s = .next (s.withDp (complete s.ctl .authFailed [] (raise 0x69 0x3F 0 0 0x0E 6
        { s.dp with sec := { s.dp.sec with
          nonce := none, authFails := satInc 0xFF s.dp.sec.authFails, authFailAt := some s.dp.now } })))) ∧
    exec .nonceExpiry s = .next (s.withDp { s.dp with sec := { s.dp.sec with nonce := none } }) ∧
    (inHand s.dp 0x0802 = true → exec .dbgClose s = .next (s.withDp (complete s.ctl .success [] (closeDebug s.dp)))) ∧
    (inHand s.dp 0x0803 = true → guarded s.dp = true → param s.dp 0 = 0 → s.dp.sec.retStep ≠ 1 →
      dbgState s.ctl s.dp = .opened → serving s.dp = true → s.dp.acc.pend ≠ [] →
      exec .dbgReturn s = .next (s.withDp { s.dp with sec := { s.dp.sec with erase := true, retStep := 1 } })) ∧
    (inHand s.dp 0x0803 = true → s.dp.sec.retStep = 1 → serving s.dp = true → s.dp.acc.pend = [] →
      ∃ t, exec .dbgReturn s = .next t ∧ t.ctl.returnedFuse = true ∧ t.dp.sup.mode = .rise ∧ t.dp.sec.mediaKey = none ∧
        t.dp.sec.placeKey = none ∧ t.dp.sec.userKek = none ∧ t.dp.lc.ways = [] ∧ t.dp.mrg.entries = [])) ∧
  (∀ s : State,
    exec .bypass s = .next s ∧
    (jtagUp s.dp = true →
      exec .idcode s = .next (s.withDp (emit (.jtag (Config.freeValue 61 0)) s.dp)) ∧
      exec .samplePreload s = .next (s.withDp (bump (emit (.jtag (Config.freeValue 62 s.dp.free)) s.dp))) ∧
      (extestOk s.dp = true → exec .extest s = .next (s.withDp { s.dp with sec := { s.dp.sec with extest := true } })) ∧
      (extestOk s.dp = false →
        exec .extest s = .next (s.withDp { s.dp with sec := { s.dp.sec with extestRefused := true } }))) ∧
    (s.dp.sec.extest = true → exec .extestExit s = .next (s.withDp { s.dp with
      sec := { s.dp.sec with extest := false, retStep := 9 }, glb := { s.dp.glb with riseStep := 5 } }))) ∧
  (∀ (s : State) (op : DbgOp), jtagUp s.dp = true → s.dp.sup.mode ≠ .off →
    (dbgState s.ctl s.dp ≠ .sealed → serving s.dp = true → s.dp.sec.st ≠ .locked → s.dp.sec.st ≠ .exhausted →
      (∀ mp, op = .halt mp → mp < 4 → s.dp.que.mps.getD mp 1 = 0 →
        exec (.dbgAccess op) s = .next (s.withDp { s.dp with que := { s.dp.que with mps := setAt s.dp.que.mps mp 2 } })) ∧
      (∀ mp, op = .resume mp → mp < 4 → s.dp.que.mps.getD mp 1 = 2 →
        exec (.dbgAccess op) s = .next (s.withDp { s.dp with que := { s.dp.que with mps := setAt s.dp.que.mps mp 0 } })) ∧
      (∀ line sec, op = .readHostData line sec → exec (.dbgAccess op) s = .next (s.withDp
        ((wordsOf 8 (sectorBytes (((heldValue s.dp (lineSec line sec.toNat)).map (·.1)).getD 0))).foldl
          (fun d w => emit (.jtag w) d) s.dp))) ∧
      (∀ i v, op = .writeFwSram i v → exec (.dbgAccess op) s = .next (s.withDp
        { s.dp with que := { s.dp.que with fwSram := smSet none s.dp.que.fwSram i (some v) }, cod := s.dp.cod.wrote 0x23 i 1 }))) ∧
    (∀ line sec, op = .readHostData line sec → dbgState s.ctl s.dp ≠ .sealed → serving s.dp = true →
      (s.dp.sec.st = .locked ∨ s.dp.sec.st = .exhausted) → exec (.dbgAccess op) s = .next (s.withDp (deny s.dp))) ∧
    (∀ off v, op = .writeReg off v → s.dp.sup.mode = .drain → dbgState s.ctl s.dp ≠ .sealed →
      exec (.dbgAccess op) s = .next (s.withDp (deny s.dp))) ∧
    ((s.dp.sup.mode = .dormant ∨ s.dp.sup.mode = .rise) → exec (.dbgAccess op) s = .next (s.withDp (deny s.dp))))

/-- R9, R430, R431: a host's 4-byte read returns the word and clears the register's RC fields; one of the low word of a
wide register latches its high word. R433, R434: a sideband read answers words 0, 1 or 2 as its status, and an access
that a block does not acknowledge is counted. Each of these commands is shown to complete, under hypotheses on the state
and its operands alone: rcRead, lowWordRead, sidebandRegisterRead, blockTimeout. -/
def Obligations.ReadsReturnClearAndLatch : Prop :=
  (∀ (s : State) (off : Nat) (h : RegHit), portOpen .host s.dp = true → off % 4 = 0 → off < 0x2004000 →
    findReg off = some h → h.word = 0 →
    (latching h = false → exec (.rcRead .host off 4) s =
      .next (s.withDp (emit (.readData [peek s.ctl s.dp true off]) (readClear h.reg.name s.dp)))) ∧
    (latching h = true → exec (.lowWordRead .host off) s =
      .next (s.withDp (emit (.readData [peek s.ctl s.dp true off])
        (setLatch .host (off + 4) (peek s.ctl s.dp true (off + 4)) (readClear h.reg.name s.dp)))))) ∧
  (∀ (s : State) (n off : Nat) (d1 : Dp), s.dp.sup.mode ≠ .off → d1 = dormantExit s.ctl .doeOrSideband s.dp →
    (1 ≤ n → n ≤ 16 → inWindows off n = true → exec (.sidebandRegisterRead n off) s = .next (s.withDp
      (emit (.sideband 0 ((List.range n).map fun i => peek s.ctl s.dp true (off + 4 * i))) d1))) ∧
    (1 ≤ n → n ≤ 16 → inWindows off n = false → exec (.sidebandRegisterRead n off) s = .next (s.withDp
      (emit (.sideband 1 []) d1))) ∧
    ((n = 0 ∨ 16 < n) → exec (.sidebandRegisterRead n off) s = .next (s.withDp (emit (.sideband 2 []) d1))) ∧
    exec (.blockTimeout true n) s = .next (s.withDp { s.dp with glb := { s.dp.glb with
      accTimeout := satInc 0xFF s.dp.glb.accTimeout } }) ∧
    exec (.blockTimeout false n) s = .next (s.withDp (emit (.readData (List.replicate n 0xFFFFFFFF))
      { s.dp with glb := { s.dp.glb with accTimeout := satInc 0xFF s.dp.glb.accTimeout } })))

/-- R9, R437: what a write leaves alone. A field that is not RW, or that is RWL while the lock is set, keeps its value.
-/
def Obligations.WritesLeaveProtectedFieldsAlone : Prop :=
  ∀ (off : Nat) (h : RegHit) (f : Fld) (locked : Bool) (old data : Word), findReg off = some h → f ∈ h.reg.flds →
    fieldLoads locked f = false → loadWord locked h old data &&& fieldMask h.word f = old &&& fieldMask h.word f

/-- R9, R11, R429, R430, R435: a host's write acts on its register; at a reserved offset it is ignored and counted;
while the windows' writes are held it is ignored and counted; and the sideband writes nothing. R78, R318, R334, R415 to
R417, R424: the writes that act on a unit, sent while the host's writes are taken. Only the unit's own state changes,
and no control field but those of the register written. R413, R417: an 8-byte write of a counter loads it whole, and
discards what a channel counter has staged. Each of these commands is shown to complete, under hypotheses on the state
and its operands alone: registerWrite, ceilCtlClear, recClearMaskWrite, rearm, snapshot, pmuClear, freeze, counterWrite.
-/
def Obligations.RegisterWritesAct : Prop :=
  (∀ (s : State) (off : Nat) (data : BitVec 64), off % 4 = 0 → inMsix off = false → inCxl off = false → off < 0x2004000 →
    (∀ h, portOpen .host s.dp = true → writesHeld s.ctl s.dp = false → findReg off = some h →
      ∃ t, exec (.registerWrite .host off 4 data) s = .next t ∧
        (t.ctl, t.dp) = writeHit off h (data.extractLsb' 0 32) s.ctl s.dp) ∧
    (portOpen .host s.dp = true → writesHeld s.ctl s.dp = false → findReg off = none →
      exec (.registerWrite .host off 4 data) s = .next (s.withDp { s.dp with glb := { s.dp.glb with
        accReserved := satInc 0xFF s.dp.glb.accReserved } })) ∧
    (portOpen .host s.dp = true → writesHeld s.ctl s.dp = true → inWindow off = true →
      exec (.registerWrite .host off 4 data) s = .next (s.withDp { s.dp with glb := { s.dp.glb with
        accHeld := satInc 0xFF s.dp.glb.accHeld } })) ∧
    exec (.registerWrite .sideband off 4 data) s = .next s) ∧
  (∀ s : State, portOpen .host s.dp = true → writesHeld s.ctl s.dp = false →
    (∃ t, exec .ceilCtlClear s = .next t ∧ t.dp = { s.dp with ceil := Ceil.reset } ∧
      ∀ off, off ≠ 0x80E00 → crGet t.ctl off = crGet s.ctl off) ∧
    (∀ mask, ∃ t, exec (.recClearMaskWrite mask) s = .next t ∧
      t.dp = { s.dp with rec_ := { s.dp.rec_ with clear := s.dp.rec_.clear ||| mask } } ∧
      ∀ off, off ≠ 0x40008 → crGet t.ctl off = crGet s.ctl off) ∧
    (∃ t, exec .rearm s = .next t ∧
      t.dp = { s.dp with flt := { s.dp.flt with fe := smSet none s.dp.flt.fe (rg s.ctl 0x30800 0 8) none } } ∧
      rg t.ctl 0x30800 0 8 = rg s.ctl 0x30800 0 8 ∧ ∀ off, off ≠ 0x30800 → crGet t.ctl off = crGet s.ctl off) ∧
    (∃ t, exec .snapshot s = .next t ∧ pmuFrozen t.ctl = pmuFrozen s.ctl ∧ t.dp = { s.dp with pmu := { s.dp.pmu with
        shd := s.dp.pmu.cnt, shdTime := s.dp.pmu.time, shdOvf := s.dp.pmu.ovf, snapSeq := s.dp.pmu.snapSeq + 1
        snapTime := s.dp.now } } ∧ ∀ off, off ≠ 0x2000000 → crGet t.ctl off = crGet s.ctl off) ∧
    (∃ t, exec .pmuClear s = .next t ∧ pmuFrozen t.ctl = pmuFrozen s.ctl ∧
      t.dp = { s.dp with pmu := { s.dp.pmu with cnt := [], stag := [], time := 0, ovf := [] } } ∧
      ∀ off, off ≠ 0x2000000 → crGet t.ctl off = crGet s.ctl off) ∧
    (∀ on, ∃ t, exec (.freeze on) s = .next t ∧ pmuFrozen t.ctl = on ∧ t.dp = s.dp ∧
      ∀ off, off ≠ 0x2000000 → crGet t.ctl off = crGet s.ctl off)) ∧
  (∀ (s : State) (u n : Nat) (v : BitVec 48), portOpen .host s.dp = true → writesHeld s.ctl s.dp = false → u < 24 → n < 8 →
    ∃ t, exec (.counterWrite u n v) s = .next t ∧ smGet 0 t.dp.pmu.cnt (u * 8 + n) = v ∧
      (∀ k, k ≠ u * 8 + n → smGet 0 t.dp.pmu.cnt k = smGet 0 s.dp.pmu.cnt k) ∧
      (1 ≤ u ∧ u ≤ 17 → smGet 0 t.dp.pmu.stag (u * 8 + n) = 0) ∧
      (¬ (1 ≤ u ∧ u ≤ 17) → t.dp.pmu.stag = s.dp.pmu.stag) ∧ (∀ off, crGet t.ctl off = crGet s.ctl off) ∧
      t.dp = { s.dp with pmu := { s.dp.pmu with cnt := t.dp.pmu.cnt, stag := t.dp.pmu.stag } })

/-- R56, R66, R178, R254: a read of a sector that the line cache or the merge buffer holds, with no SRAM error met, is
answered at once with that sector's value, or with poison where the sector is poisoned, and changes no line, entry or
mapping. Each of these commands is shown to complete, under hypotheses on the state and its operands alone: memrd. -/
def Obligations.HeldSectorIsAnsweredAtOnce : Prop :=
  ∀ (s : State) (hpa : BitVec 52) (a : SecAddr) (v : Sector) (p : Bool), HostReady s.dp hpa a → 0 < s.dp.hif.hr →
    0 < s.dp.hif.drs → s.dp.acc.pend = [] → s.dp.acc.reads = [] →
    (∀ x ∈ s.dp.sec.heldSectors, secLine x.addr ≠ secLine a) → heldValue s.dp a = some (v, p) →
    ∃ t, exec (.memrd hpa .ok .ok) s = .next t ∧ t.ctl = s.ctl ∧
      Out.resp s.dp.acc.nextTag (.memData a (if p then 0 else v) p) ∈ t.dp.out ∧ t.dp.acc.pend = [] ∧
      t.dp.lc.ways = s.dp.lc.ways ∧ t.dp.mrg = s.dp.mrg ∧ t.dp.map = s.dp.map

/-- R249, R254: MemInv and MemInvNT are acknowledged and touch no data. R56, R81, R249, R250: in SERVE, with its credit,
a read is accepted and probes the mapping cache and the line cache with whatever outcome their codes gave; a write is
placed and acknowledged under its tag; a partial write joins the reads at its line, or is a whole write where all 64
bytes are enabled; a speculative read only prefetches, and its credit is freed; another opcode, of either channel, is
counted and its credit freed. Each of these commands is shown to complete, under hypotheses on the state and its
operands alone: meminv, memrd, memwr, memwrptl, memspecrd, otherOpcode. -/
def Obligations.HostRequestsAreHandled : Prop :=
  (∀ (s : State) (hpa : BitVec 52) (a : SecAddr), HostReady s.dp hpa a → 0 < s.dp.hif.hr → 0 < s.dp.hif.ndr →
    s.dp.acc.pend = [] → s.dp.acc.reads = [] →
    ∃ t, exec (.meminv hpa) s = .next t ∧ t.ctl = s.ctl ∧ Out.resp s.dp.acc.nextTag (.cmp a) ∈ t.dp.out ∧
      t.dp.acc.pend = [] ∧ t.dp.lc.ways = s.dp.lc.ways ∧ t.dp.mrg = s.dp.mrg ∧ t.dp.map = s.dp.map) ∧
  (∀ (s : State) (hpa : BitVec 52) (a : SecAddr) (v : Sector) (p : Bool) (ecc mapEcc : SramEcc), HostReady s.dp hpa a →
    (0 < s.dp.hif.hr → exec (.memrd hpa ecc mapEcc) s = .next (s.withDp (acceptRead s.ctl a ecc mapEcc
      (takeReqCredit (memTrigger s.ctl s.dp))))) ∧
    (∀ d1, 0 < s.dp.hif.hw → takeRwdCredit (memTrigger s.ctl s.dp) = d1 →
      exec (.memwr hpa v p ecc) s = .next (s.withDp (commitWrite s.ctl d1.acc.nextTag a v p (noteWhole d1.acc.nextTag v p
        (holdEcc s.ctl a ecc (pmuBytes 0 64 (pmuCount s.ctl 0 0x11 1 (acceptReq s.ctl a true false false d1))))))) ∧
      exec (.memwrptl hpa v (BitVec.allOnes 64) p ecc) s = exec (.memwr hpa v p ecc) s ∧
      (∀ en, en ≠ BitVec.allOnes 64 → exec (.memwrptl hpa v en p ecc) s = .next (s.withDp (updWithhold s.ctl
        (probe s.ctl d1.acc.nextTag (holdEcc s.ctl a ecc (pmuBytes 0 64 (pmuCount s.ctl 0 0x12 1
          (addRead a (.partialWr v en p) (acceptReq s.ctl a true true false d1)))))))))) ∧
    (0 < s.dp.hif.hr → exec (.memspecrd hpa) s = .next (s.withDp (freeEntry s.ctl (prefetch s.ctl a
      (pmuCount s.ctl 0 0x21 1 (takeReqCredit (memTrigger s.ctl s.dp))))))) ∧
    (0 < s.dp.hif.hr → exec (.meminv hpa) s = .next (s.withDp
      (doInv s.ctl hpa (some a) (takeReqCredit (memTrigger s.ctl s.dp))))) ∧
    (∀ rwd d1, 0 < (if rwd then s.dp.hif.hw else s.dp.hif.hr) →
      (if rwd then takeRwdCredit (memTrigger s.ctl s.dp) else takeReqCredit (memTrigger s.ctl s.dp)) = d1 →
      exec (.otherOpcode rwd) s = .next (s.withDp (freeEntry s.ctl (pmuCount s.ctl 0 0x1D 1
        { d1 with hif := { d1.hif with badOpcode := satInc 0xFF d1.hif.badOpcode } })))))

/-- R253, R354: requests outside service. One in DORMANT is held on its credit and begins the exit; one before
Memory_Active is counted and answered outside the pool; in DRAIN it is counted, a read answered with poison, an
invalidate completed and a write neither answered nor kept; and a write in FALLOW is discarded, as any request is to
which no decoder or security state gives data. The address of an undecoded answer is the model's choice (log entry 26).
Each of these commands is shown to complete, under hypotheses on the state and its operands alone: memrd, memspecrd,
meminv, memwr, memwrptl. -/
def Obligations.RequestsOutsideServiceAreRejected : Prop :=
  ∀ (s : State) (hpa : BitVec 52) (v : Sector) (en : BitVec 64) (p : Bool) (ecc mapEcc : SramEcc), memOpen s.dp = true →
    (s.dp.hif.memActive = true → s.dp.sup.mode = .dormant →
      (0 < s.dp.hif.hr → exec (.memrd hpa ecc mapEcc) s = .next (s.withDp (hold s.ctl (.rd hpa) (takeReqCredit s.dp))) ∧
        exec (.memspecrd hpa) s = .next (s.withDp (hold s.ctl (.spec hpa) (takeReqCredit s.dp))) ∧
        exec (.meminv hpa) s = .next (s.withDp (hold s.ctl (.inv hpa) (takeReqCredit s.dp)))) ∧
      (0 < s.dp.hif.hw → exec (.memwr hpa v p ecc) s = .next (s.withDp (hold s.ctl (.wr hpa v p) (takeRwdCredit s.dp))) ∧
        (en ≠ BitVec.allOnes 64 → exec (.memwrptl hpa v en p ecc) s =
          .next (s.withDp (hold s.ctl (.wrPtl hpa v en p) (takeRwdCredit s.dp)))))) ∧
    (∀ d1, s.dp.hif.memActive = false → { s.dp with hif := { s.dp.hif with undecoded := satInc 0xFF s.dp.hif.undecoded } } = d1 →
      exec (.memrd hpa ecc mapEcc) s = .next (s.withDp (pmuCount s.ctl 0 0x1D 1 { d1 with
        out := d1.out ++ [.resp d1.acc.nextTag (.memData (hpaLine hpa) 0 true)] })) ∧
      exec (.meminv hpa) s = .next (s.withDp (pmuCount s.ctl 0 0x1D 1 { d1 with
        out := d1.out ++ [.resp d1.acc.nextTag (.cmp (hpaLine hpa))] })) ∧
      exec (.memwr hpa v p ecc) s = exec (.meminv hpa) s ∧ exec (.memwrptl hpa v en p ecc) s = exec (.meminv hpa) s ∧
      exec (.memspecrd hpa) s = .next (s.withDp (pmuCount s.ctl 0 0x1D 1 d1))) ∧
    (s.dp.hif.memActive = true → s.dp.sup.mode = .drain →
      (∀ d1, 0 < s.dp.hif.hr → pmuCount s.ctl 0 0x1D 1 { s.dp with hif := { s.dp.hif with
          hr := s.dp.hif.hr - 1, drainRej := satInc 0xFF s.dp.hif.drainRej } } = d1 →
        exec (.memrd hpa ecc mapEcc) s = .next (s.withDp (answerRejected s.ctl (hpaLine hpa) false
          (.memData (hpaLine hpa) 0 true) d1)) ∧
        exec (.meminv hpa) s = .next (s.withDp (answerRejected s.ctl (hpaLine hpa) false (.cmp (hpaLine hpa)) d1)) ∧
        exec (.memspecrd hpa) s = .next (s.withDp (freeEntry s.ctl d1))) ∧
      (0 < s.dp.hif.hw → ∃ t, exec (.memwr hpa v p ecc) s = .next t ∧ exec (.memwrptl hpa v en p ecc) s = .next t ∧
        t.dp.lc = s.dp.lc ∧ t.dp.mrg = s.dp.mrg ∧ t.dp.acc = s.dp.acc ∧
        t.dp.hif.drainRej = satInc 0xFF s.dp.hif.drainRej)) ∧
    (∀ n x, s.dp.hif.memActive = true → 0 < s.dp.hif.hw → s.dp.sup.mode = .fallow → hdmDecode s.dp hpa = some (n, x) →
      exec (.memwr hpa v p ecc) s = .next (s.withDp (answerRejected s.ctl (dpaSec x) true (.cmp (dpaSec x))
        (refuseWrite s.ctl (takeRwdCredit (memTrigger s.ctl s.dp)))))) ∧
    (s.dp.hif.memActive = true → 0 < s.dp.hif.hr → s.dp.sup.mode = .serve → hdmDecode s.dp hpa = none →
      exec (.memrd hpa ecc mapEcc) s = .next (s.withDp (answerRejected s.ctl (hpaLine hpa) false
        (.memData (hpaLine hpa) 0 true) (countUndecoded s.ctl (takeReqCredit (memTrigger s.ctl s.dp))))))

/-- R81, R162, R178: after a write hits a line in the cache, the sector holds the value written; a poisoned one holds
zeros. -/
def Obligations.WriteHitIsTheHeldValue : Prop :=
  ∀ (d : Dp) (key : Nat) (a : SecAddr) (v : Sector) (poison : Bool), findWay d (secLine a) = some key →
    heldValue (setWay key ((getWay d key).write (secIdx a) v poison d.now) d) a = some (if poison then 0 else v, poison)

/-- R98, R99, R101: after the withholding is brought up to date, RwD credits are withheld whenever the dirty contents
and the credits out exceed the ceiling or the free entries, and are not while one more would fit. R251: a credit
advertised is an RwD credit only while fewer than 256 are out, none is withheld and one more fits. -/
def Obligations.WritesAreHeldToTheCeiling : Prop :=
  (∀ (c : Ctl) (d d' : Dp), updWithhold c d = d' →
    (ceilBytes c < 64 * dSectors d + 64 * wOf d ∨ mergeFree d < wOf d → d'.hif.withheld = true) ∧
    (64 * dSectors d + 64 * (wOf d + 1) ≤ ceilBytes c → wOf d + 1 ≤ mergeFree d → d'.hif.withheld = false) ∧
    d' = { d with hif := { d.hif with withheld := d'.hif.withheld } }) ∧
  (∀ (c : Ctl) (d d' : Dp), giveCredit c d = d' → wOf d ≤ 256 →
    d'.acc = d.acc ∧ wOf d' ≤ 256 ∧ d'.hif.hr + d'.hif.hw = d.hif.hr + d.hif.hw + 1 ∧
    (d.hif.hw < d'.hif.hw → 64 * dSectors d + 64 * wOf d' ≤ ceilBytes c ∧ wOf d' ≤ mergeFree d))

/-- R49, R50, R56, R167, R202: a mirror copy's entry whose check bits are good goes into the mapping cache and on to the
read, in the order of its pseudo-channel; where the first copy's word is uncorrectable the other copy is read, and where
the second's is good it repairs both; where both fail the entry is lost. With no bit wrong the entry read is the one
stored. R49, R50: MP_2 restores a lost entry that the journal still holds: both copies and the stripe it names are as
they were, the lookups that waited for it go on, and so does what was held up by the loss. Where a change of the entry
has been pinned meanwhile the change stands, and the page is lost no more. Each of these commands is shown to complete,
under hypotheses on the state and its operands alone: mappingReadReturn, mapEntryRestore. -/
def Obligations.MappingReadsReturn : Prop :=
  (∀ (s : State) (tag : Nat) (err : BitVec 288) (r : Read) (copyB second : Bool) (p pc : Nat) (x : Nat × Nat × Nat × Nat)
      (d1 : Dp), (readTurn s.dp tag = false → exec (.mappingReadReturn tag err) s = .next s) ∧
    (readTurn s.dp tag = true → findRead (readOver s.ctl tag s.dp) tag = some r → r.phase = .map copyB second →
      p = (linePage (secLine r.line)).toNat → x = entryPos (readOver s.ctl tag s.dp) p →
      pc = (if copyB then partner x.1 else x.1) → d1 = pmuBytes (19 + pc / 4) 32 (readOver s.ctl tag s.dp) →
      cacheLine d1 p = none →
      mapRead d1 copyB p 0 = (.good, smGet 0 (if copyB then d1.map.copyB else d1.map.copyA) p) ∧
      (second = false → (mapRead d1 copyB p err).1 = .good → exec (.mappingReadReturn tag err) s = .next (s.withDp
        (afterMap s.ctl tag (mapRead d1 copyB p err).2 (cacheEntry p (mapRead d1 copyB p err).2 d1)))) ∧
      (second = false → (mapRead d1 copyB p err).1 = .uncorrectable →
        ∃ t, exec (.mappingReadReturn tag err) s = .next t ∧ t.dp.map = d1.map ∧
          findRead t.dp tag = (findRead d1 tag).map (fun y => { y with phase := .map (!copyB) true })) ∧
      (second = true → (mapRead d1 copyB p err).1 = .good → exec (.mappingReadReturn tag err) s = .next (s.withDp
        (afterMap s.ctl tag (mapRead d1 copyB p err).2 (cacheEntry p (mapRead d1 copyB p err).2 (postWrite 2 (partner pc) x.2.1 x.2.2.1
          x.2.2.2 (corrVolatile { d1 with map := { d1.map with
                                         copyA := smSet 0 d1.map.copyA p (mapRead d1 copyB p err).2
                                         copyB := smSet 0 d1.map.copyB p (mapRead d1 copyB p err).2 } })))))) ∧
      (second = true → (mapRead d1 copyB p err).1 = .uncorrectable →
        ∃ d2, d2 = raise (0x20 + pc) 0x21 (hbmAddr x.2.1 x.2.2.1 x.2.2.2) 0 0 0 d1 ∧
          exec (.mappingReadReturn tag err) s = .next (s.withDp (afterMap s.ctl tag 0 (loseEntry p d2)))))) ∧
  (∀ (s : State) (page : Page) (e : BitVec 64), page.toNat ∈ s.dp.map.lost → s.dp.que.mps.getD 2 1 = 0 →
    (((cacheLine s.dp page.toNat).any (·.pinned)) = true → exec (.mapEntryRestore page) s = .next (s.withDp
      { s.dp with map := { s.dp.map with lost := s.dp.map.lost.filter (· ≠ page.toNat) } })) ∧
    (((cacheLine s.dp page.toNat).any (·.pinned)) = false → journalEntry s.dp page.toNat = some e →
      ∃ d1, exec (.mapEntryRestore page) s = .next (s.withDp (moveOn s.ctl (checkFull s.ctl page (relaunchPage s.ctl page d1)))) ∧
        d1.map = { s.dp.map with
          lost := s.dp.map.lost.filter (· ≠ page.toNat), copyA := smSet 0 s.dp.map.copyA page.toNat e
          copyB := smSet 0 s.dp.map.copyB page.toNat e
          stranded := s.dp.map.stranded.filter (· ≠ (entryStripe e).toNat) } ∧
        d1 = { s.dp with map := d1.map, hbm := { s.dp.hbm with wait := d1.hbm.wait } }))

/-- R59, R60, R231: a direct sector that arrives with at most a double correction and a good CRC is decrypted and
answered; any other, and one that does not arrive, escalates. R60, R64, R166: the codeword of an escalation that decodes
answers its read, is counted by class and as a corrected persistent error; a reconstruction that decodes answers its
read likewise, and a cold one is not counted as corrected. Each of these commands is shown to complete, under hypotheses
on the state and its operands alone: sectorReturn, absentBurst, codewordReturn, reconstruction. -/
def Obligations.SectorsAndCodewordsAnswer : Prop :=
  (∀ (s : State) (tag : Nat) (r : Read) (m : Mop) (raw : BitVec 576) (d1 : Dp), findRead s.dp tag = some r →
    issuedMop s.dp (fun k => match k with | .sector t _ => t = tag | _ => false) = some m →
    (∀ (inner : BitVec 3), inner.toNat ≤ 2 → d1 = burstIn s.ctl m 72 0
        (modRead tag (fun x => { x with ret := some s.dp.now }) (dropMops (· = m) s.dp)) →
      exec (.sectorReturn tag raw inner (slotCrc raw inner)) s = .next (s.withDp (finishRead s.ctl tag
        (xtsSectorInv (slotKeys s.dp r.slot) (secLine r.line) (secIdx r.line) (burstData raw)) ((burstSlice raw).getLsbD 15)
        (pmuCount s.ctl 22 0x11 1 d1)))) ∧
    (∀ (inner : BitVec 3) (crc : BitVec 16), (3 ≤ inner.toNat ∨ slotCrc raw inner ≠ crc) →
        d1 = burstIn s.ctl m 72 (if slotCrc raw inner = crc then 0 else 1)
        (modRead tag (fun x => { x with ret := some s.dp.now }) (dropMops (· = m) s.dp)) →
      exec (.sectorReturn tag raw inner crc) s = .next (s.withDp (escalate s.ctl tag d1))) ∧
    (∀ (k sec : Nat), absentMop s.dp k m.id = some m → m.kind = .sector tag sec →
      exec (.absentBurst k m.id) s = .next (s.withDp (escalate s.ctl tag (dropMops (fun x => x.id = m.id)
        (queueSts k (setWarp m.set) (modChan k (fun x => { x with absent := satInc 0xFF x.absent }) s.dp))))))) ∧
  (∀ (s : State) (tag : Nat) (r : Read), findRead s.dp tag = some r → r.kind = .host →
    (∀ (m : Mop) (raw : Burst) (dec : Decoded) (d2 : Dp), r.phase = .media →
      issuedMop s.dp (· = .codeword tag) = some m → dec = outerDecode raw.image (wantLabel s.dp (secLine r.line) raw.image) →
      dec.cls.good = true →
      d2 = modRead tag (fun x => { x with cwOut := false, ret := some s.dp.now, decode := some s.dp.now }) (countOut dec.cls
        (cwIn s.ctl m raw (dropMops (· = m) s.dp))) →
      exec (.codewordReturn tag raw) s = .next (s.withDp (finishCodeword s.ctl tag dec.image
        (dropPeers tag (afterCorrected s.ctl (readPlace r).1 (readPlace r).2 dec.cls.bits (readMaster s.dp tag)
          (corrPersistent d2)))))) ∧
    (∀ (peers : List Burst) (i : Image) (dec : Decoded) (d1 : Dp), r.peersOut = true → r.escalated = false →
      (∀ m ∈ s.dp.mops, ∀ h, m.kind = .peer tag h → m.issued.isSome = true) →
      i = rebuildImage s.dp (readPlace r).1 (readPlace r).2 (peers.map (·.image)) →
      dec = outerDecode i (wantLabel s.dp (secLine r.line) i) → dec.cls.good = true →
      d1 = countOut dec.cls (modRead tag (fun x => { x with
          ret := some (x.ret.getD s.dp.now), recon := some s.dp.now, peersOut := false })
        (arrivals s.ctl (readPlace r).1 (burstOf (readPlace r).2 {} peers)
          (s.dp.mops.filter fun m => match m.kind with | .peer t _ => t = tag | _ => false)
          (dropMops (fun m => match m.kind with | .peer t _ => t = tag | _ => false) s.dp))) →
      exec (.reconstruction tag peers) s = .next (s.withDp (finishCodeword s.ctl tag dec.image (cancelCodeword tag d1)))))

/-- R65, R226, R230, R231: a good ready frame ends the programme of its partition: verified, failed, abandoned where a
reset was out, or discarded by the package, which its status will tell more of. A frame with bad parity is the overrun
of its partition, and one of a package that is isolated changes nothing. The bits of a frame, and the overrun that a bad
one is, are the model's readings (log entries 43 and 125). Each of these commands is shown to complete, under hypotheses
on the state and its operands alone: readyFrame. -/
def Obligations.ReadyFramesEndProgrammes : Prop :=
  ∀ (s : State) (k w : Nat) (f : BitVec 10) (t set : Nat), k < 17 → w < 4 → set = 32 * w + framePart f →
    (unitIsolated s.dp k w = true → exec (.readyFrame k w f t) s = .next s) ∧
    (unitIsolated s.dp k w = false →
      (frameOk f = false → exec (.readyFrame k w f t) s =
        exec (if (resetOut s.dp k set).isSome then .resetOverrun k set else .programmeOverrun k set) s) ∧
      (∀ p, frameOk f = true → flyingProg s.dp k set = some p →
        (frameResult f = .verified → exec (.readyFrame k w f t) s = .next (s.withDp (progVerified s.ctl p (dropResets p.id
          (pmuCount s.ctl (1 + k) 0x12 1 (recHist (2 + k) (tprgBucket t) t s.dp)))))) ∧
        (frameResult f = .verifyFailed → exec (.readyFrame k w f t) s = .next (s.withDp (progFailed s.ctl p (dropResets p.id
          (pmuCount s.ctl (1 + k) 0x13 1 (recHist (2 + k) 14 t s.dp)))))) ∧
        (frameResult f = .discarded → p.st = .granted → flyingProg (modChan k (fun x => { x with stuck := false }) s.dp) k set = some p →
          exec (.readyFrame k w f t) s = .next (s.withDp (dropResets p.id (modProg p.id (fun x => { x with told := true })
            (recHist (2 + k) 15 t (modChan k (fun x => { x with stuck := false }) s.dp))))))) ∧
      (∀ m p, frameOk f = true → frameResult f = .resetDone → resetOut s.dp k set = some m →
        (s.dp.mrg.progs.find? fun p => p.chan = k && p.set = set && (p.st = .resetting || p.st = .overrun)) = some p →
        p.st = .resetting → exec (.readyFrame k w f t) s = .next (s.withDp (pmuCount s.ctl (1 + k) 0x14 1
          (modProg p.id (fun x => { x with st := .pending, abandoned := true }) (dropMops (· = m) (endRecovery k set s.dp)))))))

/-- R75, R231, R232, R325: a programme overrun puts a partition reset first at its channel; a reset overrun is reported,
and the reads at its partition become fault reads; ALERT_N starts a round of STS; each status response counts toward the
end of the round; a watchdog that expires after 10 µs without a sign of life isolates its channel, and progress restarts
it. The end of a round of STS is the model's reading (log entry 29). Each of these commands is shown to complete, under
hypotheses on the state and its operands alone: programmeOverrun, resetOverrun, alertN, stsResponse, watchdog,
progressTick. -/
def Obligations.ChannelFaultsAreHandled : Prop :=
  ∀ (s : State) (k : Nat),
    (∀ (set : Nat) (p : Prog), flyingProg s.dp k set = some p → p.st = .granted → p.told = false →
      ∃ t m, exec (.programmeOverrun k set) s = .next t ∧ t.ctl = s.ctl ∧ t.dp.mops.head? = some m ∧ m.kind = .reset p.id ∧
        m.chan = k ∧ m.set = set) ∧
    (∀ (set : Nat) (m : Mop), resetOut s.dp k set = some m → exec (.resetOverrun k set) s = .next (s.withDp
      (raise k 0x11 0 (setWarp set) 0xFF 4 (beginRecovery k set
        (modChan k (fun x => { x with overruns := satInc 0xFF x.overruns }) s.dp))))) ∧
    (k < 17 → (chanOf s.dp k).isolated = false → (chanOf s.dp k).stuck = false →
      exec (.alertN k) s = .next (s.withDp (stsAll k (pmuCount s.ctl (1 + k) 0x1C 1 (modChan k (fun x =>
        { x with alerts := satInc 0xFF x.alerts, alertLow := true, stsRound := 1 }) s.dp))))) ∧
    (∀ (w : Nat) (m : Mop) (x : ShortBurst) (low : Bool) (d1 : Dp),
      (s.dp.mops.find? fun m => m.chan = k && m.kind = .status w && m.issued.isSome) = some m →
      d1 = track k w (dropMops (· = m) s.dp) →
      (x.absent = true → exec (.stsResponse k w x low) s = .next (s.withDp (alertRound k low (raise k 0x11 0 w 0xFF 0
        (modChan k (fun x => { x with absent := satInc 0xFF x.absent }) (dropMops (· = m) s.dp)))))) ∧
      (x.absent = false → shortOk x = false → exec (.stsResponse k w x low) s = .next (s.withDp
        (queueSts k w (slotFails s.ctl k 0xFF d1)))) ∧
      (x.absent = false → shortOk x = true → exec (.stsResponse k w x low) s = .next (s.withDp (alertRound k low
        (stsCauses s.ctl k w x.bytes (m.issued.getD 0) d1))))) ∧
    (k < 17 → (chanOf s.dp k).isolated = false → engineBusy s.dp k = true → 10000 ≤ elapsed (chanOf s.dp k).tick s.dp.now →
      ∃ x, x = isolateCounted k true 0 s.ctl (raise k 0x10 0 0 0xFF 7
          { s.dp with flt := { s.dp.flt with wdog := setBit s.dp.flt.wdog k } }) ∧
        exec (.watchdog k) s = .next { s with ctl := x.1, dp := x.2 }) ∧
    (engineBusy s.dp k = true → exec (.progressTick k) s = .next (s.withDp (modChan k (Chan.alive s.dp.now) s.dp)))

/-- R27, R28, R63, R95, R154, R229, R235: the issue port grants the first registered requester, in the order of its
ring, whose DQ slots are free, and the ones it passes over keep their place; a set's programming right visits the next
channel in service; and the periodic checks queue their commands. Each of these commands is shown to complete, under
hypotheses on the state and its operands alone: issuePortDecision, programmingRight, programmingRightHoldEnd,
writeEyeCheck, tmpPeriod. -/
def Obligations.ChannelPortsAndRightsRotate : Prop :=
  ∀ s : State,
    (∀ (k : Nat) (hbm : List (BitVec 288)), exec (.issuePortDecision k hbm) s = .next (s.withDp
      (withHbm hbm (fun c d => portDecides c k d) s.ctl s.dp))) ∧
    (∀ (k r : Nat) (d d1 : Dp), d = pruneMops s.dp → k < 17 → (chanOf d k).isolated = false → (chanOf d k).ck = true →
      modChan k (fun x => afterDecision d k (some r) (Chan.alive d.now x)) d = d1 →
      (∀ m, ringWinner d k = some (r, .mop m) → portDecides s.ctl k s.dp = grantMop s.ctl m d1) ∧
      (∀ p, ringWinner d k = some (r, .prog p) → portDecides s.ctl k s.dp = grantProg s.ctl p d1) ∧
      (ringWinner d k = none → ringOffers d k ≠ [] → portDecides s.ctl k s.dp = modChan k (afterDecision d k none) d)) ∧
    (∀ (set k' : Nat), set < stripeSets (cfgN s.dp) → lifted s.dp = false →
      rightHeld s.dp set (smGet 0 s.dp.mrg.right set) = false → k' = nextHolder s.dp set (smGet 0 s.dp.mrg.right set) →
      ∃ t, exec (.programmingRight set) s = .next t ∧ t.ctl = s.ctl ∧ smGet 0 t.dp.mrg.right set = k' ∧
        (∀ j, j ≠ set → smGet 0 t.dp.mrg.right j = smGet 0 s.dp.mrg.right j) ∧ t.dp.mrg.entries = s.dp.mrg.entries) ∧
    (∀ set, exec (.programmingRightHoldEnd set) s = .next (s.withDp { s.dp with mrg := { s.dp.mrg with
      holdUntil := smErase s.dp.mrg.holdUntil set } })) ∧
    (∀ (k w : Nat) (drift : List (BitVec 6)), rb s.ctl (0x200000 + 0x10000 * k) 0 = true → serving s.dp = true →
      pkgLive s.dp k w = true → exec (.writeEyeCheck k w drift) s = .next (s.withDp (queueStatus k w (.train w 3 drift) s.dp))) ∧
    (∀ k, serving s.dp = true → exec (.tmpPeriod k) s = .next (s.withDp ((List.range 4).foldl
      (fun d w => if pkgAnswers d k w then queueStatus k w (.temperature w) d else d) s.dp)))

/-- R47, R88, R89: at its merge hold an incomplete entry takes its missing sectors from the earlier sealed entry of its
slot, from zeros where its page is unmapped, by reading its slot, or as poison where its slot can be neither read nor
rebuilt; a complete one is sealed and launched. What the codes of the words found say is done first. R60, R88, R92,
R164, R169: the codeword read for an entry, or what its peers give in its place, fills its missing sectors and the entry
is sealed and launched; a parity delta closes at its age; and the old parity that returns with a good decode, or the
members it is recomputed from, give the parity image that is then programmed, whatever the delta's codes said. Each of
these commands is shown to complete, under hypotheses on the state and its operands alone: mergeHoldExpiry,
readModifyWriteReturn, deltaAgeExpiry, oldParityReadReturn. -/
def Obligations.MergeEntriesFillAndClose : Prop :=
  (∀ (s : State) (id : Nat) (held : List HeldEcc) (d : Dp) (e : MEntry) (m : BitVec 64) (st : Stripe) (k : Nat),
    d = heldEccs s.ctl held s.dp → findEntry d id = some e → serving d = true → e.reading = false → pageLost d (linePage e.line).toNat = false →
    m = curEntry d (linePage e.line).toNat → st = entryStripe m → k = posChan (stripeRow st) (linePos e.line) →
    (e.st ≠ .assembling → exec (.mergeHoldExpiry id held) s = .next (s.withDp (launchEntry s.ctl id d))) ∧
    (e.st = .assembling → e.sv = 0xF →
      exec (.mergeHoldExpiry id held) s = .next (s.withDp (launchEntry s.ctl id (sealEntry s.ctl id d)))) ∧
    (∀ x, e.st = .assembling → e.sv ≠ 0xF → earlierEntry d e = some x → x.st ≠ .assembling →
      exec (.mergeHoldExpiry id held) s =
        .next (s.withDp (launchEntry s.ctl id (sealEntry s.ctl id (fillEntry s.ctl e (some x.image) d))))) ∧
    (e.st = .assembling → e.sv ≠ 0xF → earlierEntry d e = none →
      (entryValid m = false → exec (.mergeHoldExpiry id held) s =
        .next (s.withDp (launchEntry s.ctl id (sealEntry s.ctl id (fillZero e d))))) ∧
      (entryValid m = true → unavailable d st k = true → reconstructable d st k = false →
        exec (.mergeHoldExpiry id held) s =
          .next (s.withDp (launchEntry s.ctl id (sealEntry s.ctl id (fillEntry s.ctl e none d))))) ∧
      (entryValid m = true → (unavailable d st k = false ∨ reconstructable d st k = true) →
        exec (.mergeHoldExpiry id held) s = .next (s.withDp (queueRmw s.ctl e d))))) ∧
  ((∀ (s : State) (id : Nat) (e : MEntry) (raw : Burst) (peers : List Burst) (k : Nat) (st : Stripe) (b : Back) (d0 d1 : Dp),
    findEntry s.dp id = some e → e.reading = true → allIssued s.dp (.rmw id) = true →
    st = entryStripe (curEntry s.dp (linePage e.line).toNat) → k = posChan (stripeRow st) (linePos e.line) →
    d0 = (takeMops (.rmw id) s.dp).2 → backRead s.ctl st k (takeMops (.rmw id) s.dp).1 raw peers d0 = (b, d1) →
    (∀ m, takeMops (.rmw id) s.dp = ([m], d0) → memberLoc d0 st k = some (m.set, m.row, m.chan) → m.absent = false →
      (backDecode d0 st k raw.image).cls.good = true → b = .got (backDecode d0 st k raw.image).image) ∧
    (b ≠ .peers → exec (.readModifyWriteReturn id raw peers) s = .next (s.withDp (moveOn s.ctl (launchEntry s.ctl id
      (sealEntry s.ctl id (fillEntry s.ctl e b.image d1)))))) ∧
    (b = .peers → exec (.readModifyWriteReturn id raw peers) s = .next (s.withDp (queuePeerReads s.ctl (.rmw id) st k
      (curEntry s.dp (linePage e.line).toNat) d1)))) ∧
  (∀ (s : State) (st : Stripe) (x : Delta), serving s.dp = true →
    (s.dp.mrg.deltas.find? fun x => x.stripe = st && !x.closed) = some x →
    exec (.deltaAgeExpiry st) s = .next (s.withDp (closeDelta s.ctl 0x17 x s.dp))) ∧
  (∀ (s : State) (st : Stripe) (x : Delta) (raw : Burst) (members : List Burst) (ecc : WordEcc) (d0 d1 : Dp),
    d0 = deltaEcc s.ctl st ecc s.dp → (d0.mrg.deltas.find? fun x => x.stripe = st && x.closed && x.reading) = some x →
    allIssued d0 (.oldParity x.id) = true → (∀ m ∈ (takeMops (.oldParity x.id) d0).1, m.absent = false) →
    d1 = arrivals s.ctl st (parityBurst st raw members) (takeMops (.oldParity x.id) d0).1 (takeMops (.oldParity x.id) d0).2 →
    (x.recompute = false → (outerDecode raw.image parityLabel).cls.good = true →
      exec (.oldParityReadReturn st raw members ecc) s =
        .next (s.withDp (pokeRewrites s.ctl
          (queueParity x.id st ((outerDecode raw.image parityLabel).image ^^^ x.delta) d1)))) ∧
    (∀ is, x.recompute = true → (∀ m ∈ (takeMops (.oldParity x.id) d0).1, m.chan ≠ parityChan (stripeRow st)) →
      memberImages d0 st (members.map (·.image)) = some is → exec (.oldParityReadReturn st raw members ecc) s =
        .next (s.withDp (pokeRewrites s.ctl
          (queueParity x.id st (xorImages is) (noteMembers d0 st (members.map (·.image)) d1)))))))

/-- R50, R203: the write of a page's entry into a copy of the table is an entry of the HBM queue, and its
acknowledgement comes when that entry was issued: of copy B after copy A it makes the oldest change of the line durable
in both copies: the change leaves the line and is the newest record of the change-stripe buffers. Of copy A alone it
leaves the changes of the line and has the write of copy B queued. Without such an entry nothing changes. R51, R107,
R109, R169: a change-stripe buffer becomes the next change stripe and owes a checkpoint stripe, which in service is paid
at once; a checkpoint stripe takes the next 496 entries of the table; and a removed stripe whose change is durable, 40
µs old and with nothing of its row outstanding waits no longer. Each of these commands is shown to complete, under
hypotheses on the state and its operands alone: copyWriteAcknowledged, changeStripeBufferWrite, checkpointStripe,
stripeRelease. -/
def Obligations.MappingChangesAreJournalled : Prop :=
  (∀ (s : State) (page : Page) (copyB : Bool),
    ((∀ e ∈ s.dp.hbm.queue, ¬ (e.use = .mapWrite page.toNat copyB ∧ e.issued = true)) →
      exec (.copyWriteAcknowledged page copyB) s = .next s) ∧
    (∀ (m : MapLine) (no : Nat) (v : BitVec 64) (more : List (Nat × BitVec 64)), cacheLine s.dp page.toNat = some m →
      m.chgs = (no, v) :: more → (∃ e ∈ s.dp.hbm.queue, e.use = .mapWrite page.toNat copyB ∧ e.issued = true) →
      (copyB = true → m.ackA = true → ∃ t, exec (.copyWriteAcknowledged page copyB) s = .next t ∧ t.ctl = s.ctl ∧
        smGet 0 t.dp.map.copyB page.toNat = v ∧
        bufferedChgs t.dp = bufferedChgs s.dp ++ [.entry no (BitVec.ofNat 31 page.toNat) v] ∧
        (∀ y ∈ t.dp.map.cache, y.page = page.toNat → y.chgs = more)) ∧
      (copyB = false → m.ackB = false → ∃ t, exec (.copyWriteAcknowledged page copyB) s = .next t ∧ t.ctl = s.ctl ∧
        smGet 0 t.dp.map.copyA page.toNat = v ∧ t.dp.jrn = s.dp.jrn ∧
        (∀ y ∈ t.dp.map.cache, y.page = page.toNat → y.chgs = m.chgs ∧ y.ackA = true)))) ∧
  (∀ s : State,
    (∀ (ecc : WordEcc) (d1 : Dp), d1 = wordEcc s.ctl 0x58 0x26 1024 ecc s.dp → journalOpen d1 = true →
      exec (.changeStripeBufferWrite ecc) s =
        .next (s.withDp (if serving d1 then payOwed (writeChange d1) else writeChange d1)) ∧
      (d1.jrn.full ≠ [] → d1.jrn.open_ = [] → d1.jrn.late = [] → writeChange d1 = appendStripe (.change d1.jrn.full)
        { d1 with jrn := { d1.jrn with full := [], open_ := [], late := [], owed := d1.jrn.owed + 1 } })) ∧
    (journalOpen s.dp = true → serving s.dp = true → s.dp.jrn.ckptNext ≠ 0 →
      (∀ p ∈ s.dp.map.lost, p < s.dp.jrn.ckptNext ∨ s.dp.jrn.ckptNext + 496 ≤ p) →
      s.dp.jrn.ckptNext + 496 < hostPages (cfgN s.dp) → ∃ d, d = appendStripe (.checkpoint s.dp.jrn.ckptNext
        ((List.range 496).map fun i => curEntry s.dp (s.dp.jrn.ckptNext + i))) s.dp ∧ exec .checkpointStripe s =
      .next (s.withDp { d with jrn := { d.jrn with owed := d.jrn.owed - 1, ckptNext := s.dp.jrn.ckptNext + 496 } })) ∧
    (∀ (st : Stripe) (w : Waiting), (s.dp.map.waiting.find? fun w => w.stripe = st) = some w →
      numDurable s.dp w.chg = true → 40000 ≤ elapsed w.since s.dp.now →
      (∀ x ∈ s.dp.mrg.deltas, x.stripe ≠ st) → (∀ p ∈ s.dp.mrg.progs, p.set = stripeSet st → p.row ≠ stripeRow st) →
      ∃ d1, d1 = { s.dp with map := { s.dp.map with waiting := s.dp.map.waiting.filter fun x => x.stripe ≠ st } } ∧
        (w.retire = none → exec (.stripeRelease st) s = .next (s.withDp (hbmPost 2 .bitmap st.toNat d1))) ∧
        (∀ chan, w.retire = some chan → exec (.stripeRelease st) s = .next (s.withDp (markRetired st chan d1)))))

/-- R120 to R122, R141, R168: the first queued work that can begin, by priority, is begun, and the HBM words it reads
are taken by what their codes say; a rewrite's source codeword that decodes is programmed unchanged at its position; and
a harrow read that decodes below the rewrite threshold ends with the lap check. R85, R97: with a reason to work the
cleaner copies out the page of the oldest dirty line; a stream tracker that ends is freed, and no other tracker is.
Peers that come with the row are the model's choice (log entry 47). Each of these commands is shown to complete, under
hypotheses on the state and its operands alone: backgroundWork, rewriteCopyReturn, harrowReadReturn, cleaner, streamEnd.
-/
def Obligations.BackgroundWorkAndCleaningGoOn : Prop :=
  (∀ s : State,
    (∀ hbm, exec (.backgroundWork hbm) s = .next (s.withDp (withHbm hbm backgroundStep s.ctl s.dp))) ∧
    (∀ (p : Nat) (d : Dp), serving s.dp = true → p < 7 → takeWork s.ctl p s.dp = some d →
      (∀ q < p, takeWork s.ctl q s.dp = none) → exec (.backgroundWork []) s =
        .next (s.withDp { d with hbm := { d.hbm with touched := [] } })) ∧
    (∀ (page : Page) (r : Rewrite) (j k : Nat) (raw : Burst) (i : Image) (peers : List Burst) (d1 : Dp),
      findRewrite s.dp page = some r → allIssued s.dp (.copy page) = true → nextCopy r = some j → k = posChan (stripeRow r.src) j →
      backRead s.ctl r.src k (takeMops (.copy page) s.dp).1 raw peers (takeMops (.copy page) s.dp).2 = (.got i, d1) →
      exec (.rewriteCopyReturn page raw peers) s = .next (s.withDp (advanceRewrite s.ctl advFuel page
        (programmeCopy page j i (if r.inPlace then d1 else installCodeword s.ctl 2 (pageLine page j) i d1))))) ∧
    (∀ (k x : Nat) (m : Mop) (raw : Burst) (peers : List Burst) (st : Stripe) (o : Option Nat) (dec : Decoded),
      (s.dp.mops.find? fun m => m.chan = k && isScan m && m.issued.isSome) = none →
      (s.dp.mops.find? fun m => m.chan = k && m.kind.isHarrow && m.issued.isSome) = some m →
      m.kind = .harrow st x o → stripeOwner s.dp st = o → m.absent = false → dec = backDecode s.dp st x raw.image →
      dec.cls.good = true → dec.cls.bits < rg s.ctl 0xE0500 16 8 → lowMargin raw.inner = false →
      exec (.harrowReadReturn k raw peers) s =
        .next (s.withDp (lapCheck s.ctl (cwIn s.ctl m raw (dropMops (· = m) s.dp)))))) ∧
  (∀ s : State,
    (∀ held d k, d = heldEccs s.ctl held s.dp → serving d = true → oldestDirty d = some k →
      cleanDue s.ctl d k = true → exec (.cleaner held) s =
        .next (s.withDp (updWithhold s.ctl (cleanPage s.ctl (linePage (lineOfWay k (getWay d k))) d)))) ∧
    (∀ t, ∃ u, exec (.streamEnd t) s = .next u ∧ u.ctl = s.ctl ∧
      (∀ x, x ∈ u.dp.lc.trackers ↔ x ∈ s.dp.lc.trackers ∧ x.id ≠ t) ∧ u.dp.lc.ways = s.dp.lc.ways))

/-- R129, R132, R142, R148, R174: a hot or cold page is queued for a tilling move at priority 5; the horizon tick adds
one to the horizon; a lap past its limit is reported; the rebuild cursors reach their record; and old entries of the
recurring-correction table are freed. R195, R200, R206 to R208: a REFpb slot that is due advances its rotation and no
other, and its command is the next in its queue; every fourth slot issues an RFM that is asked for; the table clear
empties both activation tables; pacing of one requester ends, with the counts that led to it; and a parity error of the
stack is reported. The grain of the refresh slots is the model's choice (log entry 24). Each of these commands is shown
to complete, under hypotheses on the state and its operands alone: tillingMove, horizonTick, harrowOverLimit,
rebuildCursorWrite, rctAgeExpiry, refreshSlot, activationTableClear, pacingEnd, hbmCaParity. -/
def Obligations.HealthAndHbmTimersAct : Prop :=
  (∀ s : State,
    (∀ page : Page, rb s.ctl 0xE0200 31 = true → s.dp.sup.mode = .serve → 0 < spare s.dp → s.dp.mh.rebActive = false →
      entryValid (curEntry s.dp page.toNat) = true →
      (s.dp.mh.moveAt.filter fun t => elapsed t s.dp.now < 1000000000).length < rg s.ctl 0xE0200 24 7 * 1000 →
      (pageHot s.ctl s.dp page.toNat = true ∨ pageCold s.ctl s.dp page.toNat = true) →
      ∃ t, exec (.tillingMove page) s = .next t ∧ t.ctl = s.ctl ∧
        (∃ w ∈ t.dp.mh.work, w.kind = .till page (pageHot s.ctl s.dp page.toNat) ∧ w.prio ≤ 5)) ∧
    (s.dp.sup.mode ≠ .off → ∃ t, exec .horizonTick s = .next t ∧ t.ctl = s.ctl ∧ t.dp.mh.now = s.dp.mh.now + 1) ∧
    (serving s.dp = true → s.dp.mh.lapSaid = false → exec .harrowOverLimit s = .next (s.withDp
      (raise 0x5B 0x33 0 0 0x03 noAccess (lapCheck s.ctl { s.dp with mh := { s.dp.mh with overLimit := true, lapSaid := true } })))) ∧
    (exec .rebuildCursorWrite s = .next (s.withDp (modDev 35 (fun r => { r with cursors := s.dp.mh.cursors }) s.dp))) ∧
    (∃ t, exec .rctAgeExpiry s = .next t ∧ t.ctl = s.ctl ∧ (∀ e, e ∈ t.dp.cod.rct ↔ e ∈ s.dp.cod.rct ∧
      elapsed e.last s.dp.now ≤ rg s.ctl 0xE0700 8 8 * 3600000000000))) ∧
  (∀ s : State,
    (∀ (pc delay n : Nat) (d1 : Dp), pc < 32 → (s.dp.hbm.state = 1 ∨ s.dp.hbm.state = 3) → slotTurn s.dp pc = true →
      n = (smGet 0 s.dp.hbm.slot pc + 1) % 64 →
      d1 = { s.dp with hbm := { s.dp.hbm with
        slot := smSet 0 s.dp.hbm.slot pc n, slotAt := smSet 0 s.dp.hbm.slotAt pc s.dp.now } } →
      (n % 4 ≠ 3 → exec (.refreshSlot pc delay) s = .next (s.withDp
        (hbmServe s.ctl (pmuCount s.ctl 20 0x14 1 (placeRefresh pc (n - n / 4) delay d1))))) ∧
      (n % 4 = 3 → rfmPick d1 pc n 0 = none → exec (.refreshSlot pc delay) s = .next (s.withDp (hbmServe s.ctl d1))) ∧
      (∀ x, n % 4 = 3 → rfmPick d1 pc n 0 = some x → exec (.refreshSlot pc delay) s = .next (s.withDp
        (hbmServe s.ctl (pmuCount s.ctl 20 0x15 1 (placeRefresh pc x.2.1 delay { d1 with hbm := { d1.hbm with
          rfm := d1.hbm.rfm.filter (· ≠ x), rfmCount := satInc 0xFFFFF d1.hbm.rfmCount } })))))) ∧
    (exec .activationTableClear s = .next (s.withDp { s.dp with hbm := { s.dp.hbm with hostAct := [], bgAct := [] } })) ∧
    (∀ pc r : Nat, ∃ d1, exec (.pacingEnd pc r) s = .next (s.withDp (hbmServe s.ctl d1)) ∧
      d1 = { s.dp with hbm := { s.dp.hbm with paced := d1.hbm.paced, bgAct := d1.hbm.bgAct } } ∧
      (∀ x, x ∈ d1.hbm.paced ↔ x ∈ s.dp.hbm.paced ∧ ¬ (x.pc = pc ∧ x.req = r)) ∧
      (∀ a, a ∈ d1.hbm.bgAct ↔ a ∈ s.dp.hbm.bgAct ∧
        ¬ ∃ x ∈ s.dp.hbm.paced, x.pc = pc ∧ x.req = r ∧ a.pc = pc ∧ a.bank = x.bank ∧ a.row = x.row)) ∧
    (∀ pc, pc < 32 → s.dp.hbm.state ≠ 0 →
      exec (.hbmCaParity pc) s = .next (s.withDp (raise (0x20 + pc) 0x22 0 0 0xFF 5 s.dp))))

/-- R345, R349, R350, R378, R436: applying VDD_AUX resets every register and loads both attempt counts; RISE starts from
OFF when its conditions hold, the lock cleared and a power cycle counted, and reads the parameter store, each page and
each counter that a decode corrected counted; each used rail's enable goes high at its on-step; and the last power-good
completes the power-up sequence. Counter 1 at the start of RISE is the model's reading (log entry 58). Each of these
commands is shown to complete, under hypotheses on the state and its operands alone: vddAuxApplied, riseStart,
railOnStep, powerGoodWindowEnd. -/
def Obligations.SupervisorRaisesTheRails : Prop :=
  ∀ s : State,
    (∀ t31 : BitVec 16, s.dp.sup.aux = false → ∃ t, exec (.vddAuxApplied t31) s = .next t ∧ t.ctl.cr = [] ∧
      t.ctl.cfgLocked = false ∧ t.ctl.cnt = s.ctl.cnt ∧ t.dp.sup.aux = true ∧ t.dp.sup.mode = .off ∧
      t.dp.sup.thermLatch = decide (380 ≤ t31.toInt) ∧ t.dp.sec.userLeft = 5 ∧ t.dp.sec.masterLeft = 5 ∧
      (s.dp.pst.writes = [] → t.dp.pst.slots = s.dp.pst.slots)) ∧
    (∀ l : List PstErr, mayRise s.ctl s.dp = true → ∃ t x, exec (.riseStart l) s = .next t ∧
      t.ctl = cntInc 1 (storeRead x).1 ∧ t.dp = (storeRead x).2 ∧ x.2.pst.corrected = 0 ∧
      (l = [] → x.1.cnt = s.ctl.cnt) ∧ t.ctl.cfgLocked = false ∧ t.dp.sup.mode = .rise ∧ t.dp.sup.cause = s.dp.sup.startCause ∧
      t.dp.sup.upActive = true ∧ t.dp.sup.enabled = 0 ∧ t.dp.glb.riseStep = 0) ∧
    (storeRead (s.ctl, s.dp)).2.pst.corrected = s.dp.pst.corrected + ((List.range 48).filter (pageMends s.dp)).length +
      ((List.range 32).filter fun n => (List.range 64).any fun i =>
        (readCount (cntSlot s.ctl n i)).any fun r => decide (r ≠ cntSlot s.ctl n i)).length ∧
    (∀ i, i < 12 → s.dp.sup.upActive = true → railUsed s.ctl i = true → s.dp.sup.psEn.getLsbD i = false →
      s.dp.sup.enabled &&& ~~~s.dp.sup.pg = 0 → ∀ m, m = setBit s.dp.sup.psEn i →
      exec (.railOnStep i) s = .next (s.withDp (emit (.psEn m) { s.dp with sup := { s.dp.sup with psEn := m } }))) ∧
    (∀ (i : Nat) (e p : BitVec 12), i < 12 → s.dp.sup.upActive = true → s.dp.sup.psEn.getLsbD i = true →
      s.dp.sup.enabled.getLsbD i = false → e = setBit s.dp.sup.enabled i → p = setBit s.dp.sup.pg i → e &&& ~~~p = 0 →
      ((usedRails s.ctl).all fun j => e.getLsbD j && p.getLsbD j) = true →
      exec (.powerGoodWindowEnd i true) s = .next (s.withDp { s.dp with
        sup := { s.dp.sup with enabled := e, pg := p, upActive := false, railsUp := true, abortRow := 0 }
        glb := { s.dp.glb with riseStep := 1 } }))

/-- R18, R211, R350, R403: each step of RISE, done in its turn, brings RISE to the next: isolation released and straps
sampled once REFCLK runs; the HBM trained and filled; the firmware verified and the register writes opened; the media
trained; the mapping rebuilt; the journal replayed; the horizons re-anchored. A channel that does not train stops RISE,
and after EXTEST the media training alone is repeated; in service the isolation releases again with VDD_CORE, and the
rail faults it held are then reported. A row is a whole step of RISE (log entries 60 and 68). Each of these commands is
shown to complete, under hypotheses on the state and its operands alone: isolationRelease, hbmTraining, hbmFill,
firmwareVerify, mediaTraining, mappingRebuild, replay, reanchor. -/
def Obligations.RiseStepsGoOnInOrder : Prop :=
  ∀ s : State,
    (∀ straps, riseAt 1 s.dp = true → s.dp.sup.railsUp = true → ∃ t, exec (.isolationRelease straps true) s = .next t ∧
      t.ctl = s.ctl ∧ t.dp.glb.riseStep = 2 ∧ t.dp.sup.isoReleased = true ∧ t.dp.glb.straps = straps ∧ t.dp.fab.setPoint = 800) ∧
    (∀ straps, riseAt 1 s.dp = true → s.dp.sup.railsUp = true → exec (.isolationRelease straps false) s =
      .next (s.withDp { s.dp with sup := { s.dp.sup with refclk := false } })) ∧
    (∀ straps refclk, awake s.dp = true → s.dp.sup.isoReleased = false → s.dp.sup.isoDrain = none →
      exec (.isolationRelease straps refclk) s = .next (s.withDp (((List.range 12).filter fun i =>
        s.dp.sup.isoRails.getLsbD i).foldl (fun d i => raise 0x65 0x3A 0 i 0xFF noAccess d) { s.dp with sup := { s.dp.sup with
          isoReleased := true, pg := setBit s.dp.sup.pg 6, isoDrain := none, isoRails := 0 } }))) ∧
    (∀ lanes ms k, riseAt 2 s.dp = true → s.dp.hbm.trainFail = false → ∃ t, exec (.hbmTraining lanes ms (some k)) s = .next t ∧
      t.ctl = s.ctl ∧ t.dp.glb.riseStep = 2 ∧ t.dp.hbm.trainFail = true ∧ t.dp.hbm.badChan = BitVec.ofNat 5 k ∧
      t.dp.hif.mediaError = true) ∧
    (∀ lanes ms, riseAt 2 s.dp = true → s.dp.hbm.trainFail = false → ∃ t, exec (.hbmTraining lanes ms none) s = .next t ∧
      t.ctl = s.ctl ∧ t.dp.glb.riseStep = 3 ∧ t.dp.hbm.lanes = lanes ∧ t.dp.hbm.trainMs = min 255 ms ∧ t.dp.hbm.state = 3) ∧
    (riseAt 3 s.dp = true → s.dp.hbm.trainFail = false → ∃ t, exec .hbmFill s = .next t ∧ t.ctl = s.ctl ∧
      t.dp.glb.riseStep = 4 ∧ t.dp.hbm.filled = true ∧ t.dp.hbm.state = 1 ∧ t.dp.que.mps = setAt s.dp.que.mps 0 0) ∧
    (∀ (a b : Option FwImage) (i : FwImage), riseAt 4 s.dp = true → s.dp.sec.running ≠ 2 → s.dp.pst.dev.fwSelect = false →
      a = some i → imageOk s.ctl i = true → ∃ t, exec (.firmwareVerify a b) s = .next t ∧ t.ctl.writesOpen = true ∧
      t.dp.glb.riseStep = 5 ∧ t.dp.sec.running = 0 ∧ t.dp.sec.runImage = some i ∧ t.dp.que.mps = [0, 0, 0, 0]) ∧
    (∀ found, riseAt 5 s.dp = true → s.dp.sec.retStep ≠ 9 → ∃ t, exec (.mediaTraining found) s = .next t ∧
      t.dp.glb.riseStep = 6 ∧ t.dp.hif.memInfo = true) ∧
    (∀ found, riseAt 5 s.dp = true → s.dp.sec.retStep = 9 → ∃ t, exec (.mediaTraining found) s = .next t ∧
      t.dp.glb.riseStep = 9 ∧ t.dp.sec.retStep = 0) ∧
    (∀ reads, riseAt 6 s.dp = true → ∃ t, exec (.mappingRebuild reads) s = .next t ∧ t.ctl = s.ctl ∧ t.dp.glb.riseStep = 7) ∧
    (∀ members bad, riseAt 7 s.dp = true → ∃ t, exec (.replay members bad) s = .next t ∧ t.dp.glb.riseStep = 8) ∧
    (∀ reads, riseAt 8 s.dp = true → ∃ t, exec (.reanchor reads) s = .next t ∧ t.ctl = s.ctl ∧ t.dp.glb.riseStep = 9 ∧
      t.dp.mh.boundary = s.dp.mh.now ∧ ∀ e ∈ mappedPages s.dp, ∃ w ∈ t.dp.mh.work,
        w.kind = .reanchor (BitVec.ofNat 31 e.1) ∧ w.prio ≤ 4)

/-- R10, R24, R241, R350, R351: the last step of RISE sets the configuration lock with Memory_Active, on a link that
carries CXL.mem, and enters SERVE, or FALLOW where an entry condition holds; while PERST_N is asserted, during EXTEST,
or while VDD_CORE has not reached 0.70 V, RISE holds and nothing changes. Each of these commands is shown to complete,
under hypotheses on the state and its operands alone: riseComplete. -/
def Obligations.RiseEndsInServiceWithTheLockSet : Prop :=
  ∀ s : State,
    (riseAt 9 s.dp = true → s.dp.sup.perstN = true → s.dp.sec.extest = false →
      700 ≤ s.dp.fab.setPoint → ∃ t, exec .riseComplete s = .next t ∧
      t.ctl.cfgLocked = true ∧ t.ctl.cr = s.ctl.cr ∧ t.dp.glb.riseStep = 10 ∧ t.dp.hif.memActive = memLink s.dp ∧
      t.dp.sup.attempts = 0 ∧ (t.dp.sup.mode = .serve ∨ t.dp.sup.mode = .fallow)) ∧
    (s.dp.sup.perstN = false ∨ s.dp.sec.extest = true ∨ s.dp.fab.setPoint < 700 → exec .riseComplete s = .next s)

/-- R18, R349, R356 to R360: PWR_FAIL_N low begins a drain in service, once the isolation cells let it pass, and latches
a restart when it returns during the drain; MR_N in OFF clears the off latch, and no RISE starts while MR_N is low; the
service button asks the host, starts from OFF, or powers down; PERST_N in service begins the cleaning of a warm reset or
its RISE, and its return in OFF clears the off latch. MR_N as a pulse is the model's choice (log entry 37). Each of
these commands is shown to complete, under hypotheses on the state and its operands alone: pwrFailNAsserted,
pwrFailNDeasserted, mrN, svcBtnPress, svcBtnRelease, svcBtnHeld8s, perstNAsserted, perstNDeasserted. -/
def Obligations.PowerInputsActByMode : Prop :=
  ∀ s : State, s.dp.sup.aux = true →
    (∀ d1, s.dp.sup.pwrFailN = true → serving s.dp = true →
      { s.dp with sup := { s.dp.sup with pwrFailN := false, pwrFails := satInc 0xFF s.dp.sup.pwrFails, pwrFell := false } } = d1 →
      (s.dp.sup.isoReleased = true → exec .pwrFailNAsserted s = .next (s.withDp (beginDrain s.ctl 0x02 d1))) ∧
      (s.dp.sup.isoReleased = false → exec .pwrFailNAsserted s = .next (s.withDp { d1 with sup := { d1.sup with
        isoDrain := some (drainFirst d1.sup.isoDrain 0x02) } }))) ∧
    (s.dp.sup.pwrFailN = false → s.dp.sup.mode = .drain → exec .pwrFailNDeasserted s = .next (s.withDp { s.dp with
      sup := { s.dp.sup with pwrFailN := true, pwrHigh := s.dp.sup.clock, restart := true, startCause := 0x17 } })) ∧
    (s.dp.sup.mode = .off → s.dp.sup.mrLow = false → exec (.mrN false) s = .next (s.withDp { s.dp with sup := { s.dp.sup with
      mrCount := satInc 0xFF s.dp.sup.mrCount, restart := true, mrLow := true, offLatch := false, railLatch := false
      abortRow := 0, startCause := 0x06 } })) ∧
    (exec (.mrN true) s = .next (s.withDp { s.dp with sup := { s.dp.sup with mrLow := false } })) ∧
    (s.dp.sup.mrLow = true → mayRise s.ctl s.dp = false) ∧
    (serving s.dp = true → linkUp s.dp = true → s.dp.sup.isoReleased = true → pressDead s.dp = false → exec .svcBtnPress s = .next (s.withDp (msix 73
      { s.dp with sup := { s.dp.sup with btnDead := false } }))) ∧
    (∀ ms, s.dp.sup.btnDead = false → 50 ≤ ms → ms ≤ 2000 → s.dp.sup.mode = .off → exec (.svcBtnRelease ms) s =
      .next (s.withDp { s.dp with sup := { s.dp.sup with offLatch := false, startCause := 0x04 } })) ∧
    (s.dp.sup.btnDead = false → exec .svcBtnHeld8s s = .next (s.withDp (beginDown s.ctl 0x05 s.dp))) ∧
    (s.dp.sup.perstN = true → serving s.dp = true → s.dp.sup.isoReleased = true → s.dp.sup.drainAfterWake = none →
      ∃ t, exec .perstNAsserted s = .next t ∧
      ((t.dp.sup.mode = .rise ∧ t.ctl.cfgLocked = false ∧ t.dp.glb.riseStep = 3) ∨
        (t.dp.sup.warm = true ∧ t.dp.lc.flush = true ∧ t.ctl.cfgLocked = s.ctl.cfgLocked))) ∧
    (s.dp.sup.perstN = false → s.dp.sup.mode = .off → s.dp.sup.perstFell = true → exec .perstNDeasserted s =
      .next (s.withDp { s.dp with sup := { s.dp.sup with
        perstN := true, perstFell := false, offLatch := false, thermEvent := true
        startCause := if s.dp.sup.restart then s.dp.sup.startCause else 0x07 } }))

/-- R18, R110 to R112, R347: a quiet drain logs its next stripes, up to DRN_CTL.width at a time, the words it logs read
through their codes first; with nothing left to log the seal is written, the drain counted, the core sample taken and
the power-down begun; and 8 ms after the drain began it ends without a seal. R18, R346, R347, R361, R362, R378: a rail
fault in service is reported and begins a drain, both held while the isolation cells hold; each rail's enable goes low
at its off-step and the last reaches OFF; a rail that still shows power-good is recorded as faulty; the power-down
record is written; a loss of VDD_AUX drops every enable; and the thermal latch clears once the die has cooled and a
latch event has come. SEAL_RECORD as the whole of phase C is the model's choice (log entry 39). Each of these commands
is shown to complete, under hypotheses on the state and its operands alone: drainLog, sealRecord, drainDeadline,
railFault, offStep, railOffCheck, powerDownRecord, vddAuxLost, thermalLatchClear. -/
def Obligations.DrainSealsAndPowerGoesDown : Prop :=
  (∀ s : State,
    (∀ held, drainQuiet s.dp = true → exec (.drainLog held) s = .next (s.withDp (drainWave (drainG s.ctl)
      (if s.dp.jrn.plan.isNone then heldEccs s.ctl held s.dp else s.dp)))) ∧
    (drainQuiet s.dp = true → s.dp.sup.isoReleased = true → drainNext s.dp = none → s.dp.pst.writes = [] →
      s.dp.pst.storing = [] → ∃ d1 d2,
      d1 = appendStripe (.sealRec (drainNo s.dp) s.dp.sup.drainStripes (elapsed s.dp.sup.drainAt s.dp.sup.clock / 1000)
        s.dp.sup.drainCause.toNat) s.dp ∧ d2 = issueStripe s.ctl d1.jrn.seq d1 ∧
      ((∀ p ∈ d2.mrg.progs, p.st = .pending → partitionFree s.dp p.chan p.set = true) → exec (.sealRecord true) s = .next { s with
        ctl := cntInc 2 s.ctl
        dp := beginDown s.ctl d2.sup.cause (drainSample s.ctl d2.sup.drainCause.toNat (stripeVerified d1.jrn.seq d2)) })) ∧
    (s.dp.sup.mode = .drain → s.dp.sup.downActive = false → exec .drainDeadline s = .next (s.withDp (beginDown s.ctl
      s.dp.sup.cause { s.dp with sup := { s.dp.sup with deadline := true } })))) ∧
  (∀ s : State,
    (∀ i, i < 12 → railUsed s.ctl i = true → s.dp.sup.psEn.getLsbD i = true → s.dp.sup.pg.getLsbD i = true →
      s.dp.sup.upActive = false → serving s.dp = true → ∀ d1, d1 = { s.dp with sup := { s.dp.sup with
          pg := clrBit s.dp.sup.pg i, isoReleased := s.dp.sup.isoReleased && i ≠ 6, faulty := setBit s.dp.sup.faulty i
          railFaults := satInc 0xFF s.dp.sup.railFaults } } →
      (d1.sup.isoReleased = true → exec (.railFault i) s =
        .next (s.withDp (requestDrain s.ctl 0x14 (raise 0x65 0x3A 0 i 0xFF noAccess d1)))) ∧
      (d1.sup.isoReleased = false → exec (.railFault i) s = .next (s.withDp { d1 with sup := { d1.sup with
        isoRails := setBit d1.sup.isoRails i, isoDrain := some (drainFirst d1.sup.isoDrain 0x14) } }))) ∧
    (∀ (i : Nat) (m : BitVec 12), i < 12 → s.dp.sup.downActive = true → s.dp.sup.psEn.getLsbD i = true →
      m = clrBit s.dp.sup.psEn i →
      (m ≠ 0 → exec (.offStep i) s = .next (s.withDp (emit (.psEn m) { s.dp with sup := { s.dp.sup with
        psEn := m, isoReleased := s.dp.sup.isoReleased && i ≠ 6 } }))) ∧
      (m = 0 → ∃ t, exec (.offStep i) s = .next t ∧ t.ctl = s.ctl ∧ t.dp.sup.mode = .off ∧ t.dp.sup.downActive = false ∧
        t.dp.sup.recordDue = true ∧ t.dp.sup.cause = s.dp.sup.downCause ∧ t.dp.lc.ways = [] ∧ t.dp.mrg.entries = [] ∧
        (s.dp.pst.writes = [] → t.dp.pst.slots = s.dp.pst.slots))) ∧
    (∀ i, i < 12 → (s.dp.sup.downActive = true ∨ s.dp.sup.recordDue = true) → s.dp.sup.psEn.getLsbD i = false →
      exec (.railOffCheck i true) s = .next (s.withDp { s.dp with sup := { s.dp.sup with faulty := setBit s.dp.sup.faulty i } }) ∧
      exec (.railOffCheck i false) s = .next (s.withDp { s.dp with sup := { s.dp.sup with pg := clrBit s.dp.sup.pg i } })) ∧
    (recordReady s.ctl s.dp = true → ∃ t, exec .powerDownRecord s = .next t ∧ t.ctl = s.ctl ∧ t.dp.sup.recordDue = false ∧
      t.dp.pst.dev.powerDown = some (pdRecord false s.dp)) ∧
    (∀ (v : Bool) (cut : CntCut), s.dp.sup.aux = true → ∃ t, exec (.vddAuxLost v cut) s = .next t ∧ t.ctl.cr = [] ∧ t.dp.sup.aux = false ∧
      t.dp.sup.mode = .off ∧ t.dp.sup.psEn = 0 ∧ t.dp.lc.ways = [] ∧
      t.dp.pst.dev.powerDown = if v then some (pdRecord true s.dp) else s.dp.pst.dev.powerDown) ∧
    (∀ t31 : BitVec 16, s.dp.sup.aux = true → s.dp.sup.mode = .off → s.dp.sup.s31Broken = false → t31.toInt < 380 →
      s.dp.sup.thermEvent = true → exec (.thermalLatchClear t31) s = .next (s.withDp { s.dp with
        sup := { s.dp.sup with thermLatch := false, thermAuxOnly := false, thermEvent := false } })))

/-- R153, R244, R352 to R354: D3hot asks for DORMANT and the return to D0 acts as an exit trigger; an entry under way
completes once the persistence domain is clean, and L1.1 or L1.2 follows where the host permits it; an exit trigger
begins the wake, with VDD_CORE on its way back; once that and the media are ready its completion returns to the mode
before; and a condition of FALLOW ends SERVE. Each of these commands is shown to complete, under hypotheses on the state
and its operands alone: d3hot, returnToD0, dormantEntry, dormantExit, dormantExitComplete, fallowEntry. -/
def Obligations.DormantAndFallowAreEntered : Prop :=
  ∀ s : State,
    (linkUp s.dp = true → serving s.dp = true → s.dp.sup.isoReleased = true → s.dp.sup.warm = false →
      s.dp.sup.fallowing = false → s.dp.sup.dormReq = none →
      exec .d3hot s = .next (s.withDp { s.dp with
        sup := { s.dp.sup with dormReq := some 0x0E }, hif := { s.dp.hif with d3 := true } })) ∧
    (s.dp.hif.d3 = true → exec .returnToD0 s = .next (s.withDp (dormantExit s.ctl .returnToD0
      { s.dp with hif := { s.dp.hif with d3 := false } }))) ∧
    (∀ sub : LinkSub, s.dp.sup.entering = true → serving s.dp = true → dormantClean s.dp = true →
      exec (.dormantEntry sub) s = .next (s.withDp (enterSub sub (enterDormant s.dp)))) ∧
    (∀ k : WakeTrigger, s.dp.sup.downActive = false → s.dp.sup.mode = .dormant → s.dp.sup.waking = false →
      ∃ t, exec (.dormantExit k) s = .next t ∧ t.ctl = s.ctl ∧ t.dp.sup.waking = true ∧ t.dp.sup.mode = .dormant ∧
        t.dp.sup.exitCause = wakeCause k ∧ t.dp.sup.cause = s.dp.sup.cause ∧ t.dp.fab.target = vset s.ctl ∧ t.dp.hif.clkReq = true) ∧
    (wakeDone s.dp = true → s.dp.sup.drainAfterWake = none → s.dp.sup.warm = false → s.dp.acc.held = [] →
      ∃ t, exec .dormantExitComplete s = .next t ∧ t.ctl = s.ctl ∧
      t.dp.sup.mode = s.dp.sup.back ∧ t.dp.sup.cause = s.dp.sup.exitCause ∧ t.dp.sup.waking = false ∧ t.dp.hbm.state = 1 ∧ t.dp.hif.l1 = false) ∧
    (s.dp.sup.mode = .serve → s.dp.sup.downActive = false → s.dp.sup.warm = false → s.dp.sup.isoReleased = true →
      fallowCond s.ctl s.dp = true →
      exec .fallowEntry s = .next (s.withDp (enterFallow s.ctl 0x0C (eventRecord s.ctl 2 2 0 s.dp))))

/-- R224, R231, R235, R238, R365, R373: a TMP response that comes whole becomes its sensor's reading and ends its
failures, one out of range breaks the sensor; the third in a row that is absent, which is counted, or does not come
whole, which recovers the port, breaks it too; a zone update takes the readings, brings zone values and Tc up to date,
and meets the thresholds. R25, R374, R377: THERM_TRIP_N powers down at once; a proxy hold ends; a speed factor above
1.00 in SERVE is reported; VDD_CORE moves 5 mV at a step towards its target, the last step no further than it; and a
read-back more than 20 mV low in SERVE is reported. Each of these commands is shown to complete, under hypotheses on the
state and its operands alone: tmpResponse, zoneUpdate, thermTripN, proxyHoldEnd, speedMeasurement, vcoreStep,
avsReadback. -/
def Obligations.ReadingsAndVoltagesAct : Prop :=
  (∀ s : State,
    (∀ (k w n : Nat) (m : Mop) (x : ShortBurst) (v : BitVec 16) (d d0 : Dp), n = 36 + 4 * k + w →
      d = (if x.absent = false ∧ shortOk x = false then slotFails s.ctl k 0xFF s.dp else s.dp) →
      (s.dp.mops.find? fun m => m.chan = k && m.kind = .temperature w && m.issued.isSome) = some m →
      (d.mops.find? fun m => m.chan = k && m.kind = .temperature w && m.issued.isSome) = some m →
      (sensorOf d n).broken = false → d0 = dropMops (· = m) d →
      (∀ d1, shortOk x = true → d1 = modChan k (fun y => { y with tmpFails := setAt y.tmpFails w 0 })
          (modChan k (fun y => { y with tmpOver := setAt y.tmpOver w ((respByte x.bytes 2).setWidth 2) }) (track k w d0)) →
        v = respByte x.bytes 0 ++ respByte x.bytes 1 →
        (inRange v = true → exec (.tmpResponse k w x) s =
          .next (s.withDp (testSensor s.ctl d n (modSensor n (takeValue v) d1)))) ∧
        (inRange v = false → exec (.tmpResponse k w x) s = .next (s.withDp (judgeBroken s.ctl d n d1)))) ∧
      (∀ d1, shortOk x = false → d1 = modChan k (fun y => { y with tmpFails := modAt y.tmpFails w (· + 1) })
          (if x.absent then modChan k (fun y => { y with absent := satInc 0xFF y.absent }) d0
            else modChan k (fun y => y) (track k w d0)) →
        exec (.tmpResponse k w x) s = .next (s.withDp
          (if 3 ≤ (chanOf d1 k).tmpFails.getD w 0 then judgeBroken s.ctl d n d1 else d1)))) ∧
    (∀ (l : List Reading) (d1 : Dp), fabricLive s.dp = true → d1 = updateZones s.ctl (takeReadings s.ctl l s.dp) →
      deadZones d1 < 5 → d1.thm.zones = zoneValues s.ctl (takeReadings s.ctl l s.dp) ∧
      exec (.zoneUpdate l) s = .next (s.withDp (mediaThresholds s.ctl (dieThresholds s.ctl d1))))) ∧
  (∀ s : State,
    (s.dp.sup.mode ≠ .off → s.dp.sup.aux = true → exec .thermTripN s = .next (s.withDp (beginDown s.ctl 0x09
      (emit (.thermTrip true) { s.dp with sup := { s.dp.sup with thermTripLow := true } })))) ∧
    (exec .proxyHoldEnd s = .next (s.withDp { s.dp with thm := { s.dp.thm with hold := none } })) ∧
    (∀ (z : Nat) (f : BitVec 16) (d1 : Dp), fabricLive s.dp = true → s.dp.sup.mode ≠ .dormant → z < 8 →
      d1 = { s.dp with fab := { s.dp.fab with speed := setAt s.dp.fab.speed z (some f) } } →
      (s.dp.sup.mode = .serve → 0x1000 < f.toNat →
        exec (.speedMeasurement z f) s = .next (s.withDp (raise 0x67 0x35 0 z 0xFF noAccess d1))) ∧
      (f.toNat ≤ 0x1000 → exec (.speedMeasurement z f) s = .next (s.withDp d1))) ∧
    (fabricLive s.dp = true → s.dp.fab.setPoint ≠ s.dp.fab.target → ∃ t,
      exec .vcoreStep s = .next t ∧ t.ctl = s.ctl ∧ (s.dp.sup.fallowing = false → t.dp.fab.target = s.dp.fab.target) ∧
      (s.dp.fab.setPoint < s.dp.fab.target → t.dp.fab.setPoint = min s.dp.fab.target (s.dp.fab.setPoint + 5)) ∧
      (s.dp.fab.target < s.dp.fab.setPoint → t.dp.fab.setPoint = max s.dp.fab.target (s.dp.fab.setPoint - 5))) ∧
    (∀ (mv : BitVec 10) (d1 : Dp), fabricLive s.dp = true →
      d1 = pmuCount s.ctl 21 0x13 1 { s.dp with fab := { s.dp.fab with vread := mv.toNat } } →
      (s.dp.sup.mode = .serve → mv.toNat + 20 < s.dp.fab.setPoint → exec (.avsReadback mv) s =
        .next (s.withDp (raise 0x67 0x34 0 ((s.dp.fab.setPoint - mv.toNat) / 5) 0xFF noAccess d1))) ∧
      (s.dp.fab.setPoint ≤ mv.toNat + 20 → exec (.avsReadback mv) s = .next (s.withDp d1))))

/-- R371: in SERVE and FALLOW an evaluation that finds a higher credit cut puts it in force at once, and one that finds
a lower cut while a proxy hold lasts changes nothing of the cut. Each of these commands is shown to complete, under
hypotheses on the state and its operands alone: throttleEvaluation. -/
def Obligations.HigherCutsActAtOnce : Prop :=
  ∀ (s : State) (n : Nat), fabricLive s.dp = true → serving s.dp = true →
    n = lawCut s.ctl (s.dp.sup.mode = .fallow) (excessDie s.ctl s.dp) (excessMedia s.ctl s.dp) →
    (s.dp.thm.cut < n → ∃ t, exec .throttleEvaluation s = .next t ∧ t.ctl = s.ctl ∧ t.dp.thm.cut = n) ∧
    (n ≤ s.dp.thm.cut → s.dp.thm.hold.isSome = true → ∃ t, exec .throttleEvaluation s = .next t ∧ t.ctl = s.ctl ∧
      t.dp.thm.cut = s.dp.thm.cut)

/-- R18, R32, R168, R169, R280, R395: while the isolation cells are open a running processor's heartbeat is stamped, and
what its firmware met is handled; one whose heartbeat is lost restarts, and MP_1's command is aborted with it; and a
processor that waits for its image, once MP_0 runs, restarts from a slot that verifies, or stays halted where none does.
R162, R172, R321, R328: the executors take the oldest entry of their queues: MP_3 writes the record of a LOG action, a
POISON action stores its line poisoned, and a RETIRE action carries out step 4 for its location. The source of a lost
heartbeat's message is the model's reading (log entry 83). Each of these commands is shown to complete, under hypotheses
on the state and its operands alone: heartbeat, heartbeatLost, firmwareReload, log, poison, retire. -/
def Obligations.ProcessorsAndActionsGoOn : Prop :=
  (∀ (s : State) (mp : Nat),
    (∀ d1, s.dp.que.mps.getD mp 1 = 0 → s.dp.sup.mode ≠ .dormant → s.dp.sup.isoReleased = true →
      d1 = { s.dp with que := { s.dp.que with beats := setAt s.dp.que.beats mp s.dp.sup.clock } } →
      exec (.heartbeat mp none) s = .next (s.withDp d1) ∧
      ∀ e, exec (.heartbeat mp (some e)) s = .next (s.withDp (firmwareMet mp e s.ctl d1))) ∧
    (∀ (reload : Bool) (d1 : Dp), mp < 4 → s.dp.que.mps.getD mp 1 = 0 → s.dp.sup.mode ≠ .off → s.dp.sup.mode ≠ .dormant →
      s.dp.sup.isoReleased = true →
      d1 = pmuCount s.ctl 23 0x15 1 (restartEnds s.ctl mp (raise (0x60 + mp) 0x38 0 mp 0xFF noAccess s.dp)) →
      exec (.heartbeatLost mp reload) s = .next (s.withDp { d1 with que := { d1.que with
        mps := setAt d1.que.mps mp (if reload then 3 else 0), beats := setAt d1.que.beats mp d1.sup.clock } })) ∧
    (∀ (a b : Option FwImage), s.dp.que.mps.getD mp 1 = 3 → (mp ≠ 0 → s.dp.que.mps.getD 0 1 = 0) →
      s.dp.pst.dev.fwSelect = false →
      (∀ i, a = some i → imageOk s.ctl i = true → exec (.firmwareReload mp a b) s = .next (s.withDp { s.dp with
        sec := { s.dp.sec with imgA := a, imgB := b }
        que := { s.dp.que with
          mps := setAt s.dp.que.mps mp 0, beats := setAt s.dp.que.beats mp s.dp.sup.clock, fwSram := [] } })) ∧
      (slotOk s.ctl a = false → slotOk s.ctl b = false → ∃ t, exec (.firmwareReload mp a b) s = .next t ∧ t.ctl = s.ctl ∧
        t.dp.que.mps = setAt s.dp.que.mps mp 4 ∧ t.dp.sec.aFail = true ∧ t.dp.sec.bFail = true)) ∧
    (s.dp.que.mps.getD mp 1 = 3 → mp ≠ 0 → s.dp.que.mps.getD 0 1 ≠ 0 → ∀ a b, exec (.firmwareReload mp a b) s = .next s)) ∧
  (∀ (s : State) (x : Accepted) (rest : List Accepted),
    (∀ health more, s.dp.flt.logQ = (x, health) :: more → s.dp.que.mps.getD 3 1 = 0 → exec .log s =
      .next (s.withDp (writeLog s.ctl (x, health) { s.dp with flt := { s.dp.flt with logQ := more } }))) ∧
    (s.dp.flt.poisonQ = x :: rest → serving s.dp = true → exec .poison s = .next (s.withDp (storePoison s.ctl
      (x.msg.address.setWidth 37) { s.dp with flt := { s.dp.flt with poisonQ := rest } }))) ∧
    (∀ l, s.dp.flt.retireQ = x :: rest → serving s.dp = true → retireLoc x.msg = some l → exec .retire s = .next (s.withDp
      (emptyOutWays s.ctl (rctAct4 s.ctl l { s.dp with flt := { s.dp.flt with retireQ := rest } })))))

/-- R315 to R322: the oldest message of a source, once the ring over the collector's inputs comes to it, is accepted and
its actions begin; out of its turn it waits; one whose parity fails is discarded, and a message of source 0x6D is raised
in its place; and a source that dropped messages reports their number once its queue has room. R316, R317, R319: the
acceptance of a message counts it, advances the list's sequence number by two, sets its source's sticky bit, and puts it
first on the recent list with a stamp later than that of the message accepted before it. The message in place of one
whose parity failed, and the strict order of stamps, are the model's readings (log entries 80 and 81). Each of these
commands is shown to complete, under hypotheses on the state and its operands alone: faultMessage, msgDropped. -/
def Obligations.MessagesAreAcceptedAndStamped : Prop :=
  (∀ (s : State) (src : BitVec 8),
    (∀ (m : Msg) (rest : List Msg), s.dp.flt.inq.find? (·.source = src) = none →
      smGet [] s.dp.flt.outq src.toNat = m :: rest → takeMsg src s.dp = some (m, { s.dp with flt := { s.dp.flt with
        outq := smSet [] s.dp.flt.outq src.toNat rest } })) ∧
    (∀ ok, inputGrant s.dp ≠ some (sourceInput src.toNat) → exec (.faultMessage src ok) s = .next s) ∧
    (∀ (m : Msg) (d d1 : Dp), s.dp.sup.mode ≠ .dormant → inputGrant s.dp = some (sourceInput src.toNat) →
      d = { s.dp with flt := { s.dp.flt with lastIn := sourceInput src.toNat } } → takeMsg src d = some (m, d1) →
      (∃ r x, r = acceptMessage s.ctl m (pmuCount s.ctl 21 0x14 1 d1) ∧ x = react r.1 s.ctl r.2 ∧
        exec (.faultMessage src true) s = .next { s with ctl := x.1, dp := x.2 }) ∧
      exec (.faultMessage src false) s = .next (s.withDp (raise 0x6D 0x2C 0 1 0xFF noAccess
        { d1 with flt := { d1.flt with netParity := true, msgLost := true } }))) ∧
    (∀ n, n = smGet 0 s.dp.flt.dropped src.toNat → 0 < n → (smGet [] s.dp.flt.outq src.toNat).length < 4 →
      exec (.msgDropped src) s = .next (s.withDp (raise src.toNat 0x2C 0 n 0xFF noAccess
        { s.dp with flt := { s.dp.flt with dropped := smSet 0 s.dp.flt.dropped src.toNat 0 } })))) ∧
  (∀ (c : Ctl) (m : Msg) (d : Dp) (r : Accepted × Dp), r = acceptMessage c m d → d.flt.received < 0xFFFFFFFF →
    r.2.flt.received = d.flt.received + 1 ∧ r.2.flt.seq = d.flt.seq + 2 ∧ r.2.flt.recent.head? = some r.1 ∧ r.1.msg = m ∧
    r.2.flt.recent.length ≤ 64 ∧
    (smGet 0 r.2.flt.sticky (m.source.toNat / 32)).getLsbD (m.source.toNat % 32) = true ∧
    (∀ x, d.flt.recent.head? = some x → x.stamp ≠ BitVec.allOnes _ → x.stamp.toNat < r.1.stamp.toNat))

/-- R332, R335, R413, R418: a fold empties the staging counters and the pending clears and advances REC_SEQ by two; a
periodic core sample is written; a bandwidth window's end loads each port not of a channel with its bytes over the
window; and a publish in a window of 1 ms or less loads the channel ports. When channel ports publish is the model's
reading (log entry 86). Each of these commands is shown to complete, under hypotheses on the state and its operands
alone: recFold, coreSample, bandwidthWindowEnd, channelPublish. -/
def Obligations.RecorderAndBandwidthAdvance : Prop :=
  ∀ s : State, s.dp.sup.mode ≠ .off →
    (s.dp.sup.mode ≠ .dormant → ∃ t, exec .recFold s = .next t ∧ t.ctl = s.ctl ∧ t.dp.rec_.seq = s.dp.rec_.seq + 2 ∧ t.dp.rec_.staging = [] ∧
      t.dp.rec_.clear = 0 ∧ t.dp.rec_.ring = s.dp.rec_.ring) ∧
    (serving s.dp = true → sampleMin s.ctl ≠ 0 → s.dp.que.mps.getD 3 1 = 0 →
      exec .coreSample s = .next (s.withDp (writeSample s.ctl 0 0 0 0 s.dp))) ∧
    (∃ t, exec .bandwidthWindowEnd s = .next t ∧ t.ctl = s.ctl ∧ t.dp.pmu.bytes = [] ∧ t.dp.pmu.bwSeq = s.dp.pmu.bwSeq + 1 ∧
      t.dp.pmu.bwWindow = rg s.ctl 0x2003000 0 3 ∧ ∀ p < 27, (p < 2 ∨ 18 < p) →
        smGet 0 t.dp.pmu.bw p = smGet 0 s.dp.pmu.bytes p / windowUs s.dp.pmu.bwWindow) ∧
    (pmuFrozen s.ctl = true → s.dp.pmu.bwWindow ≤ 3 → ∃ t, exec .channelPublish s = .next t ∧ t.ctl = s.ctl ∧
      t.dp.pmu.chBytes = [] ∧ t.dp.pmu.cnt = s.dp.pmu.cnt ∧
      ∀ k < 17, smGet 0 t.dp.pmu.bw (k + 2) = smGet 0 s.dp.pmu.chBytes (k + 2) / 1000)

/-- R119, R242, R244, R246, R255, R256, R262, R450: the link trains, at 32 GT/s at most where STRAP[2] is 1, and what is
below x16 at 64 GT/s is counted and reported; replays and recoveries are counted and set their bits of the CXL RAS
capability; a failed integrity check ends its stream; a function level reset, a hot reset and a lost reference clock
reset the host interface; and Global Persistent Flush is acknowledged. What FLR leaves, and when credits return after an
integrity failure, are the model's readings (log entries 31 and 87). Each of these commands is shown to complete, under
hypotheses on the state and its operands alone: linkTraining, flitReplay, linkRecovery, integrityCheckFailure, flr,
hotReset, refclkLoss, refclkReturn, gpfPhase1, gpfPhase2. -/
def Obligations.LinkEventsAct : Prop :=
  ∀ s : State,
    (∀ (r : BitVec 4) (w : BitVec 5) (f : BitVec 2) (ts : List LinkTry) (x : BitVec 4 × BitVec 5 × BitVec 2),
      x = linkResult s.dp.glb.straps r w f ts → linkSupported x.1 x.2.1 x.2.2 = true → s.dp.sup.perstN = true → serving s.dp = true →
      s.dp.sup.refclk = true → s.dp.sup.downActive = false →
      ∃ t, exec (.linkTraining r w f ts) s = .next t ∧ t.ctl = s.ctl ∧ t.dp.hif.rate = x.1 ∧
      t.dp.hif.width = x.2.1 ∧ t.dp.hif.flit = x.2.2 ∧ t.dp.hif.ltssm = 3 ∧ t.dp.hif.downgrades =
        if x.1 = 6 ∧ x.2.1 = 16 then s.dp.hif.downgrades else satInc 0xFF s.dp.hif.downgrades) ∧
    (∀ (straps : BitVec 4) (r : Nat) (f : BitVec 2), straps.getLsbD 2 = true → commonRate straps r f ≤ 5) ∧
    (∀ (r w : Nat) (ts : List LinkTry), 1 < r →
      trainTo r w 0 (.rateFails :: .rateFails :: .rateFails :: ts) = trainTo (r - 1) w 0 ts ∧
      trainTo r w 0 (.lanesFail :: ts) = trainTo r (w / 2) 0 ts ∧ trainTo r w 0 [] = (r, w)) ∧
    (linkUp s.dp = true → exec .flitReplay s = .next (s.withDp (emit .aerLink (rasCorrectable 2 (raise 0x40 0x1A 0 1 0xFF noAccess
      { s.dp with hif := { s.dp.hif with replay := satInc 0xFFF s.dp.hif.replay } }))))) ∧
    (linkUp s.dp = true → exec .linkRecovery s = .next (s.withDp (emit .aerLink (rasCorrectable 6 (raise 0x40 0x1A 0 0 0xFF noAccess
      { s.dp with hif := { s.dp.hif with recovery := satInc 0xFFF s.dp.hif.recovery } }))))) ∧
    (∀ nr nw, linkUp s.dp = true → s.dp.hif.pcieSecure = true → exec (.integrityCheckFailure true nr nw) s = .next (s.withDp
      (emit .aer (raise 0x40 0x3E 0 1 0xFF noAccess (pmuCount s.ctl 22 0x14 1 (dropStream true s.dp)))))) ∧
    (∀ (nr nw r w : Nat) (d1 : Dp), linkUp s.dp = true → s.dp.hif.ideSecure = true →
      d1 = emit .aer (raise 0x40 0x3E 0 0 0xFF noAccess (pmuCount s.ctl 22 0x14 1 (dropStream false s.dp))) →
      r = min nr d1.hif.hr → w = min nw d1.hif.hw → exec (.integrityCheckFailure false nr nw) s = .next (s.withDp { d1 with
        hif := { d1.hif with
          ras := { d1.hif.ras with unc := setBit d1.hif.ras.unc 16 }
          ideFailed := true, hr := d1.hif.hr - r, hw := d1.hif.hw - w, unreturned := d1.hif.unreturned + r + w } })) ∧
    (linkUp s.dp = true → exec .flr s = .next { s with ctl := flrCtl s.ctl, dp := flrDp s.dp }) ∧
    (linkUp s.dp = true →
      exec .hotReset s = .next { s with ctl := flrCtl s.ctl, dp := flrDp (linkDown s.ctl s.dp) }) ∧
    (s.dp.hif.sub = 2 → exec .refclkLoss s = .next (s.withDp { s.dp with sup := { s.dp.sup with refclk := false } })) ∧
    (s.dp.hif.sub ≠ 2 → linkUp s.dp = true → exec .refclkLoss s = .next { s with
      ctl := flrCtl s.ctl, dp := flrDp (linkDown s.ctl { s.dp with sup := { s.dp.sup with refclk := false } }) }) ∧
    (exec .refclkReturn s = .next (s.withDp { s.dp with sup := { s.dp.sup with refclk := true } })) ∧
    (linkUp s.dp = true → exec .gpfPhase1 s = .next (s.withDp (emit (.gpfAck 1) s.dp))) ∧
    (linkUp s.dp = true → (∀ p ∈ s.dp.acc.pend, p.write = true → s.dp.now < p.arrived ∨ p.ans.isSome = true) →
      (∀ r ∈ s.dp.acc.held, r.2.isWrite = true → s.dp.now < r.1) → exec .gpfPhase2 s = .next (s.withDp (emit (.gpfAck 2)
        { s.dp with hif := { s.dp.hif with gpf := none }, lc := { s.dp.lc with gpfClean := true } }))) ∧
    (linkUp s.dp = true → (∃ p ∈ s.dp.acc.pend, p.write = true ∧ p.ans = none ∧ p.arrived ≤ s.dp.now) →
      exec .gpfPhase2 s = .next (s.withDp { s.dp with hif := { s.dp.hif with gpf := some s.dp.now } }))

/-- R246, R252, R258, R259, R261, R263, R370: held posted writes leave when Bus Master Enable is set; an unmasked
pending vector is sent; returned S2M credits let answers leave; freed entries return at their pace; a decoder that
passes its checks is committed at the end of the decoders before it, one that fails is in error; and an unlocked
decoder's Commit clears. The operands of DECODER_COMMIT are the model's choice (log entry 21). Each of these commands is
shown to complete, under hypotheses on the state and its operands alone: busMasterEnable, vectorUnmask, s2mCreditReturn,
creditPacingInterval, decoderCommit, decoderCommitClear. -/
def Obligations.HostInterfaceControlsAct : Prop :=
  ∀ s : State, linkUp s.dp = true →
    (exec (.busMasterEnable true) s = .next (s.withDp (sendHeld { s.dp with hif := { s.dp.hif with busMaster := true } })) ∧
      exec (.busMasterEnable false) s = .next (s.withDp { s.dp with hif := { s.dp.hif with busMaster := false } })) ∧
    (∀ v, v < 96 → s.dp.hif.vecPend.getLsbD v = false → exec (.vectorUnmask v) s = .next (s.withDp
      { s.dp with hif := { s.dp.hif with vecMask := clrBit s.dp.hif.vecMask v } })) ∧
    (∀ v, v < 96 → s.dp.hif.vecPend.getLsbD v = true → exec (.vectorUnmask v) s = .next (s.withDp (msix v
      { s.dp with hif := { s.dp.hif with
        vecMask := clrBit s.dp.hif.vecMask v, vecPend := clrBit s.dp.hif.vecPend v } }))) ∧
    (∀ drs ndr, exec (.s2mCreditReturn drs ndr) s = .next (s.withDp (flushAnswers s.ctl
      { s.dp with hif := { s.dp.hif with drs := s.dp.hif.drs + drs, ndr := s.dp.hif.ndr + ndr } }))) ∧
    (noCredits s.dp = false → s.dp.hif.memActive = true → exec .creditPacingInterval s = .next (s.withDp
      (returnEntries s.ctl ((100 - s.dp.thm.cut) * 16) { s.dp with hif := { s.dp.hif with returned := 0 } }))) ∧
    (∀ (n : Nat) (base size skip : BitVec 52) (iw ig : Nat) (lock : Bool) (x : Decoder) (d1 : Dp), n < 4 →
      (decoderAt s.dp n).committed = false →
      x = { base := base, size := size, iw := iw, ig := ig, skip := skip, lock := lock } →
      d1 = { s.dp with hif := { s.dp.hif with decoders := setAt s.dp.hif.decoders n x } } →
      (commitOk s.ctl s.dp n x = true → exec (.decoderCommit n base size iw ig skip lock) s = .next (s.withDp { s.dp with
        hif := { s.dp.hif with
          decoders := setAt s.dp.hif.decoders n { x with committed := true, start := rangeStart d1 n } } })) ∧
      (commitOk s.ctl s.dp n x = false → exec (.decoderCommit n base size iw ig skip lock) s = .next (s.withDp { s.dp with
        hif := { s.dp.hif with decoders := setAt s.dp.hif.decoders n { x with err := true } } }))) ∧
    (∀ (n : Nat) (x : Decoder), n < 4 → x = decoderAt s.dp n → (x.committed = false ∨ x.lock = false) →
      exec (.decoderCommitClear n) s = .next (s.withDp { s.dp with hif := { s.dp.hif with
        decoders := setAt s.dp.hif.decoders n { x with committed := false, err := false } } }))

/-- R264, R265, R353, R354, R397, R398: outside DORMANT a request ends an entry under way and is answered: discovery
names the protocol of its index; the CDAT is read; version, capabilities, algorithms and challenges are answered and
measurements are reported by index; the certificate of slot 0 is read in portions that fit a 4 KiB object and cannot be
set; and a session opens while fewer than four are open. R256, R398: within a session a key programmed into a key set is
held there; GO makes a programmed set the active one of its direction in place of the other; STOP ends it. The layouts
of the objects and the free bodies are the model's (log entries 17 and 88). Each of these commands is shown to complete,
under hypotheses on the state and its operands alone: doeDiscovery, cdatTableAccess, getMeasurements, getCertificate,
setCertificate, keyEx, ideKm, keySetGo, keySetStop. -/
def Obligations.DoeAndKeysAreAnswered : Prop :=
  (∀ (s : State) (d : Dp), s.dp.sup.mode ≠ .dormant → d = dormantExit s.ctl .doeOrSideband s.dp →
    (∀ i : BitVec 8, linkUp s.dp = true →
      (i.toNat < 3 → exec (.doeDiscovery i) s =
        .next (s.withDp (doeAnswer [BitVec.ofNat 64 (1 + i.toNat * 2 ^ 16 + (i.toNat + 1) * 2 ^ 24)] d))) ∧
      (i.toNat = 3 → exec (.doeDiscovery i) s = .next (s.withDp (doeAnswer [BitVec.ofNat 64 (0x1E98 + 2 * 2 ^ 16)] d)))) ∧
    (linkUp s.dp = true → exec .cdatTableAccess s = .next (s.withDp (doeAnswer
      (wordsOf 512 (cdat (hostCapacity s.ctl d) (cfgN d))) d))) ∧
    (spdmLive s.dp = true → exec (.getMeasurements (.measurements 0)) s = .next (s.withDp (spdmAnswer s.ctl [6] d))) ∧
    (∀ i : BitVec 8, spdmLive s.dp = true → 1 ≤ i.toNat → i.toNat ≤ 6 → exec (.getMeasurements (.measurements i)) s =
      .next (s.withDp (spdmAnswer s.ctl (measurement s.ctl d i.toNat) d))) ∧
    (∀ r : SpdmReq, r = .version ∨ r = .capabilities ∨ r = .algorithms ∨ (∃ slot, r = .challenge slot) → spdmLive s.dp = true →
      ∃ x, exec (.getMeasurements r) s = .next (s.withDp (spdmAnswer s.ctl [x] d))) ∧
    (∀ (off len : BitVec 16) (n : Nat), spdmLive s.dp = true → off.toNat < Config.certLen →
      n = min (min len.toNat 4080) (Config.certLen - off.toNat) → exec (.getCertificate 0 off len) s =
        .next (s.withDp (spdmAnswer s.ctl (BitVec.ofNat 64 (n + (Config.certLen - off.toNat - n) * 65536) ::
          wordsOf 512 ((List.range n).map fun i => Config.certByte (off.toNat + i))) d))) ∧
    (∀ slot : BitVec 4, spdmLive s.dp = true → ∃ x, exec (.setCertificate slot) s = .next (s.withDp (spdmAnswer s.ctl [x] d))) ∧
    (spdmLive s.dp = true → d.hif.sessions < 4 → ∃ x, exec .keyEx s = .next (s.withDp (spdmAnswer s.ctl [x]
      { d with hif := { d.hif with sessions := d.hif.sessions + 1 } })))) ∧
  (∀ (s : State) (pcie set tx : Bool) (k : Nat) (d : Dp), s.dp.sup.mode ≠ .dormant → ideKmLive s.dp = true →
    d = dormantExit s.ctl .doeOrSideband s.dp → k = keySlotNo pcie set tx →
    (∀ key, ∃ x, exec (.ideKm (.keyProg pcie set tx key)) s = .next (s.withDp (spdmAnswer s.ctl [x] { d with
      hif := { d.hif with ideKeys := smSet none d.hif.ideKeys k (some key) } }))) ∧
    ((smGet none d.hif.ideKeys k).isSome = true → ∃ x, exec (.keySetGo pcie set tx) s = .next (s.withDp (spdmAnswer s.ctl [x]
      (ideUpdate s.ctl { d with hif := { d.hif with
        ideActive := setBit (clrBit d.hif.ideActive (keySlotNo pcie (!set) tx)) k } })))) ∧
    (∃ x, exec (.keySetStop pcie set tx) s = .next (s.withDp (spdmAnswer s.ctl [x]
      (ideUpdate s.ctl { d with hif := { d.hif with ideActive := clrBit d.hif.ideActive k } })))))

/-- R186, R286: MM_CACHE_OP in SERVE puts its request, read from its two parameter words, last in the maintenance queue.
R181 to R187: each row of the maintenance engine carries out its operation on the next line of the request in progress,
counts the step and goes on; a step that waits leaves the request where it is. What a durable request waits for and how
a lock is counted are the model's readings (log entries 95 and 97). Each of these commands is shown to complete, under
hypotheses on the state and its operands alone: mmCacheOp, clean, invalidate, cleanAndInvalidate, lock, unlockLine,
zeroLine. -/
def Obligations.MaintenanceTakesItsSteps : Prop :=
  (∀ (s : State) (m : Mnt), inHand s.dp 0x0200 = true →
    (∀ x ∈ s.dp.lc.cur.toList ++ s.dp.lc.queue, x.fromCmd = false) → m = mntOf (param s.dp 0) (param s.dp 1) →
    (param s.dp 0).extractLsb' 35 22 = 0 → (param s.dp 1).extractLsb' 35 29 = 0 → mntRefused s.ctl s.dp m = false →
    s.dp.sup.mode = .serve → s.dp.lc.queue.length < 16 →
    exec .mmCacheOp s = .next (s.withDp { s.dp with lc := { s.dp.lc with
      queue := s.dp.lc.queue ++ [{ m with waitEntries := coveredEntries s.dp m }] } })) ∧
  (∀ (s : State) (m : Mnt) (l : LineAddr) (x : MntStep) (d0 d1 d2 : Dp), d0 = heldLine s.ctl l s.dp → serving s.dp = true → s.dp.lc.cur = some m →
    mntNext s.dp m = some l → (lineFilling s.dp l = false ∨ m.reading = true) →
    d1 = { x.dp with lc := { x.dp.lc with cur := x.dp.lc.cur.map fun y => { y with
      done := mntAfter s.dp m, acted := y.acted + (if x.acted then 1 else 0), dirty := y.dirty || x.dirty
      lockLimit := y.lockLimit || x.lockLimit, reading := false
      waitEntries := y.waitEntries ++ (if m.durable then x.entries else []) } } } →
    d2 = (if x.waits then x.dp else mntSettle s.ctl (updWithhold s.ctl (pmuCount s.ctl 18 0x16 1 d1))) →
    (m.op = 0 → x = stepClean l d0 → exec .clean s = .next (s.withDp d2)) ∧
    (m.op = 1 → x = stepInvalidate l d0 → exec .invalidate s = .next (s.withDp d2)) ∧
    (m.op = 2 → x = stepInvalidate l d0 → exec .cleanAndInvalidate s = .next (s.withDp d2)) ∧
    (∀ raw peers, m.op = 3 → x = (if m.reading then lockReturn s.ctl l raw peers d0 else stepLock s.ctl m.cls l d0) →
      exec (.lock raw peers) s = .next (s.withDp d2)) ∧
    (m.op = 4 → x = stepUnlock l d0 → exec .unlockLine s = .next (s.withDp d2)) ∧
    (m.op = 5 → x = stepZero s.ctl m.durable l d0 → exec .zeroLine s = .next (s.withDp d2)))

/-- R181, R182, R185, R187: invalidating a clean present line empties its way, which stays reserved where it was locked;
a dirty line is left on the list of copies that follow the step; unlocking a locked line clears its lock and keeps its
contents, and an empty way reserved for the line is freed; and locking a present line below the limit of its set marks
its way for the class. -/
def Obligations.LineOperationsChangeTheirWay : Prop :=
  ∀ (c : Ctl) (d : Dp) (l : LineAddr) (k : Nat), findWay d l = some k →
    ((getWay d k).sd = 0 → (stepInvalidate l d).waits = false ∧ (stepInvalidate l d).acted = true ∧
      (stepInvalidate l d).dp = emptyWay k d ∧ (getWay (emptyWay k d) k).valid = false ∧
      (getWay (emptyWay k d) k).lock = (getWay d k).lock) ∧
    ((getWay d k).sd ≠ 0 → stepInvalidate l d = { dp := leaveOut l true d, acted := true, dirty := true } ∧
      stepClean l d = { dp := leaveOut l false d, acted := true, dirty := true }) ∧
    ((stepUnlock l d).acted = true ∧
      ((getWay d k).lock = true → getWay (stepUnlock l d).dp k = { getWay d k with lock := false, owner := 0 }) ∧
      (∀ j ∈ lockedWays d l, (getWay d j).valid = false → getWay (stepUnlock l d).dp j = {}) ∧
      ∀ j, j ∉ lockedWays d l → getWay (stepUnlock l d).dp j = getWay d j) ∧
    (∀ cls : BitVec 3, lockedInSet d l < rg c 0xC0030 0 4 → (stepLock c cls l d).acted = true ∧
      getWay (stepLock c cls l d).dp k = { getWay d k with lock := true, owner := cls })

/-- R10, R437: while the configuration lock stays set, no step changes an RWL field. -/
def Obligations.LockedFieldsHoldTheirValues : Prop :=
  ∀ s t : State, s.ctl.cfgLocked = true → step s = .next t → t.ctl.cfgLocked = true → SameRwl s.ctl t.ctl

/-- R9, R23, R80, R98, R115, R132 to R134, R183: every step keeps the clamped registers in the ranges their descriptions
give. -/
def Obligations.EveryStepKeepsTheRegisterRanges : Prop :=
  ∀ s t : State, RangesOk s.ctl → step s = .next t → RangesOk t.ctl

/-- Every step keeps the register file in its canonical form: offsets rising, no word at its reset value. The form is
the model's (log entry 4). -/
def Obligations.EveryStepKeepsTheRegisterFileCanonical : Prop :=
  ∀ s t : State, CtlWf s.ctl → step s = .next t → CtlWf t.ctl

/-- R301 to R304, R399: no step gives the RETURNED fuse back; and no step lowers the value of a spread counter, but for
a RISE_START at which a slot of a counter does not read as it did, or a VDD_AUX_LOST that leaves the slot being written
with wrong bits: the counter then falls back on the slots that read right. -/
def Obligations.FuseAndCountersOnlyGrow : Prop :=
  ∀ s t : State, step s = .next t → (s.ctl.returnedFuse = true → t.ctl.returnedFuse = true) ∧
    ((∀ i, s.pending.head? = some i → ¬ Misreads s.ctl i) → ∀ n, cntValue s.ctl n ≤ cntValue t.ctl n)

/-- R53: perm permutes the 32-bit numbers, and the candidates of the allocator's cursor permute the 31-bit stripe
numbers: no two cursor positions name the same stripe. AES is PRESUMED from its standard (log entry 8); the order of the
halves is the model's reading (log entry 23). -/
def Obligations.PlacementPermutesTheStripes : Prop :=
  ∀ key : BitVec 256, Function.Bijective (permKey key) ∧ Function.Injective (candidate key)

/-- R40, R91, R163, R164: a sealed image decodes CLEAN against its own label; the parity codeword of 16 sealed images of
one page is itself CLEAN against the parity label; and the exclusive-OR of the parity codeword and 15 of them is the
sixteenth. XTS is the one of its standard, PRESUMED (log entry 8). -/
def Obligations.ParityOfSealedImagesIsACodeword : Prop :=
  ∀ (key : BitVec 512) (slot : BitVec 6) (p : Page) (poison : Nat → BitVec 4) (v : Nat → Nat → Sector) (imgs : List Image),
    imgs = (List.range 16).map (fun j => sealedImage key slot (pageLine p j) (poison j) (v j)) →
    (∀ j < 16, outerDecode (imgs.getD j 0) (hostLabel slot p j) = ⟨.clean, imgs.getD j 0⟩) ∧
    outerDecode (xorImages imgs) parityLabel = ⟨.clean, xorImages imgs⟩ ∧
    ∀ j < 16, xorImages (setAt imgs j (xorImages imgs)) = imgs.getD j 0

/-- R88, R91, R160, R162: what is sealed into an image is read back from it: each sector decrypts to its plaintext under
the key slot of the image's label, and each poison bit stands. XTS is the one of its standard, PRESUMED (log entry 8).
-/
def Obligations.SealedSectorsReadBack : Prop :=
  ∀ (d : Dp) (slot : BitVec 6) (l : LineAddr) (poison : BitVec 4) (v : Nat → Sector) (i : Image),
    i = sealedImage (slotKeys d slot) slot l poison v →
    ∀ k < 4, plainSector d l i k = v k ∧ imgPoison i k = poison.getLsbD k

/-- R77: the bucket of a latency. Bucket 31 holds the fault reads, and a ceiling read over 1,000 ns is in bucket 30.
R133, R134: the horizon check follows its table for each of its three rows, and the age classes their edges. -/
def Obligations.BucketsClassesAndHorizonFollowTheirTables : Prop :=
  (∀ lat : Nat, readBucket lat false = 31 ∧ readBucket lat true ≤ 30 ∧ (readBucket lat true = 30 ↔ 1000 < lat) ∧
    (readBucket lat true = 0 ↔ lat < 200) ∧
    (∀ b, 1 ≤ b → b ≤ 28 → (readBucket lat true = b ↔ 200 + 25 * (b - 1) ≤ lat ∧ lat < 200 + 25 * b))) ∧
  ((∀ (now : BitVec 8) (e : BitVec 64) (j : Nat), j < 16 →
    (entryMask e = 0 → ∃ x, horizonCheck now e j = some (some x) ∧ entryStripe x = entryStripe e ∧ entryBase x = entryBase e ∧
      entryRecent x = now ∧ ∀ i < 16, (entryMask x).getLsbD i = decide (i = j)) ∧
    (entryMask e ≠ 0 → entryRecent e ≠ now → horizonCheck now e j = none) ∧
    (entryMask e ≠ 0 → entryRecent e = now → ∃ x, (horizonCheck now e j = some x) ∧
      (entryMask e ||| BitVec.ofNat 16 (2 ^ j) = 0xFFFF → (entryMask e).getLsbD j = false →
        ∃ y, x = some y ∧ entryBase y = entryRecent e ∧ entryMask y = 0 ∧ entryStripe y = entryStripe e) ∧
      (entryMask e ||| BitVec.ofNat 16 (2 ^ j) ≠ 0xFFFF → entryMask (x.getD e) = entryMask e ||| BitVec.ofNat 16 (2 ^ j) ∧
        entryRecent (x.getD e) = now ∧ entryBase (x.getD e) = entryBase e))) ∧
  (∀ h : Nat, ageClass h ≤ 15 ∧ classEdge (ageClass h) ≤ h ∧ (ageClass h < 15 → h < classEdge (ageClass h + 1))))

/-- R14, R341, R436: right after VDD_AUX is applied the part is in OFF with the lock clear, every register at its reset
value, and nothing held; its registers are within their ranges and canonical. With no command waiting, a step lets 1 ns
pass (the model's choice, log entry 1). R36, R149, R176, R223, R260: the worked examples of one address: its decode, its
set, tag and slice, its sector-read command, the rebuild location of its member. -/
def Obligations.ResetAndWorkedExamplesHold : Prop :=
  (State.reset.dp.sup.mode = .off ∧ State.reset.dp.sup.aux = true ∧ State.reset.ctl.cfgLocked = false ∧
    State.reset.pending = [] ∧ (∀ off, crGet State.reset.ctl off = resetWord off) ∧ RangesOk State.reset.ctl ∧
    CtlWf State.reset.ctl ∧ State.reset.dp.lc.ways = [] ∧ State.reset.dp.mrg.entries = [] ∧
    (∀ n < 32, cntValue State.reset.ctl n = 0) ∧ (∀ s : State, s.pending = [] → step s = .next (tick s))) ∧
  ((∀ d : Dp, d.hif.decoders = [{ base := 0x4000000000, size := 0xC0000000000, iw := 2, ig := 4096, committed := true }] →
    hdmDecode d 0x3868ACF1940 = some (0, 0x1A345678940)) ∧
  (secLine (dpaSec 0x1A345678940)).toNat = 0x1A3456789 ∧ (linePage 0x1A3456789).toNat = 439637624 ∧ linePos 0x1A3456789 = 9 ∧
  setOf 0x1A3456789 = 8073 ∧ tagOf 0x1A3456789 = 0xA7B55 ∧ sliceOf 8073 = 9 ∧
  posChan 5000000 9 = 4 ∧ chanPos 5000000 4 = 9 ∧ srdWord 1 0x0D 19 0x4C4B40 = 0x1366989681 ∧
  rebuildLoc 4 83 5000000 4 = (115, 5000015, 5))

/-- R428: word w of instance (i, j) of a register lies at its base plus each index times its stride, and what lies there
is that word of that instance and of no other register. -/
def Obligations.RegisterInstancesDoNotOverlap : Prop :=
  ∀ r ∈ regTable, ∀ i j w, regHas r i j w → findReg (regAt r i j w) = some ⟨r, i, j, w⟩

/-- R261: a committed decoder whose Lock On Commit is set is changed by neither a commit nor a clearing of Commit; a hot
reset and FLR leave every decoder and its lock; PERST_N clears every decoder. In OFF the interface is unpowered and
holds none. Each of these commands is shown to complete, under hypotheses on the state and its operands alone:
decoderCommit, decoderCommitClear, hotReset, flr, perstNAsserted. -/
def Obligations.LockedDecodersHoldUntilConventionalReset : Prop :=
  ∀ s : State,
    (∀ (n : Nat) (base size skip : BitVec 52) (iw ig : Nat) (lock : Bool), (decoderAt s.dp n).committed = true →
      (decoderAt s.dp n).lock = true →
      (∃ t, exec (.decoderCommit n base size iw ig skip lock) s = .next t ∧ decoderAt t.dp n = decoderAt s.dp n) ∧
      (∃ t, exec (.decoderCommitClear n) s = .next t ∧ decoderAt t.dp n = decoderAt s.dp n)) ∧
    (∃ t, exec .hotReset s = .next t ∧ t.dp.hif.decoders = s.dp.hif.decoders) ∧
    (∃ t, exec .flr s = .next t ∧ t.dp.hif.decoders = s.dp.hif.decoders) ∧
    (s.dp.sup.aux = true → s.dp.sup.perstN = true → s.dp.sup.mode ≠ .off →
      ∃ t, exec .perstNAsserted s = .next t ∧ t.dp.hif.decoders = List.replicate 4 {})

/-- THE FRAME OF THE CONTROL FIELDS. A command that is not one of those that count on a spread counter, reset registers,
release the configuration lock or access a register port leaves the register file, the lock, the spread counters and the
fuse as they are. -/
def Obligations.OnlyListedCommandsTouchControlFields : Prop :=
  ∀ (c : Instr) (s t : State), touchesCtl c = false → exec c s = .next t → t.ctl = s.ctl

/-- R405: in DORMANT and RISE DBG_ACCESS returns zeros in every debug state; in OFF the port is unpowered and nothing is
returned. Each of these commands is shown to complete, under hypotheses on the state and its operands alone: dbgAccess.
-/
def Obligations.DebugAccessIsDeniedOutsideService : Prop :=
  ∀ (s : State) (op : DbgOp),
    (jtagUp s.dp = true → (s.dp.sup.mode = .dormant ∨ s.dp.sup.mode = .rise) →
      ∃ t, exec (.dbgAccess op) s = .next t ∧ t.ctl = s.ctl ∧ t.dp.out = s.dp.out ++ [.jtag 0]) ∧
    (s.dp.sup.mode = .off → exec (.dbgAccess op) s = .next s)
end

