-- ==== Sys2Proof/Laws/Aes.lean ====
section
/-! SUPPORT. AES-256, XTS and the key wrap are undone by their inverses. -/

namespace Sys2Proof.Laws

open Sys2Proof.Machine

/-- Each bit of a row of bytes is one of its byte. -/
theorem bytesUpTo_getLsbD (f : Nat → BitVec 8) (n j : Nat) (h : j < 8 * n) :
    (bytesUpTo f n).getLsbD j = (f (n - 1 - j / 8)).getLsbD (j % 8) := by
  induction n generalizing j with
  | zero => omega
  | succ n ih =>
    have e : (bytesUpTo f (n + 1)).getLsbD j = if j < 8 then (f n).getLsbD j else (bytesUpTo f n).getLsbD (j - 8) :=
      BitVec.getLsbD_append
    rw [e]
    split
    · rw [show n + 1 - 1 - j / 8 = n by omega, show j % 8 = j by omega]
    · rw [ih (j - 8) (by omega), show n - 1 - (j - 8) / 8 = n + 1 - 1 - j / 8 by omega, show (j - 8) % 8 = j % 8 by omega]

/-- Byte i of a block of bytes. -/
theorem blockByte_blockOf (f : Nat → BitVec 8) (i : Nat) (h : i < 16) : blockByte (blockOf f) i = f i := by
  apply BitVec.eq_of_getLsbD_eq
  intro j hj
  rw [blockByte, BitVec.getLsbD_extractLsb', decide_eq_true hj, Bool.true_and, blockOf]
  erw [bytesUpTo_getLsbD f 16 (120 - 8 * i + j) (by omega)]
  rw [show 16 - 1 - (120 - 8 * i + j) / 8 = i by omega, show (120 - 8 * i + j) % 8 = j by omega]

/-- A block is the block of its bytes. -/
theorem blockOf_blockByte (b : BitVec 128) (f : Nat → BitVec 8) (h : ∀ i < 16, f i = blockByte b i) : blockOf f = b := by
  apply BitVec.eq_of_getLsbD_eq
  intro j hj
  rw [blockOf]
  erw [bytesUpTo_getLsbD f 16 j (by omega)]
  rw [h _ (by omega), blockByte, BitVec.getLsbD_extractLsb', decide_eq_true (by omega), Bool.true_and]
  congr 1
  omega

/-- The second box undoes the first. -/
theorem boxEntry_inv : ∀ b : BitVec 8, boxEntry aesBoxInv (boxEntry aesBox b) = b := by
  decide +kernel

theorem aesSubInv_aesSub (s : BitVec 128) : aesSubInv (aesSub s) = s :=
  blockOf_blockByte _ _ fun i h => by rw [aesSub, blockByte_blockOf _ _ h, boxEntry_inv]

theorem aesShiftInv_aesShift (s : BitVec 128) : aesShiftInv (aesShift s) = s :=
  blockOf_blockByte _ _ fun i h => by
    rw [aesShift, blockByte_blockOf _ _ (by omega)]
    congr 1
    omega

theorem xor_swap {n : Nat} (a b c : BitVec n) : a ^^^ (b ^^^ c) = b ^^^ (a ^^^ c) := by
  rw [← BitVec.xor_assoc, BitVec.xor_comm a b, BitVec.xor_assoc]

theorem xor_twice {n : Nat} (a b : BitVec n) : a ^^^ (a ^^^ b) = b := by
  rw [← BitVec.xor_assoc, BitVec.xor_self, BitVec.zero_xor]

/-- Doubling is linear. -/
theorem aesDouble_xor (a b : BitVec 8) : aesDouble (a ^^^ b) = aesDouble a ^^^ aesDouble b := by
  have h : ∀ p q : Bool, (if (p ^^ q) then (0x1B : BitVec 8) else 0) = (if p then 0x1B else 0) ^^^ (if q then 0x1B else 0) := by decide
  unfold aesDouble
  rw [BitVec.shiftLeft_xor_distrib, BitVec.msb_xor, h]
  simp only [BitVec.xor_assoc, xor_swap]

/-- The bytes of a column after its mixing. -/
theorem aesMix_byte (s : BitVec 128) (i k : Nat) (h : i < 16) : blockByte (aesMix s) (i / 4 * 4 + (i + k) % 4) =
    aesDouble (blockByte s (i / 4 * 4 + (i + k) % 4)) ^^^
      (aesDouble (blockByte s (i / 4 * 4 + (i + (k + 1)) % 4)) ^^^ blockByte s (i / 4 * 4 + (i + (k + 1)) % 4)) ^^^
      blockByte s (i / 4 * 4 + (i + (k + 2)) % 4) ^^^ blockByte s (i / 4 * 4 + (i + (k + 3)) % 4) := by
  have e : ∀ m, (i / 4 * 4 + (i + k) % 4) / 4 * 4 + (i / 4 * 4 + (i + k) % 4 + m) % 4 = i / 4 * 4 + (i + (k + m)) % 4 := by omega
  rw [aesMix, blockByte_blockOf _ _ (by omega)]
  simp only [e]
  rfl

/-- Mixing is undone. -/
theorem aesMixInv_aesMix (s : BitVec 128) : aesMixInv (aesMix s) = s :=
  blockOf_blockByte _ _ fun i h => by
    simp only [aesMix_byte _ _ _ h, Nat.reduceAdd, Nat.zero_add]
    rw [show (i + 4) % 4 = (i + 0) % 4 by omega, show (i + 5) % 4 = (i + 1) % 4 by omega, show (i + 6) % 4 = (i + 2) % 4 by omega]
    have hi : blockByte s i = blockByte s (i / 4 * 4 + (i + 0) % 4) := by congr 1; omega
    rw [hi]
    generalize blockByte s (i / 4 * 4 + (i + 0) % 4) = a
    generalize blockByte s (i / 4 * 4 + (i + 1) % 4) = b
    generalize blockByte s (i / 4 * 4 + (i + 2) % 4) = c
    generalize blockByte s (i / 4 * 4 + (i + 3) % 4) = d
    simp only [aesDouble_xor, BitVec.xor_assoc, BitVec.xor_comm, xor_swap, xor_twice, BitVec.xor_self, BitVec.xor_zero, BitVec.zero_xor]


/-- A function of words that another undoes undoes it in turn: there are only so many words. -/
theorem undoes_undone {n : Nat} (f g : BitVec n → BitVec n) (h : ∀ x, g (f x) = x) (x : BitVec n) : f (g x) = x := by
  have : Finite (BitVec n) := Finite.of_injective BitVec.toFin fun a b e => BitVec.eq_of_toFin_eq e
  obtain ⟨y, rfl⟩ := (Finite.injective_iff_surjective.mp (Function.LeftInverse.injective h)) x
  rw [h]

/-- The rounds are undone, whatever the round keys. -/
theorem aesRoundsInv_aesRounds (ks : List (BitVec 128)) (b : BitVec 128) : aesRoundsInv ks (aesRounds ks b) = b := by
  have go : ∀ (l : List (BitVec 128)) (s : BitVec 128),
      l.foldr (fun k s => aesSubInv (aesShiftInv (aesMixInv (s ^^^ k))))
        (l.foldl (fun s k => aesMix (aesShift (aesSub s)) ^^^ k) s) = s := by
    intro l
    induction l with
    | nil => exact fun _ => rfl
    | cons k l ih =>
      intro s
      rw [List.foldl_cons, List.foldr_cons, ih, BitVec.xor_assoc, BitVec.xor_self, BitVec.xor_zero, aesMixInv_aesMix,
        aesShiftInv_aesShift, aesSubInv_aesSub]
  rw [aesRoundsInv, aesRounds, BitVec.xor_assoc, BitVec.xor_self, BitVec.xor_zero, aesShiftInv_aesShift, aesSubInv_aesSub, go,
    BitVec.xor_assoc, BitVec.xor_self, BitVec.xor_zero]

/-- Decryption undoes AES-256. -/
theorem aes256Inv_aes256 (key : BitVec 256) (b : BitVec 128) : aes256Inv key (aes256 key b) = b := aesRoundsInv_aesRounds _ _

/-- Decryption undoes the encryption of a block of a sector. -/
theorem xtsBlockInv_xtsBlock (key : BitVec 512) (line : BitVec 35) (j : BitVec 4) (b : BitVec 128) :
    xtsBlockInv key line j (xtsBlock key line j b) = b := by
  rw [xtsBlockInv, xtsBlock, BitVec.xor_assoc, BitVec.xor_self, BitVec.xor_zero, aes256Inv_aes256, BitVec.xor_assoc,
    BitVec.xor_self, BitVec.xor_zero]

/-- The parts of a word joined from three. -/
theorem wrap_parts (x : BitVec 64) (y : BitVec 192) (z : BitVec 64) (w : BitVec 320) (h : w = x ++ y ++ z) :
    w.extractLsb' 256 64 = x ∧ w.extractLsb' 64 192 = y ∧ w.extractLsb' 0 64 = z := by
  have e : ∀ n, w.getLsbD n = if n < 64 then z.getLsbD n else if n - 64 < 192 then y.getLsbD (n - 64) else x.getLsbD (n - 64 - 192) := by
    intro n
    rw [h]
    exact (BitVec.getLsbD_append (x := x ++ y) (y := z)).trans (by rw [BitVec.getLsbD_append])
  refine ⟨?_, ?_, ?_⟩ <;>
    (apply BitVec.eq_of_getLsbD_eq
     intro j hj
     rw [BitVec.getLsbD_extractLsb', decide_eq_true hj, Bool.true_and, e])
  · rw [if_neg (by omega), if_neg (by omega), show 256 + j - 64 - 192 = j by omega]
  · rw [if_neg (by omega), if_pos (by omega), show 64 + j - 64 = j by omega]
  · rw [if_pos (by omega), Nat.zero_add]

/-- A word is its parts joined. -/
theorem wrap_joined (w : BitVec 320) : w.extractLsb' 192 128 ++ w.extractLsb' 0 192 = w := by
  apply BitVec.eq_of_getLsbD_eq
  intro j hj
  rw [BitVec.getLsbD_append]
  split
  · rw [BitVec.getLsbD_extractLsb', decide_eq_true (by omega), Bool.true_and, Nat.zero_add]
  · rw [BitVec.getLsbD_extractLsb', decide_eq_true (by omega), Bool.true_and, show 192 + (j - 192) = j by omega]

/-- A block is its halves joined. -/
theorem block_joined (b : BitVec 128) : b.extractLsb' 64 64 ++ b.extractLsb' 0 64 = b := by
  apply BitVec.eq_of_getLsbD_eq
  intro j hj
  rw [BitVec.getLsbD_append]
  split
  · rw [BitVec.getLsbD_extractLsb', decide_eq_true (by omega), Bool.true_and, Nat.zero_add]
  · rw [BitVec.getLsbD_extractLsb', decide_eq_true (by omega), Bool.true_and, show 64 + (j - 64) = j by omega]

/-- A step of the key wrap is undone. -/
theorem wrapStepInv_wrapStep (kek : BitVec 256) (t : Nat) (w : BitVec 320) : wrapStepInv kek t (wrapStep kek w t) = w := by
  obtain ⟨h1, h2, h3⟩ := wrap_parts _ _ _ (wrapStep kek w t) rfl
  rw [wrapStepInv, h1, h2, h3, BitVec.xor_assoc, BitVec.xor_self, BitVec.xor_zero, block_joined, aes256Inv_aes256, wrap_joined]

/-- The steps of the key wrap are undone. -/
theorem wrapSteps_undone (kek : BitVec 256) (l : List Nat) (w : BitVec 320) :
    l.foldr (wrapStepInv kek) (l.foldl (wrapStep kek) w) = w := by
  induction l generalizing w with
  | nil => rfl
  | cons t l ih => rw [List.foldl_cons, List.foldr_cons, ih, wrapStepInv_wrapStep]

/-- The key and the check value before it. -/
theorem wrap_key (a : BitVec 64) (k : BitVec 256) (w : BitVec 320) (h : w = a ++ k) :
    w.extractLsb' 256 64 = a ∧ w.extractLsb' 0 256 = k := by
  have e : ∀ n, w.getLsbD n = if n < 256 then k.getLsbD n else a.getLsbD (n - 256) := fun n => by
    rw [h]
    exact BitVec.getLsbD_append
  refine ⟨?_, ?_⟩ <;>
    (apply BitVec.eq_of_getLsbD_eq
     intro j hj
     rw [BitVec.getLsbD_extractLsb', decide_eq_true hj, Bool.true_and, e])
  · rw [if_neg (by omega), show 256 + j - 256 = j by omega]
  · rw [if_pos (by omega), Nat.zero_add]

end Sys2Proof.Laws
end

