-- ==== Sys2Proof/Laws/Store.lean ====
section
/-! SUPPORT. The laws of the sparse maps: a read after a write, and the canonical form, which every operation keeps. -/

namespace Sys2Proof.Laws

open Sys2Proof.Machine

variable {α : Type}

theorem smGet_smPut_same (d : α) (m : SMap α) (a : Nat) (v : α) : smGet d (smPut m a v) a = v := by
  induction m with
  | nil => simp [smPut, smGet]
  | cons e m ih =>
    obtain ⟨k, w⟩ := e
    simp only [smPut]
    split
    · simp [smGet]
    · split
      · simp [smGet]
      · rename_i h1 h2
        simp [smGet, h2, ih]

theorem smGet_smPut_other (d : α) (m : SMap α) (a b : Nat) (v : α) (h : b ≠ a) :
    smGet d (smPut m a v) b = smGet d m b := by
  induction m with
  | nil => simp [smPut, smGet, h]
  | cons e m ih =>
    obtain ⟨k, w⟩ := e
    simp only [smPut]
    split
    · simp [smGet, h]
    · split
      · rename_i h1 h2
        subst h2
        simp [smGet, h]
      · simp only [smGet]
        split
        · rfl
        · exact ih

theorem smGet_smErase_other (d : α) (m : SMap α) (a b : Nat) (h : b ≠ a) : smGet d (smErase m a) b = smGet d m b := by
  induction m with
  | nil => rfl
  | cons e m ih =>
    obtain ⟨k, w⟩ := e
    simp only [smErase]
    split
    · rename_i h1
      subst h1
      simp [smGet, h, ih]
    · simp only [smGet]
      split
      · rfl
      · exact ih

/-- Keys above a bound, rising. -/
def Rising : Option Nat → SMap α → Prop
  | _, [] => True
  | lo, (k, _) :: m => (∀ l ∈ lo, l < k) ∧ Rising (some k) m

theorem rising_weaken {lo hi : Nat} (m : SMap α) (h : Rising (some hi) m) (g : lo ≤ hi) : Rising (some lo) m := by
  cases m with
  | nil => trivial
  | cons e m =>
    refine ⟨fun l hl => ?_, h.2⟩
    have := h.1 hi rfl
    have : lo = l := by simpa using hl
    omega

/-- An erased key reads as the default. -/
theorem smGet_smErase_same (d : α) (m : SMap α) (a : Nat) : smGet d (smErase m a) a = d := by
  induction m with
  | nil => rfl
  | cons e m ih =>
    obtain ⟨k, w⟩ := e
    simp only [smErase]
    split
    · exact ih
    · rename_i h1
      simp only [smGet, if_neg h1]
      exact ih

theorem rising_smErase (m : SMap α) (a : Nat) (lo : Option Nat) (h : Rising lo m) : Rising lo (smErase m a) := by
  induction m generalizing lo with
  | nil => exact h
  | cons e m ih =>
    obtain ⟨k, w⟩ := e
    simp only [smErase]
    split
    · refine ih lo ?_
      cases lo with
      | none =>
        cases m with
        | nil => trivial
        | cons f m => exact ⟨by simp, h.2.2⟩
      | some l => exact rising_weaken m h.2 (by have := h.1 l rfl; omega)
    · exact ⟨h.1, ih _ h.2⟩

theorem rising_smPut (m : SMap α) (a : Nat) (v : α) (lo : Option Nat) (h : Rising lo m) (g : ∀ l ∈ lo, l < a) :
    Rising lo (smPut m a v) := by
  induction m generalizing lo with
  | nil => exact ⟨g, trivial⟩
  | cons e m ih =>
    obtain ⟨k, w⟩ := e
    simp only [smPut]
    split
    · rename_i h1
      exact ⟨g, fun l hl => by have : k > a := h1; have e : a = l := by simpa using hl
                               omega, h.2⟩
    · split
      · rename_i h1 h2
        subst h2
        exact ⟨h.1, h.2⟩
      · rename_i h1 h2
        refine ⟨h.1, ih _ h.2 fun l hl => ?_⟩
        have e : k = l := by simpa using hl
        omega

theorem smWfFrom_iff [DecidableEq α] (d : α) (m : SMap α) (lo : Option Nat) :
    smWfFrom d lo m = true ↔ Rising lo m ∧ ∀ e ∈ m, e.2 ≠ d := by
  induction m generalizing lo with
  | nil => simp [smWfFrom, Rising]
  | cons e m ih =>
    obtain ⟨k, v⟩ := e
    cases lo with
    | none => simp [smWfFrom, Rising, ih]; tauto
    | some l => simp [smWfFrom, Rising, ih]; tauto

theorem mem_smErase {m : SMap α} {a : Nat} {e : Nat × α} (h : e ∈ smErase m a) : e ∈ m := by
  induction m with
  | nil => exact h
  | cons f m ih =>
    obtain ⟨k, w⟩ := f
    simp only [smErase] at h
    split at h
    · exact List.mem_cons_of_mem _ (ih h)
    · rcases List.mem_cons.1 h with h | h
      · exact h ▸ List.mem_cons_self
      · exact List.mem_cons_of_mem _ (ih h)

theorem mem_smPut {m : SMap α} {a : Nat} {v : α} {e : Nat × α} (h : e ∈ smPut m a v) : e = (a, v) ∨ e ∈ m := by
  induction m with
  | nil => simpa [smPut] using h
  | cons f m ih =>
    obtain ⟨k, w⟩ := f
    simp only [smPut] at h
    split at h
    · rcases List.mem_cons.1 h with h | h
      · exact .inl h
      · exact .inr h
    · split at h
      · rcases List.mem_cons.1 h with h | h
        · exact .inl h
        · exact .inr (List.mem_cons_of_mem _ h)
      · rcases List.mem_cons.1 h with h | h
        · exact .inr (h ▸ List.mem_cons_self)
        · rcases ih h with h | h
          · exact .inl h
          · exact .inr (List.mem_cons_of_mem _ h)

/-- A write keeps the canonical form. -/
theorem smWf_smSet [DecidableEq α] (d : α) (m : SMap α) (a : Nat) (v : α) (h : smWf d m = true) :
    smWf d (smSet d m a v) = true := by
  rw [smWf, smWfFrom_iff] at h ⊢
  unfold smSet
  split
  · exact ⟨rising_smErase m a none h.1, fun e he => h.2 e (mem_smErase he)⟩
  · rename_i hv
    refine ⟨rising_smPut m a v none h.1 (by simp), fun e he => ?_⟩
    rcases mem_smPut he with he | he
    · rw [he]; exact hv
    · exact h.2 e he

/-- A change keeps the canonical form. -/
theorem smWf_smMod [DecidableEq α] (d : α) (m : SMap α) (a : Nat) (f : α → α) (h : smWf d m = true) :
    smWf d (smMod d m a f) = true := smWf_smSet d m a _ h

/-- Removing a key keeps the canonical form. -/
theorem smWf_smErase [DecidableEq α] (d : α) (m : SMap α) (a : Nat) (h : smWf d m = true) :
    smWf d (smErase m a) = true := by
  rw [smWf, smWfFrom_iff] at h ⊢
  exact ⟨rising_smErase m a none h.1, fun e he => h.2 e (mem_smErase he)⟩

/-- A read after a write to the same key. -/
theorem smGet_smSet_same [DecidableEq α] (d : α) (m : SMap α) (a : Nat) (v : α) : smGet d (smSet d m a v) a = v := by
  unfold smSet
  split
  · rename_i hv
    rw [hv]
    exact smGet_smErase_same d m a
  · exact smGet_smPut_same d m a v

/-- A read after a write to another key. -/
theorem smGet_smSet_other [DecidableEq α] (d : α) (m : SMap α) (a b : Nat) (v : α) (h : b ≠ a) :
    smGet d (smSet d m a v) b = smGet d m b := by
  unfold smSet
  split
  · exact smGet_smErase_other d m a b h
  · exact smGet_smPut_other d m a b v h

end Sys2Proof.Laws
end

