-- ==== Sys2Proof/Laws/Slots.lean ====
section
/-! SUPPORT. What storing a page of the parameter store can do: it changes the store alone, and of it neither the records of
pages 16 to 47 nor the slots of another page. -/

namespace Sys2Proof.Machine

@[simp] theorem commitPage_now (p : Nat) (v : BitVec 2048) (d : Dp) : (commitPage p v d).now = d.now := rfl
@[simp] theorem commitPage_free (p : Nat) (v : BitVec 2048) (d : Dp) : (commitPage p v d).free = d.free := rfl
@[simp] theorem commitPage_glb (p : Nat) (v : BitVec 2048) (d : Dp) : (commitPage p v d).glb = d.glb := rfl
@[simp] theorem commitPage_sup (p : Nat) (v : BitVec 2048) (d : Dp) : (commitPage p v d).sup = d.sup := rfl
@[simp] theorem commitPage_fab (p : Nat) (v : BitVec 2048) (d : Dp) : (commitPage p v d).fab = d.fab := rfl
@[simp] theorem commitPage_thm (p : Nat) (v : BitVec 2048) (d : Dp) : (commitPage p v d).thm = d.thm := rfl
@[simp] theorem commitPage_flt (p : Nat) (v : BitVec 2048) (d : Dp) : (commitPage p v d).flt = d.flt := rfl
@[simp] theorem commitPage_rec_ (p : Nat) (v : BitVec 2048) (d : Dp) : (commitPage p v d).rec_ = d.rec_ := rfl
@[simp] theorem commitPage_hif (p : Nat) (v : BitVec 2048) (d : Dp) : (commitPage p v d).hif = d.hif := rfl
@[simp] theorem commitPage_ceil (p : Nat) (v : BitVec 2048) (d : Dp) : (commitPage p v d).ceil = d.ceil := rfl
@[simp] theorem commitPage_acc (p : Nat) (v : BitVec 2048) (d : Dp) : (commitPage p v d).acc = d.acc := rfl
@[simp] theorem commitPage_lc (p : Nat) (v : BitVec 2048) (d : Dp) : (commitPage p v d).lc = d.lc := rfl
@[simp] theorem commitPage_mrg (p : Nat) (v : BitVec 2048) (d : Dp) : (commitPage p v d).mrg = d.mrg := rfl
@[simp] theorem commitPage_jrn (p : Nat) (v : BitVec 2048) (d : Dp) : (commitPage p v d).jrn = d.jrn := rfl
@[simp] theorem commitPage_map (p : Nat) (v : BitVec 2048) (d : Dp) : (commitPage p v d).map = d.map := rfl
@[simp] theorem commitPage_mh (p : Nat) (v : BitVec 2048) (d : Dp) : (commitPage p v d).mh = d.mh := rfl
@[simp] theorem commitPage_cod (p : Nat) (v : BitVec 2048) (d : Dp) : (commitPage p v d).cod = d.cod := rfl
@[simp] theorem commitPage_hbm (p : Nat) (v : BitVec 2048) (d : Dp) : (commitPage p v d).hbm = d.hbm := rfl
@[simp] theorem commitPage_chans (p : Nat) (v : BitVec 2048) (d : Dp) : (commitPage p v d).chans = d.chans := rfl
@[simp] theorem commitPage_mops (p : Nat) (v : BitVec 2048) (d : Dp) : (commitPage p v d).mops = d.mops := rfl
@[simp] theorem commitPage_nextMop (p : Nat) (v : BitVec 2048) (d : Dp) : (commitPage p v d).nextMop = d.nextMop := rfl
@[simp] theorem commitPage_que (p : Nat) (v : BitVec 2048) (d : Dp) : (commitPage p v d).que = d.que := rfl
@[simp] theorem commitPage_logs (p : Nat) (v : BitVec 2048) (d : Dp) : (commitPage p v d).logs = d.logs := rfl
@[simp] theorem commitPage_sec (p : Nat) (v : BitVec 2048) (d : Dp) : (commitPage p v d).sec = d.sec := rfl
@[simp] theorem commitPage_pmu (p : Nat) (v : BitVec 2048) (d : Dp) : (commitPage p v d).pmu = d.pmu := rfl
@[simp] theorem commitPage_latches (p : Nat) (v : BitVec 2048) (d : Dp) : (commitPage p v d).latches = d.latches := rfl
@[simp] theorem commitPage_out (p : Nat) (v : BitVec 2048) (d : Dp) : (commitPage p v d).out = d.out := rfl

@[simp] theorem recordPage_now (p : Nat) (x : SecRec) (r : DevRec) (d : Dp) : (recordPage p x r d).now = d.now := rfl
@[simp] theorem recordPage_free (p : Nat) (x : SecRec) (r : DevRec) (d : Dp) : (recordPage p x r d).free = d.free := rfl
@[simp] theorem recordPage_glb (p : Nat) (x : SecRec) (r : DevRec) (d : Dp) : (recordPage p x r d).glb = d.glb := rfl
@[simp] theorem recordPage_sup (p : Nat) (x : SecRec) (r : DevRec) (d : Dp) : (recordPage p x r d).sup = d.sup := rfl
@[simp] theorem recordPage_fab (p : Nat) (x : SecRec) (r : DevRec) (d : Dp) : (recordPage p x r d).fab = d.fab := rfl
@[simp] theorem recordPage_thm (p : Nat) (x : SecRec) (r : DevRec) (d : Dp) : (recordPage p x r d).thm = d.thm := rfl
@[simp] theorem recordPage_flt (p : Nat) (x : SecRec) (r : DevRec) (d : Dp) : (recordPage p x r d).flt = d.flt := rfl
@[simp] theorem recordPage_rec_ (p : Nat) (x : SecRec) (r : DevRec) (d : Dp) : (recordPage p x r d).rec_ = d.rec_ := rfl
@[simp] theorem recordPage_hif (p : Nat) (x : SecRec) (r : DevRec) (d : Dp) : (recordPage p x r d).hif = d.hif := rfl
@[simp] theorem recordPage_ceil (p : Nat) (x : SecRec) (r : DevRec) (d : Dp) : (recordPage p x r d).ceil = d.ceil := rfl
@[simp] theorem recordPage_acc (p : Nat) (x : SecRec) (r : DevRec) (d : Dp) : (recordPage p x r d).acc = d.acc := rfl
@[simp] theorem recordPage_lc (p : Nat) (x : SecRec) (r : DevRec) (d : Dp) : (recordPage p x r d).lc = d.lc := rfl
@[simp] theorem recordPage_mrg (p : Nat) (x : SecRec) (r : DevRec) (d : Dp) : (recordPage p x r d).mrg = d.mrg := rfl
@[simp] theorem recordPage_jrn (p : Nat) (x : SecRec) (r : DevRec) (d : Dp) : (recordPage p x r d).jrn = d.jrn := rfl
@[simp] theorem recordPage_map (p : Nat) (x : SecRec) (r : DevRec) (d : Dp) : (recordPage p x r d).map = d.map := rfl
@[simp] theorem recordPage_mh (p : Nat) (x : SecRec) (r : DevRec) (d : Dp) : (recordPage p x r d).mh = d.mh := rfl
@[simp] theorem recordPage_cod (p : Nat) (x : SecRec) (r : DevRec) (d : Dp) : (recordPage p x r d).cod = d.cod := rfl
@[simp] theorem recordPage_hbm (p : Nat) (x : SecRec) (r : DevRec) (d : Dp) : (recordPage p x r d).hbm = d.hbm := rfl
@[simp] theorem recordPage_chans (p : Nat) (x : SecRec) (r : DevRec) (d : Dp) : (recordPage p x r d).chans = d.chans := rfl
@[simp] theorem recordPage_mops (p : Nat) (x : SecRec) (r : DevRec) (d : Dp) : (recordPage p x r d).mops = d.mops := rfl
@[simp] theorem recordPage_nextMop (p : Nat) (x : SecRec) (r : DevRec) (d : Dp) : (recordPage p x r d).nextMop = d.nextMop := rfl
@[simp] theorem recordPage_que (p : Nat) (x : SecRec) (r : DevRec) (d : Dp) : (recordPage p x r d).que = d.que := rfl
@[simp] theorem recordPage_logs (p : Nat) (x : SecRec) (r : DevRec) (d : Dp) : (recordPage p x r d).logs = d.logs := rfl
@[simp] theorem recordPage_sec (p : Nat) (x : SecRec) (r : DevRec) (d : Dp) : (recordPage p x r d).sec = d.sec := rfl
@[simp] theorem recordPage_pmu (p : Nat) (x : SecRec) (r : DevRec) (d : Dp) : (recordPage p x r d).pmu = d.pmu := rfl
@[simp] theorem recordPage_latches (p : Nat) (x : SecRec) (r : DevRec) (d : Dp) : (recordPage p x r d).latches = d.latches := rfl
@[simp] theorem recordPage_out (p : Nat) (x : SecRec) (r : DevRec) (d : Dp) : (recordPage p x r d).out = d.out := rfl

@[simp] theorem modSec_now (p : Nat) (f : SecRec → SecRec) (d : Dp) : (modSec p f d).now = d.now := rfl
@[simp] theorem modSec_free (p : Nat) (f : SecRec → SecRec) (d : Dp) : (modSec p f d).free = d.free := rfl
@[simp] theorem modSec_glb (p : Nat) (f : SecRec → SecRec) (d : Dp) : (modSec p f d).glb = d.glb := rfl
@[simp] theorem modSec_sup (p : Nat) (f : SecRec → SecRec) (d : Dp) : (modSec p f d).sup = d.sup := rfl
@[simp] theorem modSec_fab (p : Nat) (f : SecRec → SecRec) (d : Dp) : (modSec p f d).fab = d.fab := rfl
@[simp] theorem modSec_thm (p : Nat) (f : SecRec → SecRec) (d : Dp) : (modSec p f d).thm = d.thm := rfl
@[simp] theorem modSec_flt (p : Nat) (f : SecRec → SecRec) (d : Dp) : (modSec p f d).flt = d.flt := rfl
@[simp] theorem modSec_rec_ (p : Nat) (f : SecRec → SecRec) (d : Dp) : (modSec p f d).rec_ = d.rec_ := rfl
@[simp] theorem modSec_hif (p : Nat) (f : SecRec → SecRec) (d : Dp) : (modSec p f d).hif = d.hif := rfl
@[simp] theorem modSec_ceil (p : Nat) (f : SecRec → SecRec) (d : Dp) : (modSec p f d).ceil = d.ceil := rfl
@[simp] theorem modSec_acc (p : Nat) (f : SecRec → SecRec) (d : Dp) : (modSec p f d).acc = d.acc := rfl
@[simp] theorem modSec_lc (p : Nat) (f : SecRec → SecRec) (d : Dp) : (modSec p f d).lc = d.lc := rfl
@[simp] theorem modSec_mrg (p : Nat) (f : SecRec → SecRec) (d : Dp) : (modSec p f d).mrg = d.mrg := rfl
@[simp] theorem modSec_jrn (p : Nat) (f : SecRec → SecRec) (d : Dp) : (modSec p f d).jrn = d.jrn := rfl
@[simp] theorem modSec_map (p : Nat) (f : SecRec → SecRec) (d : Dp) : (modSec p f d).map = d.map := rfl
@[simp] theorem modSec_mh (p : Nat) (f : SecRec → SecRec) (d : Dp) : (modSec p f d).mh = d.mh := rfl
@[simp] theorem modSec_cod (p : Nat) (f : SecRec → SecRec) (d : Dp) : (modSec p f d).cod = d.cod := rfl
@[simp] theorem modSec_hbm (p : Nat) (f : SecRec → SecRec) (d : Dp) : (modSec p f d).hbm = d.hbm := rfl
@[simp] theorem modSec_chans (p : Nat) (f : SecRec → SecRec) (d : Dp) : (modSec p f d).chans = d.chans := rfl
@[simp] theorem modSec_mops (p : Nat) (f : SecRec → SecRec) (d : Dp) : (modSec p f d).mops = d.mops := rfl
@[simp] theorem modSec_nextMop (p : Nat) (f : SecRec → SecRec) (d : Dp) : (modSec p f d).nextMop = d.nextMop := rfl
@[simp] theorem modSec_que (p : Nat) (f : SecRec → SecRec) (d : Dp) : (modSec p f d).que = d.que := rfl
@[simp] theorem modSec_logs (p : Nat) (f : SecRec → SecRec) (d : Dp) : (modSec p f d).logs = d.logs := rfl
@[simp] theorem modSec_sec (p : Nat) (f : SecRec → SecRec) (d : Dp) : (modSec p f d).sec = d.sec := rfl
@[simp] theorem modSec_pmu (p : Nat) (f : SecRec → SecRec) (d : Dp) : (modSec p f d).pmu = d.pmu := rfl
@[simp] theorem modSec_latches (p : Nat) (f : SecRec → SecRec) (d : Dp) : (modSec p f d).latches = d.latches := rfl
@[simp] theorem modSec_out (p : Nat) (f : SecRec → SecRec) (d : Dp) : (modSec p f d).out = d.out := rfl

@[simp] theorem modDev_now (p : Nat) (f : DevRec → DevRec) (d : Dp) : (modDev p f d).now = d.now := rfl
@[simp] theorem modDev_free (p : Nat) (f : DevRec → DevRec) (d : Dp) : (modDev p f d).free = d.free := rfl
@[simp] theorem modDev_glb (p : Nat) (f : DevRec → DevRec) (d : Dp) : (modDev p f d).glb = d.glb := rfl
@[simp] theorem modDev_sup (p : Nat) (f : DevRec → DevRec) (d : Dp) : (modDev p f d).sup = d.sup := rfl
@[simp] theorem modDev_fab (p : Nat) (f : DevRec → DevRec) (d : Dp) : (modDev p f d).fab = d.fab := rfl
@[simp] theorem modDev_thm (p : Nat) (f : DevRec → DevRec) (d : Dp) : (modDev p f d).thm = d.thm := rfl
@[simp] theorem modDev_flt (p : Nat) (f : DevRec → DevRec) (d : Dp) : (modDev p f d).flt = d.flt := rfl
@[simp] theorem modDev_rec_ (p : Nat) (f : DevRec → DevRec) (d : Dp) : (modDev p f d).rec_ = d.rec_ := rfl
@[simp] theorem modDev_hif (p : Nat) (f : DevRec → DevRec) (d : Dp) : (modDev p f d).hif = d.hif := rfl
@[simp] theorem modDev_ceil (p : Nat) (f : DevRec → DevRec) (d : Dp) : (modDev p f d).ceil = d.ceil := rfl
@[simp] theorem modDev_acc (p : Nat) (f : DevRec → DevRec) (d : Dp) : (modDev p f d).acc = d.acc := rfl
@[simp] theorem modDev_lc (p : Nat) (f : DevRec → DevRec) (d : Dp) : (modDev p f d).lc = d.lc := rfl
@[simp] theorem modDev_mrg (p : Nat) (f : DevRec → DevRec) (d : Dp) : (modDev p f d).mrg = d.mrg := rfl
@[simp] theorem modDev_jrn (p : Nat) (f : DevRec → DevRec) (d : Dp) : (modDev p f d).jrn = d.jrn := rfl
@[simp] theorem modDev_map (p : Nat) (f : DevRec → DevRec) (d : Dp) : (modDev p f d).map = d.map := rfl
@[simp] theorem modDev_mh (p : Nat) (f : DevRec → DevRec) (d : Dp) : (modDev p f d).mh = d.mh := rfl
@[simp] theorem modDev_cod (p : Nat) (f : DevRec → DevRec) (d : Dp) : (modDev p f d).cod = d.cod := rfl
@[simp] theorem modDev_hbm (p : Nat) (f : DevRec → DevRec) (d : Dp) : (modDev p f d).hbm = d.hbm := rfl
@[simp] theorem modDev_chans (p : Nat) (f : DevRec → DevRec) (d : Dp) : (modDev p f d).chans = d.chans := rfl
@[simp] theorem modDev_mops (p : Nat) (f : DevRec → DevRec) (d : Dp) : (modDev p f d).mops = d.mops := rfl
@[simp] theorem modDev_nextMop (p : Nat) (f : DevRec → DevRec) (d : Dp) : (modDev p f d).nextMop = d.nextMop := rfl
@[simp] theorem modDev_que (p : Nat) (f : DevRec → DevRec) (d : Dp) : (modDev p f d).que = d.que := rfl
@[simp] theorem modDev_logs (p : Nat) (f : DevRec → DevRec) (d : Dp) : (modDev p f d).logs = d.logs := rfl
@[simp] theorem modDev_sec (p : Nat) (f : DevRec → DevRec) (d : Dp) : (modDev p f d).sec = d.sec := rfl
@[simp] theorem modDev_pmu (p : Nat) (f : DevRec → DevRec) (d : Dp) : (modDev p f d).pmu = d.pmu := rfl
@[simp] theorem modDev_latches (p : Nat) (f : DevRec → DevRec) (d : Dp) : (modDev p f d).latches = d.latches := rfl
@[simp] theorem modDev_out (p : Nat) (f : DevRec → DevRec) (d : Dp) : (modDev p f d).out = d.out := rfl

@[simp] theorem commitPage_pst_sec (p : Nat) (v : BitVec 2048) (d : Dp) : (commitPage p v d).pst.sec = d.pst.sec := rfl
@[simp] theorem commitPage_pst_dev (p : Nat) (v : BitVec 2048) (d : Dp) : (commitPage p v d).pst.dev = d.pst.dev := rfl
@[simp] theorem recordPage_pst_sec (p : Nat) (x : SecRec) (r : DevRec) (d : Dp) : (recordPage p x r d).pst.sec = x := rfl
@[simp] theorem recordPage_pst_dev (p : Nat) (x : SecRec) (r : DevRec) (d : Dp) : (recordPage p x r d).pst.dev = r := rfl
@[simp] theorem modSec_pst_sec (p : Nat) (f : SecRec → SecRec) (d : Dp) : (modSec p f d).pst.sec = f d.pst.sec := rfl
@[simp] theorem modSec_pst_dev (p : Nat) (f : SecRec → SecRec) (d : Dp) : (modSec p f d).pst.dev = d.pst.dev := rfl
@[simp] theorem modDev_pst_sec (p : Nat) (f : DevRec → DevRec) (d : Dp) : (modDev p f d).pst.sec = d.pst.sec := rfl
@[simp] theorem modDev_pst_dev (p : Nat) (f : DevRec → DevRec) (d : Dp) : (modDev p f d).pst.dev = f d.pst.dev := rfl

end Sys2Proof.Machine

namespace Sys2Proof.Laws

open Sys2Proof.Machine

/-- Storing a page leaves the slots of every other page as they are. -/
theorem commitPage_slots (p : Nat) (v : BitVec 2048) (d : Dp) (k : Nat) (h : ∀ a < 2, k ≠ slotKey d p a) :
    smGet {} (commitPage p v d).pst.slots k = smGet {} d.pst.slots k := by
  unfold commitPage written
  refine smGet_smSet_other _ _ _ _ _ (h _ ?_)
  split
  · exact Nat.lt_succ_of_le (Nat.sub_le 1 _)
  · decide

/-- Storing a record of a page leaves the slots of every other page as they are. -/
theorem recordPage_slots (p : Nat) (x : SecRec) (r : DevRec) (d : Dp) (k : Nat) (h : ∀ a < 2, k ≠ slotKey d p a) :
    smGet {} (recordPage p x r d).pst.slots k = smGet {} d.pst.slots k := by
  unfold recordPage
  exact commitPage_slots _ _ _ k h

/-- One slot of a spread counter is another; the rest are as they were. -/
theorem cntSlot_putCount (n i n' i' : Nat) (s : CntSlot) (c : Ctl) :
    cntSlot (putCount n i s c) n' i' = if n' * 64 + i' = n * 64 + i then s else cntSlot c n' i' := by
  unfold cntSlot putCount
  dsimp only
  split
  · rename_i h
    rw [h, smGet_smSet_same]
  · rename_i h
    rw [smGet_smSet_other _ _ _ _ _ h]

end Sys2Proof.Laws
end

