-- ==== Sys2Proof/Laws/Ctl.lean ====
section
/-! SUPPORT. What a step can do to the control state, said once: every change of it is a chain of the moves below, or the
one change that sets the configuration lock. The invariants of the control state (the lock, the fuse, the counters, the
register file) are inductions over them. -/

namespace Sys2Proof.Laws

open Sys2Proof.Machine

/-- The changes that a command makes to the control state; `misread` is whether a slot of a spread counter may read otherwise. -/
inductive CtlMove (misread : Prop) : Ctl → Ctl → Prop
  /-- Nothing changes. -/
  | same (c : Ctl) : CtlMove misread c c
  /-- A write loads the register word at an offset. -/
  | load (c : Ctl) (off : Nat) (h : RegHit) (data : Word) (hit : findReg off = some h) :
      CtlMove misread c (crSet c off (loadWord c.cfgLocked h (crGet c off) data))
  /-- PST_CNT_DAMAGED is written. -/
  | damagedMask (c : Ctl) (m : Word) : CtlMove misread c { c with cntDamaged := m }
  /-- A spread counter is written. -/
  | count (c : Ctl) (n v : Nat) : CtlMove misread c (cntWrite n v c)
  /-- Bits of the slots of the spread counters change. -/
  | slots (c : Ctl) (m : SMap CntSlot)
      (h : misread ∨ ∀ n < 32, ∀ i < 64, readCount (cntSlot { c with cnt := m } n i) = readCount (cntSlot c n i)) :
      CtlMove misread c { c with cnt := m }
  /-- FLR resets the queue registers. -/
  | flr (c : Ctl) : CtlMove misread c (flrCtl c)
  /-- A RISE begins. -/
  | rise (c : Ctl) (warm : Bool) : CtlMove misread c (riseCtl warm c)
  /-- VDD_AUX is applied or lost. -/
  | aux (c : Ctl) : CtlMove misread c { riseCtl false c with cr := [] }
  /-- Host writes are opened. -/
  | opens (c : Ctl) : CtlMove misread c { c with writesOpen := true }
  /-- The RETURNED fuse is blown. -/
  | fuse (c : Ctl) : CtlMove misread c { c with returnedFuse := true }
  /-- One change after another. -/
  | trans {a b c : Ctl} (x : CtlMove misread a b) (y : CtlMove misread b c) : CtlMove misread a c

variable {mr : Prop}

theorem CtlMove.mono {q : Prop} {a b : Ctl} (m : CtlMove mr a b) (f : mr → q) : CtlMove q a b := by
  induction m with
  | same c => exact .same c
  | load c off h data hit => exact .load c off h data hit
  | damagedMask c m => exact .damagedMask c m
  | count c n v => exact .count c n v
  | slots c m h => exact .slots c m (h.imp_left f)
  | flr c => exact .flr c
  | rise c warm => exact .rise c warm
  | aux c => exact .aux c
  | opens c => exact .opens c
  | fuse c => exact .fuse c
  | trans _ _ ih ih' => exact ih.trans ih'

/-- The change at the end of RISE: the anti-rollback counter follows the running image, and the lock is set. -/
def LockSet (a b : Ctl) : Prop := ∃ d, b = { advanceFw d a with cfgLocked := true }

theorem loadReg_move (off : Nat) (h : RegHit) (data : Word) (c : Ctl) (hit : findReg off = some h) :
    CtlMove mr c (loadReg off h data c) := by
  unfold loadReg
  split
  · exact .same c
  · exact .load c off h data hit

theorem writeHit_move (off : Nat) (h : RegHit) (data : Word) (c : Ctl) (d : Dp) (hit : findReg off = some h) :
    CtlMove mr c (writeHit off h data c d).1 := by
  unfold writeHit
  refine (loadReg_move off h data c hit).trans ?_
  dsimp only
  split
  · exact .damagedMask _ _
  · exact .same _

theorem writeWord_move (off : Nat) (data : Word) (x : Ctl × Dp) : CtlMove mr x.1 (writeWord off data x).1 := by
  unfold writeWord
  split
  · exact .same _
  · split
    · exact .same _
    · split
      · exact .same _
      · split
        · exact .same _
        · exact writeHit_move _ _ _ _ _ (by assumption)

theorem writeAccess_move (p : Path) (off size : Nat) (data : BitVec 64) (c : Ctl) (d : Dp) :
    CtlMove mr c (writeAccess p off size data c d).1 := by
  unfold writeAccess
  dsimp only
  split
  · exact .same _
  · split
    · exact .same _
    · split
      · exact writeWord_move _ _ (c, d)
      · split
        · exact (writeWord_move _ _ (c, d)).trans (writeWord_move _ _ _)
        · exact .same _

theorem applyRecord_move (r : CfgRec) (c : Ctl) : CtlMove mr c (applyRecord r c) := by
  unfold applyRecord
  split
  · exact .same c
  · rename_i t ht
    split
    · exact .same c
    · refine .load c t.1 t.2 _ ?_
      unfold cfgTarget at ht
      split at ht
      · cases ht
      · split at ht
        · cases ht
        · split at ht
          · cases ht
          · rename_i h hf
            cases hm : imageMask h.reg.name h.i with
            | none => simp [hm] at ht
            | some m =>
              simp only [hm, Option.map_some, Option.some.injEq] at ht
              subst ht
              exact hf

theorem foldRecords_move (l : List CfgRec) (c : Ctl) : CtlMove mr c (l.foldl (fun c r => applyRecord r c) c) := by
  induction l generalizing c with
  | nil => exact .same c
  | cons r l ih => exact (applyRecord_move r c).trans (ih _)

theorem applyImage_move (c : Ctl) (d : Dp) : CtlMove mr c (applyImage c d).1 := by
  unfold applyImage
  split
  · exact .same c
  · exact .same c
  · exact foldRecords_move _ c

theorem countRead_move (x : Ctl × Dp) (n : Nat) : CtlMove mr x.1 (countRead x n).1 := by
  unfold countRead
  dsimp only
  split
  · exact .same _
  · exact .damagedMask _ _

theorem countReads_move (l : List Nat) (x : Ctl × Dp) : CtlMove mr x.1 (l.foldl countRead x).1 := by
  induction l generalizing x with
  | nil => exact .same _
  | cons n l ih => exact (countRead_move x n).trans (ih _)

theorem storeRead_move (x : Ctl × Dp) : CtlMove mr x.1 (storeRead x).1 := by
  unfold storeRead
  generalize pagesRead _ x.2 = d
  exact countReads_move _ (x.1, d)

theorem startWarmRise_move (k : BitVec 8) (c : Ctl) (d : Dp) : CtlMove mr c (startWarmRise k c d).1 := by
  unfold startWarmRise
  generalize wipe true _ = w
  have h := (CtlMove.rise (misread := mr) c true).trans (storeRead_move (riseCtl true c, w))
  generalize storeRead _ = x at h ⊢
  exact h

theorem tryWarmRise_move (c : Ctl) (d : Dp) : CtlMove mr c (tryWarmRise c d).1 := by
  unfold tryWarmRise
  split
  · exact startWarmRise_move _ c d
  · exact .same c

theorem isolateCounted_move (k : Nat) (w : Bool) (m : BitVec 4) (c : Ctl) (d : Dp) :
    CtlMove mr c (isolateCounted k w m c d).1 := by
  unfold isolateCounted
  dsimp only
  split
  · exact .count c 8 _
  · exact .same c

theorem auxApplied_move (t : BitVec 16) (c : Ctl) (d : Dp) : CtlMove mr c (auxApplied t c d).1 := by
  unfold auxApplied
  split
  · exact .same c
  · exact .aux c

theorem cutCount_move (cut : CntCut) (c : Ctl) (d : Dp) (h : ∀ b, cut = .failing b → mr) : CtlMove mr c (cutCount cut c d) := by
  unfold cutCount
  split
  · exact .same c
  · cases cut with
    | unchanged => exact .same c
    | written => exact .count c _ _
    | failing b =>
      dsimp only
      split
      · exact .same c
      · exact .slots c _ (.inl (h b rfl))

theorem auxLost_move (v : Bool) (cut : CntCut) (c : Ctl) (d : Dp) (h : ∀ b, cut = .failing b → mr) :
    CtlMove mr c (auxLost v cut c d).1 := by
  unfold auxLost
  split
  · exact .same c
  · exact (cutCount_move cut c d h).trans (.aux _)

/-- Bits that change touch the slots of the counters alone, and what becomes of those rests on the slots alone. -/
theorem bitsChange_frame (e : PstErr) :
    ∃ f : SMap CntSlot → SMap CntSlot, ∀ y : Ctl × Dp, (bitsChange y e).1 = { y.1 with cnt := f y.1.cnt } := by
  cases e with
  | group slot g bits => exact ⟨id, fun _ => rfl⟩
  | codeword slot header bits => exact ⟨id, fun _ => rfl⟩
  | counter n i bits =>
    exact ⟨fun m => smSet {} m (n * 64 + i) (countOf (countGroup (smGet {} m (n * 64 + i)) ^^^ bits)), fun _ => rfl⟩

theorem bitsChanges_frame (l : List PstErr) :
    ∃ f : SMap CntSlot → SMap CntSlot, ∀ y : Ctl × Dp, (l.foldl bitsChange y).1 = { y.1 with cnt := f y.1.cnt } := by
  induction l with
  | nil => exact ⟨id, fun _ => rfl⟩
  | cons e _ ih =>
    obtain ⟨f, hf⟩ := ih
    obtain ⟨g, hg⟩ := bitsChange_frame e
    exact ⟨fun m => f (g m), fun y => by rw [List.foldl_cons, hf, hg]⟩

theorem bitsChanges_move (l : List PstErr) (c : Ctl) (d : Dp) (h : CountMisread c l → mr) :
    CtlMove mr c (l.foldl bitsChange (c, d)).1 := by
  obtain ⟨f, hf⟩ := bitsChanges_frame l
  rw [hf]
  refine .slots c _ ?_
  by_cases m : CountMisread c l
  · exact .inl (h m)
  · refine .inr fun n hn i hi => ?_
    unfold CountMisread at m
    rw [hf] at m
    exact Classical.byContradiction fun e => m ⟨n, hn, i, hi, e⟩

theorem riseStarts_move (l : List PstErr) (c : Ctl) (d : Dp) (h : CountMisread c l → mr) :
    CtlMove mr c (riseStarts l c d).1 := by
  unfold riseStarts
  split
  · exact .same c
  · dsimp only
    generalize seedLfsrs _ = d0
    have hm : CountMisread (riseCtl false c) l → mr := by
      intro m
      apply h
      obtain ⟨f, hf⟩ := bitsChanges_frame l
      unfold CountMisread at m ⊢
      rw [hf] at m ⊢
      exact m
    have hx := (CtlMove.rise c false).trans (bitsChanges_move l (riseCtl false c) d0 hm)
    generalize l.foldl bitsChange _ = x at hx ⊢
    generalize List.foldl _ x.2 _ = d1
    have hy := hx.trans (storeRead_move (x.1, d1))
    generalize storeRead _ = y at hy ⊢
    exact hy.trans (.count _ 1 _)

theorem flrBoth_move (c : Ctl) (d : Dp) : CtlMove mr c (flrBoth c d).1 := .flr c

theorem hotResets_move (c : Ctl) (d : Dp) : CtlMove mr c (hotResets c d).1 := by
  unfold hotResets
  split
  · exact .flr c
  · exact .same c

theorem refclkStops_move (c : Ctl) (d : Dp) : CtlMove mr c (refclkStops c d).1 := by
  unfold refclkStops
  dsimp only
  split
  · exact .same c
  · exact hotResets_move c _

theorem perstAsserts_move (c : Ctl) (d : Dp) : CtlMove mr c (perstAsserts c d).1 := by
  unfold perstAsserts
  split
  · exact .same c
  · dsimp only
    split
    · exact .same c
    · split
      · exact .flr c
      · split
        · exact .flr c
        · exact (CtlMove.flr c).trans (tryWarmRise_move _ _)

theorem sealDrain_move (v : Bool) (c : Ctl) (d : Dp) : CtlMove mr c (sealDrain v c d).1 := by
  unfold sealDrain
  split
  · exact .same c
  · dsimp only
    split
    · exact .same c
    · split
      · exact .count c 2 _
      · split <;> exact .same c

theorem isolateAction_move (m : Accepted) (c : Ctl) (d : Dp) : CtlMove mr c (isolateAction m c d).1 := by
  unfold isolateAction
  dsimp only
  split
  · exact .same c
  · split
    · split <;> exact .same c
    · split <;> exact isolateCounted_move _ _ _ _ _

theorem reactUnit_move (x : Accepted) (c : Ctl) (d : Dp) : CtlMove mr c
    (if (actionsOf c x).getLsbD 4 then isolateAction x c d else (c, d)).1 := by
  split
  · exact isolateAction_move _ _ _
  · exact .same c

theorem react_move (x : Accepted) (c : Ctl) (d : Dp) : CtlMove mr c (react x c d).1 := by
  have h := reactUnit_move (mr := mr) x c (reactQueues x c d)
  unfold react
  dsimp only
  generalize (if (actionsOf c x).getLsbD 4 = true then isolateAction x c (reactQueues x c d) else (c, reactQueues x c d))
    = z at h ⊢
  generalize ((actionsOf c x).getLsbD 1 || _) = b
  have hy : CtlMove mr c (if b = true then z else (z.1, msix 70 z.2)).1 := by cases b <;> exact h
  generalize (if b = true then z else (z.1, msix 70 z.2)) = y at hy ⊢
  split
  · exact hy
  · split <;> exact hy

theorem messageArrives_move (s : BitVec 8) (p : Bool) (c : Ctl) (d : Dp) : CtlMove mr c (messageArrives s p c d).1 := by
  unfold messageArrives
  dsimp only
  split
  · exact .same c
  · split
    · exact .same c
    · split
      · exact react_move _ _ _
      · exact .same c

theorem watchdogExpires_move (k : Nat) (c : Ctl) (d : Dp) : CtlMove mr c (watchdogExpires k c d).1 := by
  unfold watchdogExpires
  split
  · exact .same c
  · exact isolateCounted_move _ _ _ _ _

theorem isolateCmd_move (c : Ctl) (d : Dp) : CtlMove mr c (isolateCmd c d).1 := by
  unfold isolateCmd
  dsimp only
  split
  · exact .same c
  · split
    · exact .same c
    · split
      · exact .same c
      · split
        · exact .same c
        · exact isolateCounted_move _ _ _ _ _

theorem unlockCmd_move (c : Ctl) (d : Dp) : CtlMove mr c (unlockCmd c d).1 := by
  unfold unlockCmd
  dsimp only
  split
  · exact .same c
  · split
    · exact .same c
    · split
      · exact .same c
      · split
        · exact .same c
        · split
          · exact .same c
          · exact .count c 7 _

theorem commitReturn_move (c : Ctl) (d : Dp) : CtlMove mr c (commitReturn c d).1 := by
  unfold commitReturn
  generalize ok _ c _ = d3
  exact (CtlMove.fuse c).trans (startWarmRise_move _ _ _)

theorem returnAdvance_move (c : Ctl) (d : Dp) : CtlMove mr c (returnAdvance c d).1 := by
  unfold returnAdvance
  split
  · exact commitReturn_move c d
  · exact .same c

theorem returnCmd_move (c : Ctl) (d : Dp) : CtlMove mr c (returnCmd c d).1 := by
  unfold returnCmd
  split
  · exact .same c
  · split
    · exact returnAdvance_move c d
    · split
      · exact .same c
      · split
        · exact .same c
        · split
          · exact .same c
          · exact returnAdvance_move c _

theorem debugFull_move (op : DbgOp) (c : Ctl) (d : Dp) : CtlMove mr c (debugFull op c d).1 := by
  cases op <;> unfold debugFull <;> dsimp only <;>
    first
      | exact .same c
      | exact writeAccess_move _ _ _ _ _ _
      | (split <;> exact .same c)

theorem debugAccess_move (op : DbgOp) (c : Ctl) (d : Dp) : CtlMove mr c (debugAccess op c d).1 := by
  unfold debugAccess
  split
  · exact .same c
  · split
    · exact .same c
    · split
      · exact .same c
      · split
        · exact .same c
        · split
          · exact debugFull_move op c d
          · exact .same c

theorem pathRead_move (p : Path) (off size : Nat) (c : Ctl) (d : Dp) : CtlMove mr c (pathRead p off size c d).1 := by
  cases p <;> unfold pathRead <;> dsimp only <;>
    first
      | exact debugAccess_move _ _ _
      | (split <;> exact .same c)

theorem hbmFillStep_move (c : Ctl) (d : Dp) : CtlMove mr c (hbmFillStep c d).1 := tryWarmRise_move c d

theorem firmwareVerifies_move (a b : Option FwImage) (c : Ctl) (d : Dp) : CtlMove mr c (firmwareVerifies a b c d).1 := by
  unfold firmwareVerifies
  split
  · exact .same c
  · dsimp only
    split
    · exact .same c
    · exact (applyImage_move c _).trans (.opens _)

theorem trainChannel_move (f : List ChanTrain) (k : Nat) (x : Ctl × Dp) : CtlMove mr x.1 (trainChannel f k x).1 := by
  unfold trainChannel
  extract_lets
  split
  · exact .same _
  · split
    · exact .same _
    · split
      · exact isolateCounted_move _ _ _ _ _
      · split
        · exact .same _
        · exact isolateCounted_move _ _ _ _ _

theorem trainChannels_move (f : List ChanTrain) (l : List Nat) (x : Ctl × Dp) :
    CtlMove mr x.1 (l.foldl (fun x k => trainChannel f k x) x).1 := by
  induction l generalizing x with
  | nil => exact .same _
  | cons e l ih => exact (trainChannel_move f e x).trans (ih _)

theorem dormantOver_move (c : Ctl) (d : Dp) : CtlMove mr c (dormantOver c d).1 := by
  unfold dormantOver
  split
  · split
    · exact .same c
    · split
      · exact startWarmRise_move _ _ _
      · exact .same c
  · exact .same c

theorem trainAll_move (f : List ChanTrain) (c : Ctl) (d : Dp) : CtlMove mr c (trainAll f c d).1 :=
  trainChannels_move f _ (c, d)

theorem mediaTrains_move (f : List ChanTrain) (c : Ctl) (d : Dp) : CtlMove mr c (mediaTrains f c d).1 := by
  unfold mediaTrains
  by_cases h1 : (!riseAt 5 d) = true
  · rw [if_pos h1]
    exact .same c
  · rw [if_neg h1]
    by_cases h2 : d.sec.retStep = 9
    · rw [if_pos h2]
      have e := trainAll_move (mr := mr) f c { d with sec := { d.sec with retStep := 0 } }
      generalize trainAll f c { d with sec := { d.sec with retStep := 0 } } = x at e ⊢
      exact e
    · rw [if_neg h2]
      have e := trainAll_move (mr := mr) f c (beforeTraining f c d)
      generalize trainAll f c (beforeTraining f c d) = x at e ⊢
      exact e

theorem dirtyShutdown_move (b : Bool) (k : Nat) (c : Ctl) (d : Dp) : CtlMove mr c (dirtyShutdown b k c d).1 := by
  unfold dirtyShutdown
  dsimp only
  split
  · exact .same c
  · exact .count c 0 _

theorem classify_move (c : Ctl) (d : Dp) : CtlMove mr c (classify c d).1 := by
  unfold classify
  dsimp only
  split
  · split
    · exact .same c
    · exact dirtyShutdown_move _ _ _ _
  · exact dirtyShutdown_move _ _ _ _
  · split <;> exact .same c

theorem replays_move (l : List Image) (b : List (Stripe × Nat)) (c : Ctl) (d : Dp) : CtlMove mr c (replays l b c d).1 := by
  unfold replays
  split
  · exact .same c
  · split
    · exact .same c
    · exact classify_move c d

theorem advanceFw_move (d : Dp) (c : Ctl) : CtlMove mr c (advanceFw d c) := by
  unfold advanceFw
  split
  · exact .count c _ _
  · exact .same c

theorem riseCompletes_move (c : Ctl) (d : Dp) : CtlMove mr c (riseCompletes c d).1 ∨ LockSet c (riseCompletes c d).1 := by
  unfold riseCompletes
  split
  · exact .inl (.same c)
  · exact .inr ⟨d, rfl⟩

theorem tickWork_move (c : Ctl) (d : Dp) : CtlMove mr c (tickWork c d).1 :=
  (tryWarmRise_move c d).trans (returnAdvance_move _ _)

theorem flrIf_move (c : Ctl) (d : Dp) : CtlMove mr c (if linkUp d = true then flrBoth c d else (c, d)).1 := by
  split
  · exact .flr c
  · exact .same c

theorem ifAccess_move (b : Prop) [Decidable b] (p : Path) (off size : Nat) (data : BitVec 64) (c : Ctl) (d : Dp) :
    CtlMove mr c (if b then (c, d) else writeAccess p off size data c d).1 := by
  split
  · exact .same c
  · exact writeAccess_move _ _ _ _ _ _

theorem debugWrite_move (path : Path) (off size : Nat) (data : BitVec 64) (c : Ctl) (d : Dp) :
    CtlMove mr c (pathWrite path off size data c d).1 := by
  unfold pathWrite
  split
  · split
    · exact .same c
    · split
      · exact .same c
      · split
        · exact .same c
        · split
          · exact writeAccess_move _ _ _ _ _ _
          · exact .same c
  · exact writeAccess_move _ _ _ _ _ _

/-- What a command can do to the control state. -/
theorem exec_ctl (i : Instr) (s t : State) (h : exec i s = .next t) :
    CtlMove (Misreads s.ctl i) s.ctl t.ctl ∨ LockSet s.ctl t.ctl := by
  cases i <;> (injection h with h; subst h)
  case watchdog => exact .inl (watchdogExpires_move _ _ _)
  case vddAuxApplied => exact .inl (auxApplied_move _ _ _)
  case riseStart l => exact .inl (riseStarts_move l _ _ id)
  case hbmFill => exact .inl (hbmFillStep_move _ _)
  case firmwareVerify => exact .inl (firmwareVerifies_move _ _ _ _)
  case mediaTraining => exact .inl (mediaTrains_move _ _ _)
  case replay => exact .inl (replays_move _ _ _ _)
  case dormantExitComplete => exact .inl (dormantOver_move _ _)
  case riseComplete => exact riseCompletes_move _ _
  case sealRecord => exact .inl (sealDrain_move _ _ _)
  case perstNAsserted => exact .inl (perstAsserts_move _ _)
  case vddAuxLost v cut => exact .inl (auxLost_move v cut _ _ fun b hb => by subst hb; trivial)
  case faultMessage => exact .inl (messageArrives_move _ _ _ _)
  case flr => exact .inl (flrIf_move _ _)
  case hotReset => exact .inl (hotResets_move _ _)
  case refclkLoss => exact .inl (refclkStops_move _ _)
  case queueReset => exact .inl (ifAccess_move _ _ _ _ _ _ _)
  case queueEnable => exact .inl (ifAccess_move _ _ _ _ _ _ _)
  case mmIsolate => exact .inl (isolateCmd_move _ _)
  case dbgReturn => exact .inl (returnCmd_move _ _)
  case unlock => exact .inl (unlockCmd_move _ _)
  case recClearMaskWrite => exact .inl (writeAccess_move _ _ _ _ _ _)
  case ceilCtlClear => exact .inl (writeAccess_move _ _ _ _ _ _)
  case rearm => exact .inl (writeAccess_move _ _ _ _ _ _)
  case snapshot => exact .inl (writeAccess_move _ _ _ _ _ _)
  case pmuClear => exact .inl (writeAccess_move _ _ _ _ _ _)
  case freeze => exact .inl (writeAccess_move _ _ _ _ _ _)
  case counterWrite => exact .inl (ifAccess_move _ _ _ _ _ _ _)
  case rcRead => exact .inl (pathRead_move _ _ _ _ _)
  case lowWordRead => exact .inl (pathRead_move _ _ _ _ _)
  case registerWrite => exact .inl (debugWrite_move _ _ _ _ _ _)
  case dbgAccess => exact .inl (debugAccess_move _ _ _)
  all_goals exact .inl (.same _)

theorem countRuns_move (c : Ctl) (d : Dp) : CtlMove mr c (countRuns c d).1 := by
  unfold countRuns
  split
  · exact .same c
  · split
    · exact .same c
    · exact .count c _ _

theorem tick_move (s : State) : CtlMove mr s.ctl (tick s).ctl := by
  unfold tick
  dsimp only
  split
  · exact .same _
  · split
    · exact countRuns_move _ _
    · exact (countRuns_move _ _).trans (tickWork_move _ _)

/-- What a step can do to the control state. -/
theorem step_ctl (s t : State) (h : step s = .next t) :
    CtlMove (∃ i, s.pending.head? = some i ∧ Misreads s.ctl i) s.ctl t.ctl ∨ LockSet s.ctl t.ctl := by
  unfold step at h
  split at h
  · injection h with h
    subst h
    exact .inl (tick_move s)
  · rename_i c rest hq
    exact (exec_ctl c { s with pending := rest } t h).imp_left fun m => m.mono fun hm => ⟨c, by simp [hq], hm⟩

end Sys2Proof.Laws
end

