-- ==== Sys2Proof/Laws/Ops.lean ====
section
/-! SUPPORT. What each shared operation can do, once: how a command's effect becomes a step, and the parts of the datapath
that outputs, messages, counts and completions can touch. -/

namespace Sys2Proof.Laws

open Sys2Proof.Machine

/-- A command's effect is taken while it is in hand. -/
theorem whenHand_in {x : Nat} (f : Ctl → Dp → Dp) {s : State} (h : inHand s.dp x = true) :
    whenHand x f s = .next (s.withDp (f s.ctl s.dp)) := by
  simp [whenHand, onDp, h, State.withDp]

/-- A standard command's effect is taken while it is in hand and not delayed. -/
theorem whenStd_in {x : Nat} (f : Ctl → Dp → Dp) {s : State} (h : stdInHand s.dp x = true) (h' : s.dp.que.delayed = none) :
    whenStd x f s = .next (s.withDp (f s.ctl s.dp)) := by
  simp [whenStd, onDp, h, h', State.withDp]

/-- A standard command with the right payload length. -/
theorem withLen_ok {n : Nat} (f : Dp → Dp) {d : Dp} (h : d.que.mboxLen = n) : withLen n f d = f d := by
  simp [withLen, h]

/-- A background command while none runs. -/
theorem unlessBusy_idle (f : Dp → Dp) {d : Dp} (h : d.que.bg = none) (h' : d.sec.erase = false) : unlessBusy f d = f d := by
  simp [unlessBusy, h, h']

/-- A queue after its change. -/
theorem qOf_modQ (k : Nat) (f : Queue → Queue) (d : Dp) : qOf (modQ k f d) k = f (qOf d k) := by
  simp [qOf, modQ, smMod, smGet_smSet_same]

/-- Another queue after the change of one. -/
theorem qOf_modQ_ne {k j : Nat} (f : Queue → Queue) (d : Dp) (h : j ≠ k) : qOf (modQ k f d) j = qOf d j := by
  simp [qOf, modQ, smMod, smGet_smSet_other _ _ _ _ _ h]

/-- A change of a queue is its new value. -/
theorem modQ_congr {k : Nat} {f g : Queue → Queue} {d : Dp} (h : f (qOf d k) = g (qOf d k)) : modQ k f d = modQ k g d := by
  unfold qOf at h
  simp only [modQ, smMod, h]

/-- A message touches the held messages and the outputs alone. -/
theorem msix_frame (v : Nat) (d : Dp) : ∃ hif out, msix v d = { d with hif := hif, out := out } := by
  unfold msix
  split
  · exact ⟨_, _, rfl⟩
  · split
    · exact ⟨_, _, rfl⟩
    · exact ⟨_, _, rfl⟩

/-- A message whose vector is unmasked while the function may write is sent. -/
theorem msix_sent {v : Nat} {d : Dp} (h : d.hif.vecMask.getLsbD v = false) (h' : d.hif.busMaster = true) :
    msix v d = emit (.msix v) d := by
  unfold msix
  rw [h, h']
  rfl

/-- A posted write touches the held writes and the outputs alone. -/
theorem hostWrite_frame (a : BitVec 64) (ws : List (BitVec 64)) (d : Dp) :
    ∃ hif out, hostWrite a ws d = { d with hif := hif, out := out } := by
  unfold hostWrite
  split
  · exact ⟨_, _, rfl⟩
  · exact ⟨_, _, rfl⟩

/-- A count touches the monitor, and by its overflow message the messages. -/
theorem pmuAdd_frame (c : Ctl) (u n k : Nat) (d : Dp) :
    ∃ pmu hif out, pmuAdd c u n k d = { d with pmu := pmu, hif := hif, out := out } := by
  unfold pmuAdd
  dsimp only
  split
  · exact ⟨_, _, _, rfl⟩
  · split
    · obtain ⟨hif, out, e⟩ := msix_frame 71 { d with pmu := { d.pmu with
        cnt := smSet 0 d.pmu.cnt (u * 8 + n) (smGet 0 d.pmu.cnt (u * 8 + n) + BitVec.ofNat 48 k)
        ovf := smSet 0 d.pmu.ovf u (setBit (smGet 0 d.pmu.ovf u) n) } }
      exact ⟨_, hif, out, e⟩
    · exact ⟨_, _, _, rfl⟩

/-- What a channel's counts owe the other units touches the monitor alone. -/
theorem pmuOthers_frame (c : Ctl) (u code k : Nat) (d : Dp) : ∃ pmu, pmuOthers c u code k d = { d with pmu := pmu } := by
  unfold pmuOthers
  generalize c.cr.filter _ = l
  induction l generalizing d with
  | nil => exact ⟨_, rfl⟩
  | cons e l ih =>
    rw [List.foldl_cons]
    dsimp only
    split
    · obtain ⟨p, h⟩ := ih { d with pmu := { d.pmu with othStag := smMod 0 d.pmu.othStag ((e.1 - evtOff 0 0) / 4) (· + k) } }
      exact ⟨p, h⟩
    · exact ih d

theorem foldl_frame {α : Type} (l : List α) (f : Dp → α → Dp)
    (h : ∀ d a, ∃ pmu hif out, f d a = { d with pmu := pmu, hif := hif, out := out }) (d : Dp) :
    ∃ pmu hif out, l.foldl f d = { d with pmu := pmu, hif := hif, out := out } := by
  induction l generalizing d with
  | nil => exact ⟨_, _, _, rfl⟩
  | cons a l ih =>
    obtain ⟨p, h', o, e⟩ := h d a
    obtain ⟨p2, h2, o2, e2⟩ := ih (f d a)
    refine ⟨p2, h2, o2, ?_⟩
    rw [List.foldl_cons, e2, e]

/-- An event counted touches the monitor, and by an overflow message the messages. -/
theorem pmuTicks_frame (c : Ctl) (u code k : Nat) (d : Dp) :
    ∃ pmu hif out, pmuTicks c u code k d = { d with pmu := pmu, hif := hif, out := out } := by
  have others : ∃ pmu, (if (1 ≤ u && u ≤ 17 && outcomeEvent code && !pmuFrozen c) = true then pmuOthers c u code k d else d) = { d with pmu := pmu } := by
    split
    · exact pmuOthers_frame c u code k d
    · exact ⟨_, rfl⟩
  obtain ⟨p, hp⟩ := others
  unfold pmuTicks
  rw [hp]
  split
  · exact ⟨_, _, _, rfl⟩
  · obtain ⟨p', h', o', e⟩ := foldl_frame (List.range 8) _ (fun d n => by
      show ∃ pmu hif out, (if rb c (evtOff u n) 31 = true ∧ rg c (evtOff u n) 0 8 = code then
        if 1 ≤ u ∧ u ≤ 17 then pmuStage u n k d else pmuAdd c u n k d else d) = { d with pmu := pmu, hif := hif, out := out }
      split
      · split
        · exact ⟨_, _, _, rfl⟩
        · exact pmuAdd_frame c u n k d
      · exact ⟨_, _, _, rfl⟩) { d with pmu := p }
    exact ⟨p', h', o', e⟩

/-- An event counted touches the monitor, and by an overflow message the messages; in DORMANT it is not counted. -/
theorem pmuCount_frame (c : Ctl) (u code k : Nat) (d : Dp) :
    ∃ pmu hif out, pmuCount c u code k d = { d with pmu := pmu, hif := hif, out := out } := by
  unfold pmuCount
  split
  · exact ⟨_, _, _, rfl⟩
  · exact pmuTicks_frame c u code k d

/-- A frozen monitor counts nothing. -/
theorem pmuCount_frozen {c : Ctl} (h : pmuFrozen c = true) (u code k : Nat) (d : Dp) : pmuCount c u code k d = d := by
  simp [pmuCount, pmuTicks, h]

/-- The withholding alone is brought up to date. -/
theorem updWithhold_frame (c : Ctl) (d : Dp) : ∃ b, updWithhold c d = { d with hif := { d.hif with withheld := b } } :=
  ⟨_, rfl⟩

/-- A fault message touches the fault collector alone. -/
theorem raise_frame (src kind addr aux master access : Nat) (d : Dp) :
    ∃ flt, raise src kind addr aux master access d = { d with flt := flt } := by
  unfold raise sendMsg captureFirst
  dsimp only
  split <;> split <;> exact ⟨_, rfl⟩

/-- The reply of a mailbox command touches the mailbox and the messages. -/
theorem mailboxDone_frame (r : Ret) (p : List (BitVec 64)) (d : Dp) :
    ∃ que hif out, mailboxDone r p d = { d with que := que, hif := hif, out := out } := by
  unfold mailboxDone
  dsimp only
  split
  · obtain ⟨hif, out, e⟩ := msix_frame 64 (emit (.mailbox r.code p) { d with que := { d.que with
      cur := none, mboxRet := BitVec.ofNat 16 r.code, mboxOut := p, mboxBusy := false
      mboxLen := 8 * p.length } })
    exact ⟨_, hif, out, e⟩
  · exact ⟨_, _, _, rfl⟩

/-- The reply of a standard command touches the mailbox and the messages. -/
theorem mailboxReply_frame (r : Ret) (p : List (BitVec 8)) (d : Dp) :
    ∃ que hif out, mailboxReply r p d = { d with que := que, hif := hif, out := out } := by
  obtain ⟨q, h, o, e⟩ := mailboxDone_frame r (wordsOf ((p.length + 7) / 8) p) d
  unfold mailboxReply
  dsimp only
  rw [e]
  exact ⟨_, h, o, rfl⟩

/-- A completion entry touches its queue, the monitor and the messages. -/
theorem postEntry_frame (c : Ctl) (k st : Nat) (op tag : BitVec 16) (quiet : Bool) (rs : List (BitVec 64)) (d : Dp) :
    ∃ que pmu hif out, postEntry c k st op tag quiet rs d = { d with que := que, pmu := pmu, hif := hif, out := out } := by
  unfold postEntry
  dsimp only
  generalize hw : hostWrite _ _ d = d1
  obtain ⟨h1, o1, e1⟩ := hostWrite_frame _ _ d |>.imp fun _ h => h.imp fun _ h => hw ▸ h
  generalize hm : modQ k _ d1 = d2
  have e2 : d2 = { d1 with que := d2.que } := by rw [← hm]; rfl
  have e3 : ∃ pmu hif out, (if st = 0 then d2 else pmuCount c 23 0x12 1 d2) = { d2 with pmu := pmu, hif := hif, out := out } := by
    split
    · exact ⟨_, _, _, rfl⟩
    · exact pmuCount_frame _ _ _ _ _
  obtain ⟨p3, h3, o3, e3⟩ := e3
  rw [e3]
  split
  · refine ⟨d2.que, p3, h3, o3, ?_⟩
    rw [e2, e1]
  · obtain ⟨h4, o4, e4⟩ := msix_frame k { d2 with pmu := p3, hif := h3, out := o3 }
    refine ⟨d2.que, p3, h4, o4, ?_⟩
    rw [e4, e2, e1]

/-- The completion of a command touches the queues, the mailbox, the monitor and the messages. -/
theorem completeAs_frame (c : Ctl) (st : Status) (ret : Ret) (rs data : List (BitVec 64)) (d : Dp) :
    ∃ que pmu hif out, completeAs c st ret rs data d = { d with que := que, pmu := pmu, hif := hif, out := out } := by
  unfold completeAs
  split
  · exact ⟨_, _, _, _, rfl⟩
  · split
    · exact postEntry_frame _ _ _ _ _ _ _ _
    · split
      · obtain ⟨q, h, o, e⟩ := mailboxDone_frame ret ([BitVec.ofNat 64 st.code, rs.getD 0 0, rs.getD 1 0, rs.getD 2 0] ++ data) d
        exact ⟨q, _, h, o, e⟩
      · obtain ⟨q, h, o, e⟩ := mailboxDone_frame ret [] d
        exact ⟨q, _, h, o, e⟩

/-- The completion of the command in hand. -/
theorem complete_frame (c : Ctl) (st : Status) (rs : List (BitVec 64)) (d : Dp) :
    ∃ que pmu hif out, complete c st rs d = { d with que := que, pmu := pmu, hif := hif, out := out } :=
  completeAs_frame _ _ _ _ _ _

end Sys2Proof.Laws
end

