-- ==== Sys2Proof/Laws/Regs.lean ====
section
/-! SUPPORT. The laws of the register file: what `findReg` finds, and reads after writes of the stored words. -/

namespace Sys2Proof.Laws

open Sys2Proof.Machine

/-- The register file's order. -/
theorem rising_iff (m : SMap Word) : m.Pairwise (fun a b => a.1 < b.1) ↔ Rising none m := by
  have key : ∀ (m : SMap Word) (k : Nat), ((∀ b ∈ m, k < b.1) ∧ m.Pairwise (fun a b => a.1 < b.1)) ↔ Rising (some k) m := by
    intro m
    induction m with
    | nil => simp [Rising]
    | cons e m ih =>
      intro k
      obtain ⟨j, w⟩ := e
      simp only [List.mem_cons, forall_eq_or_imp, List.pairwise_cons, Rising, ← ih]
      constructor
      · rintro ⟨⟨a, b⟩, c, e⟩
        exact ⟨by simpa using a, c, e⟩
      · rintro ⟨a, c, e⟩
        have a' : k < j := a k rfl
        exact ⟨⟨a', fun x hx => lt_trans a' (c x hx)⟩, c, e⟩
  cases m with
  | nil => simp [Rising]
  | cons e m => obtain ⟨j, w⟩ := e; simp [Rising, ← key]

theorem rising_crSet (c : Ctl) (off : Nat) (v : Word) (h : Rising none c.cr) : Rising none (crSet c off v).cr := by
  unfold crSet smSet
  simp only
  split
  · exact rising_smErase _ _ _ h
  · exact rising_smPut _ _ _ _ h (by simp)

theorem rising_filter (m : SMap Word) (p : Nat × Word → Bool) (lo : Option Nat) (h : Rising lo m) : Rising lo (m.filter p) := by
  induction m generalizing lo with
  | nil => exact h
  | cons e m ih =>
    obtain ⟨j, w⟩ := e
    simp only [List.filter]
    split
    · exact ⟨h.1, ih _ h.2⟩
    · refine ih lo ?_
      cases lo with
      | none => 
        cases m with
        | nil => trivial
        | cons f m => exact ⟨by simp, h.2.2⟩
      | some l => exact rising_weaken m h.2 (by have := h.1 l rfl; omega)

/-- A stored word reads back. -/
theorem crGet_crSet (c : Ctl) (off : Nat) (v : Word) : crGet (crSet c off v) off = v := by
  unfold crGet crSet smSet
  simp only
  split
  · rename_i hv; rw [hv]; exact smGet_smErase_same _ _ _
  · exact smGet_smPut_same _ _ _ _

/-- Another word is untouched. -/
theorem crGet_crSet_ne (c : Ctl) (off off' : Nat) (v : Word) (h : off' ≠ off) : crGet (crSet c off v) off' = crGet c off' := by
  unfold crGet crSet
  unfold smSet
  split
  · exact smGet_smErase_other _ _ _ _ h
  · exact smGet_smPut_other _ _ _ _ _ h

/-- What `hitDef` finds belongs to its definition. -/
theorem hitDef_some {r : RegDef} {off : Nat} {h : RegHit} (e : hitDef r off = some h) : h.reg = r ∧ h.word < r.words := by
  unfold hitDef at e
  split at e
  · cases e
  · dsimp only at e
    rw [Option.ite_none_right_eq_some] at e
    obtain ⟨h1, h2⟩ := e
    injection h2 with h2
    subst h2
    exact ⟨rfl, h1.2.2⟩

/-- What `findReg` finds is in the register index, and its word is one of its register's. -/
theorem findReg_mem {off : Nat} {h : RegHit} (e : findReg off = some h) : h.reg ∈ regTable ∧ h.word < h.reg.words := by
  unfold findReg at e
  obtain ⟨r, hr, e⟩ := List.exists_of_findSome?_eq_some e
  obtain ⟨h1, h2⟩ := hitDef_some e
  subst h1
  exact ⟨hr, h2⟩

end Sys2Proof.Laws
end

