-- ==== Sys2Proof/Laws/State.lean ====
section
/-! SUPPORT. What each named update of the state leaves as it was: one lemma for each field, true by definition, so that no
proof unfolds an update. -/

namespace Sys2Proof.Machine

@[simp] theorem State.withDp_ctl (s : State) (d : Dp) : (s.withDp d).ctl = s.ctl := rfl
@[simp] theorem State.withDp_dp (s : State) (d : Dp) : (s.withDp d).dp = d := rfl
@[simp] theorem State.withDp_pending (s : State) (d : Dp) : (s.withDp d).pending = s.pending := rfl

@[simp] theorem emit_now (o : Out) (d : Dp) : (emit o d).now = d.now := rfl
@[simp] theorem emit_free (o : Out) (d : Dp) : (emit o d).free = d.free := rfl
@[simp] theorem emit_glb (o : Out) (d : Dp) : (emit o d).glb = d.glb := rfl
@[simp] theorem emit_sup (o : Out) (d : Dp) : (emit o d).sup = d.sup := rfl
@[simp] theorem emit_fab (o : Out) (d : Dp) : (emit o d).fab = d.fab := rfl
@[simp] theorem emit_thm (o : Out) (d : Dp) : (emit o d).thm = d.thm := rfl
@[simp] theorem emit_flt (o : Out) (d : Dp) : (emit o d).flt = d.flt := rfl
@[simp] theorem emit_rec_ (o : Out) (d : Dp) : (emit o d).rec_ = d.rec_ := rfl
@[simp] theorem emit_pst (o : Out) (d : Dp) : (emit o d).pst = d.pst := rfl
@[simp] theorem emit_hif (o : Out) (d : Dp) : (emit o d).hif = d.hif := rfl
@[simp] theorem emit_ceil (o : Out) (d : Dp) : (emit o d).ceil = d.ceil := rfl
@[simp] theorem emit_acc (o : Out) (d : Dp) : (emit o d).acc = d.acc := rfl
@[simp] theorem emit_lc (o : Out) (d : Dp) : (emit o d).lc = d.lc := rfl
@[simp] theorem emit_mrg (o : Out) (d : Dp) : (emit o d).mrg = d.mrg := rfl
@[simp] theorem emit_jrn (o : Out) (d : Dp) : (emit o d).jrn = d.jrn := rfl
@[simp] theorem emit_map (o : Out) (d : Dp) : (emit o d).map = d.map := rfl
@[simp] theorem emit_mh (o : Out) (d : Dp) : (emit o d).mh = d.mh := rfl
@[simp] theorem emit_cod (o : Out) (d : Dp) : (emit o d).cod = d.cod := rfl
@[simp] theorem emit_hbm (o : Out) (d : Dp) : (emit o d).hbm = d.hbm := rfl
@[simp] theorem emit_chans (o : Out) (d : Dp) : (emit o d).chans = d.chans := rfl
@[simp] theorem emit_mops (o : Out) (d : Dp) : (emit o d).mops = d.mops := rfl
@[simp] theorem emit_nextMop (o : Out) (d : Dp) : (emit o d).nextMop = d.nextMop := rfl
@[simp] theorem emit_que (o : Out) (d : Dp) : (emit o d).que = d.que := rfl
@[simp] theorem emit_logs (o : Out) (d : Dp) : (emit o d).logs = d.logs := rfl
@[simp] theorem emit_sec (o : Out) (d : Dp) : (emit o d).sec = d.sec := rfl
@[simp] theorem emit_pmu (o : Out) (d : Dp) : (emit o d).pmu = d.pmu := rfl
@[simp] theorem emit_latches (o : Out) (d : Dp) : (emit o d).latches = d.latches := rfl

@[simp] theorem bump_now (d : Dp) : (bump d).now = d.now := rfl
@[simp] theorem bump_glb (d : Dp) : (bump d).glb = d.glb := rfl
@[simp] theorem bump_sup (d : Dp) : (bump d).sup = d.sup := rfl
@[simp] theorem bump_fab (d : Dp) : (bump d).fab = d.fab := rfl
@[simp] theorem bump_thm (d : Dp) : (bump d).thm = d.thm := rfl
@[simp] theorem bump_flt (d : Dp) : (bump d).flt = d.flt := rfl
@[simp] theorem bump_rec_ (d : Dp) : (bump d).rec_ = d.rec_ := rfl
@[simp] theorem bump_pst (d : Dp) : (bump d).pst = d.pst := rfl
@[simp] theorem bump_hif (d : Dp) : (bump d).hif = d.hif := rfl
@[simp] theorem bump_ceil (d : Dp) : (bump d).ceil = d.ceil := rfl
@[simp] theorem bump_acc (d : Dp) : (bump d).acc = d.acc := rfl
@[simp] theorem bump_lc (d : Dp) : (bump d).lc = d.lc := rfl
@[simp] theorem bump_mrg (d : Dp) : (bump d).mrg = d.mrg := rfl
@[simp] theorem bump_jrn (d : Dp) : (bump d).jrn = d.jrn := rfl
@[simp] theorem bump_map (d : Dp) : (bump d).map = d.map := rfl
@[simp] theorem bump_mh (d : Dp) : (bump d).mh = d.mh := rfl
@[simp] theorem bump_cod (d : Dp) : (bump d).cod = d.cod := rfl
@[simp] theorem bump_hbm (d : Dp) : (bump d).hbm = d.hbm := rfl
@[simp] theorem bump_chans (d : Dp) : (bump d).chans = d.chans := rfl
@[simp] theorem bump_mops (d : Dp) : (bump d).mops = d.mops := rfl
@[simp] theorem bump_nextMop (d : Dp) : (bump d).nextMop = d.nextMop := rfl
@[simp] theorem bump_que (d : Dp) : (bump d).que = d.que := rfl
@[simp] theorem bump_logs (d : Dp) : (bump d).logs = d.logs := rfl
@[simp] theorem bump_sec (d : Dp) : (bump d).sec = d.sec := rfl
@[simp] theorem bump_pmu (d : Dp) : (bump d).pmu = d.pmu := rfl
@[simp] theorem bump_latches (d : Dp) : (bump d).latches = d.latches := rfl
@[simp] theorem bump_out (d : Dp) : (bump d).out = d.out := rfl

@[simp] theorem modChan_now (k : Nat) (f : Chan → Chan) (d : Dp) : (modChan k f d).now = d.now := rfl
@[simp] theorem modChan_free (k : Nat) (f : Chan → Chan) (d : Dp) : (modChan k f d).free = d.free := rfl
@[simp] theorem modChan_glb (k : Nat) (f : Chan → Chan) (d : Dp) : (modChan k f d).glb = d.glb := rfl
@[simp] theorem modChan_sup (k : Nat) (f : Chan → Chan) (d : Dp) : (modChan k f d).sup = d.sup := rfl
@[simp] theorem modChan_fab (k : Nat) (f : Chan → Chan) (d : Dp) : (modChan k f d).fab = d.fab := rfl
@[simp] theorem modChan_thm (k : Nat) (f : Chan → Chan) (d : Dp) : (modChan k f d).thm = d.thm := rfl
@[simp] theorem modChan_flt (k : Nat) (f : Chan → Chan) (d : Dp) : (modChan k f d).flt = d.flt := rfl
@[simp] theorem modChan_rec_ (k : Nat) (f : Chan → Chan) (d : Dp) : (modChan k f d).rec_ = d.rec_ := rfl
@[simp] theorem modChan_pst (k : Nat) (f : Chan → Chan) (d : Dp) : (modChan k f d).pst = d.pst := rfl
@[simp] theorem modChan_hif (k : Nat) (f : Chan → Chan) (d : Dp) : (modChan k f d).hif = d.hif := rfl
@[simp] theorem modChan_ceil (k : Nat) (f : Chan → Chan) (d : Dp) : (modChan k f d).ceil = d.ceil := rfl
@[simp] theorem modChan_acc (k : Nat) (f : Chan → Chan) (d : Dp) : (modChan k f d).acc = d.acc := rfl
@[simp] theorem modChan_lc (k : Nat) (f : Chan → Chan) (d : Dp) : (modChan k f d).lc = d.lc := rfl
@[simp] theorem modChan_mrg (k : Nat) (f : Chan → Chan) (d : Dp) : (modChan k f d).mrg = d.mrg := rfl
@[simp] theorem modChan_jrn (k : Nat) (f : Chan → Chan) (d : Dp) : (modChan k f d).jrn = d.jrn := rfl
@[simp] theorem modChan_map (k : Nat) (f : Chan → Chan) (d : Dp) : (modChan k f d).map = d.map := rfl
@[simp] theorem modChan_mh (k : Nat) (f : Chan → Chan) (d : Dp) : (modChan k f d).mh = d.mh := rfl
@[simp] theorem modChan_cod (k : Nat) (f : Chan → Chan) (d : Dp) : (modChan k f d).cod = d.cod := rfl
@[simp] theorem modChan_hbm (k : Nat) (f : Chan → Chan) (d : Dp) : (modChan k f d).hbm = d.hbm := rfl
@[simp] theorem modChan_mops (k : Nat) (f : Chan → Chan) (d : Dp) : (modChan k f d).mops = d.mops := rfl
@[simp] theorem modChan_nextMop (k : Nat) (f : Chan → Chan) (d : Dp) : (modChan k f d).nextMop = d.nextMop := rfl
@[simp] theorem modChan_que (k : Nat) (f : Chan → Chan) (d : Dp) : (modChan k f d).que = d.que := rfl
@[simp] theorem modChan_logs (k : Nat) (f : Chan → Chan) (d : Dp) : (modChan k f d).logs = d.logs := rfl
@[simp] theorem modChan_sec (k : Nat) (f : Chan → Chan) (d : Dp) : (modChan k f d).sec = d.sec := rfl
@[simp] theorem modChan_pmu (k : Nat) (f : Chan → Chan) (d : Dp) : (modChan k f d).pmu = d.pmu := rfl
@[simp] theorem modChan_latches (k : Nat) (f : Chan → Chan) (d : Dp) : (modChan k f d).latches = d.latches := rfl
@[simp] theorem modChan_out (k : Nat) (f : Chan → Chan) (d : Dp) : (modChan k f d).out = d.out := rfl

@[simp] theorem setMp_now (i n : Nat) (d : Dp) : (setMp i n d).now = d.now := rfl
@[simp] theorem setMp_free (i n : Nat) (d : Dp) : (setMp i n d).free = d.free := rfl
@[simp] theorem setMp_glb (i n : Nat) (d : Dp) : (setMp i n d).glb = d.glb := rfl
@[simp] theorem setMp_sup (i n : Nat) (d : Dp) : (setMp i n d).sup = d.sup := rfl
@[simp] theorem setMp_fab (i n : Nat) (d : Dp) : (setMp i n d).fab = d.fab := rfl
@[simp] theorem setMp_thm (i n : Nat) (d : Dp) : (setMp i n d).thm = d.thm := rfl
@[simp] theorem setMp_flt (i n : Nat) (d : Dp) : (setMp i n d).flt = d.flt := rfl
@[simp] theorem setMp_rec_ (i n : Nat) (d : Dp) : (setMp i n d).rec_ = d.rec_ := rfl
@[simp] theorem setMp_pst (i n : Nat) (d : Dp) : (setMp i n d).pst = d.pst := rfl
@[simp] theorem setMp_hif (i n : Nat) (d : Dp) : (setMp i n d).hif = d.hif := rfl
@[simp] theorem setMp_ceil (i n : Nat) (d : Dp) : (setMp i n d).ceil = d.ceil := rfl
@[simp] theorem setMp_acc (i n : Nat) (d : Dp) : (setMp i n d).acc = d.acc := rfl
@[simp] theorem setMp_lc (i n : Nat) (d : Dp) : (setMp i n d).lc = d.lc := rfl
@[simp] theorem setMp_mrg (i n : Nat) (d : Dp) : (setMp i n d).mrg = d.mrg := rfl
@[simp] theorem setMp_jrn (i n : Nat) (d : Dp) : (setMp i n d).jrn = d.jrn := rfl
@[simp] theorem setMp_map (i n : Nat) (d : Dp) : (setMp i n d).map = d.map := rfl
@[simp] theorem setMp_mh (i n : Nat) (d : Dp) : (setMp i n d).mh = d.mh := rfl
@[simp] theorem setMp_cod (i n : Nat) (d : Dp) : (setMp i n d).cod = d.cod := rfl
@[simp] theorem setMp_hbm (i n : Nat) (d : Dp) : (setMp i n d).hbm = d.hbm := rfl
@[simp] theorem setMp_chans (i n : Nat) (d : Dp) : (setMp i n d).chans = d.chans := rfl
@[simp] theorem setMp_mops (i n : Nat) (d : Dp) : (setMp i n d).mops = d.mops := rfl
@[simp] theorem setMp_nextMop (i n : Nat) (d : Dp) : (setMp i n d).nextMop = d.nextMop := rfl
@[simp] theorem setMp_logs (i n : Nat) (d : Dp) : (setMp i n d).logs = d.logs := rfl
@[simp] theorem setMp_sec (i n : Nat) (d : Dp) : (setMp i n d).sec = d.sec := rfl
@[simp] theorem setMp_pmu (i n : Nat) (d : Dp) : (setMp i n d).pmu = d.pmu := rfl
@[simp] theorem setMp_latches (i n : Nat) (d : Dp) : (setMp i n d).latches = d.latches := rfl
@[simp] theorem setMp_out (i n : Nat) (d : Dp) : (setMp i n d).out = d.out := rfl

@[simp] theorem addMop_now (a b r q : Nat) (k : MopKind) (x : BitVec 6) (d : Dp) : (addMop a b r q k x d).now = d.now := by unfold addMop engineAsked; split <;> rfl
@[simp] theorem addMop_free (a b r q : Nat) (k : MopKind) (x : BitVec 6) (d : Dp) : (addMop a b r q k x d).free = d.free := by unfold addMop engineAsked; split <;> rfl
@[simp] theorem addMop_glb (a b r q : Nat) (k : MopKind) (x : BitVec 6) (d : Dp) : (addMop a b r q k x d).glb = d.glb := by unfold addMop engineAsked; split <;> rfl
@[simp] theorem addMop_sup (a b r q : Nat) (k : MopKind) (x : BitVec 6) (d : Dp) : (addMop a b r q k x d).sup = d.sup := by unfold addMop engineAsked; split <;> rfl
@[simp] theorem addMop_fab (a b r q : Nat) (k : MopKind) (x : BitVec 6) (d : Dp) : (addMop a b r q k x d).fab = d.fab := by unfold addMop engineAsked; split <;> rfl
@[simp] theorem addMop_thm (a b r q : Nat) (k : MopKind) (x : BitVec 6) (d : Dp) : (addMop a b r q k x d).thm = d.thm := by unfold addMop engineAsked; split <;> rfl
@[simp] theorem addMop_flt (a b r q : Nat) (k : MopKind) (x : BitVec 6) (d : Dp) : (addMop a b r q k x d).flt = d.flt := by unfold addMop engineAsked; split <;> rfl
@[simp] theorem addMop_rec_ (a b r q : Nat) (k : MopKind) (x : BitVec 6) (d : Dp) : (addMop a b r q k x d).rec_ = d.rec_ := by unfold addMop engineAsked; split <;> rfl
@[simp] theorem addMop_pst (a b r q : Nat) (k : MopKind) (x : BitVec 6) (d : Dp) : (addMop a b r q k x d).pst = d.pst := by unfold addMop engineAsked; split <;> rfl
@[simp] theorem addMop_hif (a b r q : Nat) (k : MopKind) (x : BitVec 6) (d : Dp) : (addMop a b r q k x d).hif = d.hif := by unfold addMop engineAsked; split <;> rfl
@[simp] theorem addMop_ceil (a b r q : Nat) (k : MopKind) (x : BitVec 6) (d : Dp) : (addMop a b r q k x d).ceil = d.ceil := by unfold addMop engineAsked; split <;> rfl
@[simp] theorem addMop_acc (a b r q : Nat) (k : MopKind) (x : BitVec 6) (d : Dp) : (addMop a b r q k x d).acc = d.acc := by unfold addMop engineAsked; split <;> rfl
@[simp] theorem addMop_lc (a b r q : Nat) (k : MopKind) (x : BitVec 6) (d : Dp) : (addMop a b r q k x d).lc = d.lc := by unfold addMop engineAsked; split <;> rfl
@[simp] theorem addMop_mrg (a b r q : Nat) (k : MopKind) (x : BitVec 6) (d : Dp) : (addMop a b r q k x d).mrg = d.mrg := by unfold addMop engineAsked; split <;> rfl
@[simp] theorem addMop_jrn (a b r q : Nat) (k : MopKind) (x : BitVec 6) (d : Dp) : (addMop a b r q k x d).jrn = d.jrn := by unfold addMop engineAsked; split <;> rfl
@[simp] theorem addMop_map (a b r q : Nat) (k : MopKind) (x : BitVec 6) (d : Dp) : (addMop a b r q k x d).map = d.map := by unfold addMop engineAsked; split <;> rfl
@[simp] theorem addMop_mh (a b r q : Nat) (k : MopKind) (x : BitVec 6) (d : Dp) : (addMop a b r q k x d).mh = d.mh := by unfold addMop engineAsked; split <;> rfl
@[simp] theorem addMop_cod (a b r q : Nat) (k : MopKind) (x : BitVec 6) (d : Dp) : (addMop a b r q k x d).cod = d.cod := by unfold addMop engineAsked; split <;> rfl
@[simp] theorem addMop_hbm (a b r q : Nat) (k : MopKind) (x : BitVec 6) (d : Dp) : (addMop a b r q k x d).hbm = d.hbm := by unfold addMop engineAsked; split <;> rfl
@[simp] theorem addMop_que (a b r q : Nat) (k : MopKind) (x : BitVec 6) (d : Dp) : (addMop a b r q k x d).que = d.que := by unfold addMop engineAsked; split <;> rfl
@[simp] theorem addMop_logs (a b r q : Nat) (k : MopKind) (x : BitVec 6) (d : Dp) : (addMop a b r q k x d).logs = d.logs := by unfold addMop engineAsked; split <;> rfl
@[simp] theorem addMop_sec (a b r q : Nat) (k : MopKind) (x : BitVec 6) (d : Dp) : (addMop a b r q k x d).sec = d.sec := by unfold addMop engineAsked; split <;> rfl
@[simp] theorem addMop_pmu (a b r q : Nat) (k : MopKind) (x : BitVec 6) (d : Dp) : (addMop a b r q k x d).pmu = d.pmu := by unfold addMop engineAsked; split <;> rfl
@[simp] theorem addMop_latches (a b r q : Nat) (k : MopKind) (x : BitVec 6) (d : Dp) : (addMop a b r q k x d).latches = d.latches := by unfold addMop engineAsked; split <;> rfl
@[simp] theorem addMop_out (a b r q : Nat) (k : MopKind) (x : BitVec 6) (d : Dp) : (addMop a b r q k x d).out = d.out := by unfold addMop engineAsked; split <;> rfl

@[simp] theorem addMopFirst_now (a b r q : Nat) (k : MopKind) (x : BitVec 6) (d : Dp) : (addMopFirst a b r q k x d).now = d.now := by unfold addMopFirst engineAsked; split <;> rfl
@[simp] theorem addMopFirst_free (a b r q : Nat) (k : MopKind) (x : BitVec 6) (d : Dp) : (addMopFirst a b r q k x d).free = d.free := by unfold addMopFirst engineAsked; split <;> rfl
@[simp] theorem addMopFirst_glb (a b r q : Nat) (k : MopKind) (x : BitVec 6) (d : Dp) : (addMopFirst a b r q k x d).glb = d.glb := by unfold addMopFirst engineAsked; split <;> rfl
@[simp] theorem addMopFirst_sup (a b r q : Nat) (k : MopKind) (x : BitVec 6) (d : Dp) : (addMopFirst a b r q k x d).sup = d.sup := by unfold addMopFirst engineAsked; split <;> rfl
@[simp] theorem addMopFirst_fab (a b r q : Nat) (k : MopKind) (x : BitVec 6) (d : Dp) : (addMopFirst a b r q k x d).fab = d.fab := by unfold addMopFirst engineAsked; split <;> rfl
@[simp] theorem addMopFirst_thm (a b r q : Nat) (k : MopKind) (x : BitVec 6) (d : Dp) : (addMopFirst a b r q k x d).thm = d.thm := by unfold addMopFirst engineAsked; split <;> rfl
@[simp] theorem addMopFirst_flt (a b r q : Nat) (k : MopKind) (x : BitVec 6) (d : Dp) : (addMopFirst a b r q k x d).flt = d.flt := by unfold addMopFirst engineAsked; split <;> rfl
@[simp] theorem addMopFirst_rec_ (a b r q : Nat) (k : MopKind) (x : BitVec 6) (d : Dp) : (addMopFirst a b r q k x d).rec_ = d.rec_ := by unfold addMopFirst engineAsked; split <;> rfl
@[simp] theorem addMopFirst_pst (a b r q : Nat) (k : MopKind) (x : BitVec 6) (d : Dp) : (addMopFirst a b r q k x d).pst = d.pst := by unfold addMopFirst engineAsked; split <;> rfl
@[simp] theorem addMopFirst_hif (a b r q : Nat) (k : MopKind) (x : BitVec 6) (d : Dp) : (addMopFirst a b r q k x d).hif = d.hif := by unfold addMopFirst engineAsked; split <;> rfl
@[simp] theorem addMopFirst_ceil (a b r q : Nat) (k : MopKind) (x : BitVec 6) (d : Dp) : (addMopFirst a b r q k x d).ceil = d.ceil := by unfold addMopFirst engineAsked; split <;> rfl
@[simp] theorem addMopFirst_acc (a b r q : Nat) (k : MopKind) (x : BitVec 6) (d : Dp) : (addMopFirst a b r q k x d).acc = d.acc := by unfold addMopFirst engineAsked; split <;> rfl
@[simp] theorem addMopFirst_lc (a b r q : Nat) (k : MopKind) (x : BitVec 6) (d : Dp) : (addMopFirst a b r q k x d).lc = d.lc := by unfold addMopFirst engineAsked; split <;> rfl
@[simp] theorem addMopFirst_mrg (a b r q : Nat) (k : MopKind) (x : BitVec 6) (d : Dp) : (addMopFirst a b r q k x d).mrg = d.mrg := by unfold addMopFirst engineAsked; split <;> rfl
@[simp] theorem addMopFirst_jrn (a b r q : Nat) (k : MopKind) (x : BitVec 6) (d : Dp) : (addMopFirst a b r q k x d).jrn = d.jrn := by unfold addMopFirst engineAsked; split <;> rfl
@[simp] theorem addMopFirst_map (a b r q : Nat) (k : MopKind) (x : BitVec 6) (d : Dp) : (addMopFirst a b r q k x d).map = d.map := by unfold addMopFirst engineAsked; split <;> rfl
@[simp] theorem addMopFirst_mh (a b r q : Nat) (k : MopKind) (x : BitVec 6) (d : Dp) : (addMopFirst a b r q k x d).mh = d.mh := by unfold addMopFirst engineAsked; split <;> rfl
@[simp] theorem addMopFirst_cod (a b r q : Nat) (k : MopKind) (x : BitVec 6) (d : Dp) : (addMopFirst a b r q k x d).cod = d.cod := by unfold addMopFirst engineAsked; split <;> rfl
@[simp] theorem addMopFirst_hbm (a b r q : Nat) (k : MopKind) (x : BitVec 6) (d : Dp) : (addMopFirst a b r q k x d).hbm = d.hbm := by unfold addMopFirst engineAsked; split <;> rfl
@[simp] theorem addMopFirst_que (a b r q : Nat) (k : MopKind) (x : BitVec 6) (d : Dp) : (addMopFirst a b r q k x d).que = d.que := by unfold addMopFirst engineAsked; split <;> rfl
@[simp] theorem addMopFirst_logs (a b r q : Nat) (k : MopKind) (x : BitVec 6) (d : Dp) : (addMopFirst a b r q k x d).logs = d.logs := by unfold addMopFirst engineAsked; split <;> rfl
@[simp] theorem addMopFirst_sec (a b r q : Nat) (k : MopKind) (x : BitVec 6) (d : Dp) : (addMopFirst a b r q k x d).sec = d.sec := by unfold addMopFirst engineAsked; split <;> rfl
@[simp] theorem addMopFirst_pmu (a b r q : Nat) (k : MopKind) (x : BitVec 6) (d : Dp) : (addMopFirst a b r q k x d).pmu = d.pmu := by unfold addMopFirst engineAsked; split <;> rfl
@[simp] theorem addMopFirst_latches (a b r q : Nat) (k : MopKind) (x : BitVec 6) (d : Dp) : (addMopFirst a b r q k x d).latches = d.latches := by unfold addMopFirst engineAsked; split <;> rfl
@[simp] theorem addMopFirst_out (a b r q : Nat) (k : MopKind) (x : BitVec 6) (d : Dp) : (addMopFirst a b r q k x d).out = d.out := by unfold addMopFirst engineAsked; split <;> rfl

@[simp] theorem dropMops_now (p : Mop → Bool) (d : Dp) : (dropMops p d).now = d.now := rfl
@[simp] theorem dropMops_free (p : Mop → Bool) (d : Dp) : (dropMops p d).free = d.free := rfl
@[simp] theorem dropMops_glb (p : Mop → Bool) (d : Dp) : (dropMops p d).glb = d.glb := rfl
@[simp] theorem dropMops_sup (p : Mop → Bool) (d : Dp) : (dropMops p d).sup = d.sup := rfl
@[simp] theorem dropMops_fab (p : Mop → Bool) (d : Dp) : (dropMops p d).fab = d.fab := rfl
@[simp] theorem dropMops_thm (p : Mop → Bool) (d : Dp) : (dropMops p d).thm = d.thm := rfl
@[simp] theorem dropMops_flt (p : Mop → Bool) (d : Dp) : (dropMops p d).flt = d.flt := rfl
@[simp] theorem dropMops_rec_ (p : Mop → Bool) (d : Dp) : (dropMops p d).rec_ = d.rec_ := rfl
@[simp] theorem dropMops_pst (p : Mop → Bool) (d : Dp) : (dropMops p d).pst = d.pst := rfl
@[simp] theorem dropMops_hif (p : Mop → Bool) (d : Dp) : (dropMops p d).hif = d.hif := rfl
@[simp] theorem dropMops_ceil (p : Mop → Bool) (d : Dp) : (dropMops p d).ceil = d.ceil := rfl
@[simp] theorem dropMops_acc (p : Mop → Bool) (d : Dp) : (dropMops p d).acc = d.acc := rfl
@[simp] theorem dropMops_lc (p : Mop → Bool) (d : Dp) : (dropMops p d).lc = d.lc := rfl
@[simp] theorem dropMops_mrg (p : Mop → Bool) (d : Dp) : (dropMops p d).mrg = d.mrg := rfl
@[simp] theorem dropMops_jrn (p : Mop → Bool) (d : Dp) : (dropMops p d).jrn = d.jrn := rfl
@[simp] theorem dropMops_map (p : Mop → Bool) (d : Dp) : (dropMops p d).map = d.map := rfl
@[simp] theorem dropMops_mh (p : Mop → Bool) (d : Dp) : (dropMops p d).mh = d.mh := rfl
@[simp] theorem dropMops_cod (p : Mop → Bool) (d : Dp) : (dropMops p d).cod = d.cod := rfl
@[simp] theorem dropMops_hbm (p : Mop → Bool) (d : Dp) : (dropMops p d).hbm = d.hbm := rfl
@[simp] theorem dropMops_chans (p : Mop → Bool) (d : Dp) : (dropMops p d).chans = d.chans := rfl
@[simp] theorem dropMops_nextMop (p : Mop → Bool) (d : Dp) : (dropMops p d).nextMop = d.nextMop := rfl
@[simp] theorem dropMops_que (p : Mop → Bool) (d : Dp) : (dropMops p d).que = d.que := rfl
@[simp] theorem dropMops_logs (p : Mop → Bool) (d : Dp) : (dropMops p d).logs = d.logs := rfl
@[simp] theorem dropMops_sec (p : Mop → Bool) (d : Dp) : (dropMops p d).sec = d.sec := rfl
@[simp] theorem dropMops_pmu (p : Mop → Bool) (d : Dp) : (dropMops p d).pmu = d.pmu := rfl
@[simp] theorem dropMops_latches (p : Mop → Bool) (d : Dp) : (dropMops p d).latches = d.latches := rfl
@[simp] theorem dropMops_out (p : Mop → Bool) (d : Dp) : (dropMops p d).out = d.out := rfl

@[simp] theorem recHist_now (h b : Nat) (v : Int) (d : Dp) : (recHist h b v d).now = d.now := rfl
@[simp] theorem recHist_free (h b : Nat) (v : Int) (d : Dp) : (recHist h b v d).free = d.free := rfl
@[simp] theorem recHist_glb (h b : Nat) (v : Int) (d : Dp) : (recHist h b v d).glb = d.glb := rfl
@[simp] theorem recHist_sup (h b : Nat) (v : Int) (d : Dp) : (recHist h b v d).sup = d.sup := rfl
@[simp] theorem recHist_fab (h b : Nat) (v : Int) (d : Dp) : (recHist h b v d).fab = d.fab := rfl
@[simp] theorem recHist_thm (h b : Nat) (v : Int) (d : Dp) : (recHist h b v d).thm = d.thm := rfl
@[simp] theorem recHist_flt (h b : Nat) (v : Int) (d : Dp) : (recHist h b v d).flt = d.flt := rfl
@[simp] theorem recHist_pst (h b : Nat) (v : Int) (d : Dp) : (recHist h b v d).pst = d.pst := rfl
@[simp] theorem recHist_hif (h b : Nat) (v : Int) (d : Dp) : (recHist h b v d).hif = d.hif := rfl
@[simp] theorem recHist_ceil (h b : Nat) (v : Int) (d : Dp) : (recHist h b v d).ceil = d.ceil := rfl
@[simp] theorem recHist_acc (h b : Nat) (v : Int) (d : Dp) : (recHist h b v d).acc = d.acc := rfl
@[simp] theorem recHist_lc (h b : Nat) (v : Int) (d : Dp) : (recHist h b v d).lc = d.lc := rfl
@[simp] theorem recHist_mrg (h b : Nat) (v : Int) (d : Dp) : (recHist h b v d).mrg = d.mrg := rfl
@[simp] theorem recHist_jrn (h b : Nat) (v : Int) (d : Dp) : (recHist h b v d).jrn = d.jrn := rfl
@[simp] theorem recHist_map (h b : Nat) (v : Int) (d : Dp) : (recHist h b v d).map = d.map := rfl
@[simp] theorem recHist_mh (h b : Nat) (v : Int) (d : Dp) : (recHist h b v d).mh = d.mh := rfl
@[simp] theorem recHist_cod (h b : Nat) (v : Int) (d : Dp) : (recHist h b v d).cod = d.cod := rfl
@[simp] theorem recHist_hbm (h b : Nat) (v : Int) (d : Dp) : (recHist h b v d).hbm = d.hbm := rfl
@[simp] theorem recHist_chans (h b : Nat) (v : Int) (d : Dp) : (recHist h b v d).chans = d.chans := rfl
@[simp] theorem recHist_mops (h b : Nat) (v : Int) (d : Dp) : (recHist h b v d).mops = d.mops := rfl
@[simp] theorem recHist_nextMop (h b : Nat) (v : Int) (d : Dp) : (recHist h b v d).nextMop = d.nextMop := rfl
@[simp] theorem recHist_que (h b : Nat) (v : Int) (d : Dp) : (recHist h b v d).que = d.que := rfl
@[simp] theorem recHist_logs (h b : Nat) (v : Int) (d : Dp) : (recHist h b v d).logs = d.logs := rfl
@[simp] theorem recHist_sec (h b : Nat) (v : Int) (d : Dp) : (recHist h b v d).sec = d.sec := rfl
@[simp] theorem recHist_pmu (h b : Nat) (v : Int) (d : Dp) : (recHist h b v d).pmu = d.pmu := rfl
@[simp] theorem recHist_latches (h b : Nat) (v : Int) (d : Dp) : (recHist h b v d).latches = d.latches := rfl
@[simp] theorem recHist_out (h b : Nat) (v : Int) (d : Dp) : (recHist h b v d).out = d.out := rfl

@[simp] theorem modRead_now (t : Nat) (f : Read → Read) (d : Dp) : (modRead t f d).now = d.now := rfl
@[simp] theorem modRead_free (t : Nat) (f : Read → Read) (d : Dp) : (modRead t f d).free = d.free := rfl
@[simp] theorem modRead_glb (t : Nat) (f : Read → Read) (d : Dp) : (modRead t f d).glb = d.glb := rfl
@[simp] theorem modRead_sup (t : Nat) (f : Read → Read) (d : Dp) : (modRead t f d).sup = d.sup := rfl
@[simp] theorem modRead_fab (t : Nat) (f : Read → Read) (d : Dp) : (modRead t f d).fab = d.fab := rfl
@[simp] theorem modRead_thm (t : Nat) (f : Read → Read) (d : Dp) : (modRead t f d).thm = d.thm := rfl
@[simp] theorem modRead_flt (t : Nat) (f : Read → Read) (d : Dp) : (modRead t f d).flt = d.flt := rfl
@[simp] theorem modRead_rec_ (t : Nat) (f : Read → Read) (d : Dp) : (modRead t f d).rec_ = d.rec_ := rfl
@[simp] theorem modRead_pst (t : Nat) (f : Read → Read) (d : Dp) : (modRead t f d).pst = d.pst := rfl
@[simp] theorem modRead_hif (t : Nat) (f : Read → Read) (d : Dp) : (modRead t f d).hif = d.hif := rfl
@[simp] theorem modRead_ceil (t : Nat) (f : Read → Read) (d : Dp) : (modRead t f d).ceil = d.ceil := rfl
@[simp] theorem modRead_lc (t : Nat) (f : Read → Read) (d : Dp) : (modRead t f d).lc = d.lc := rfl
@[simp] theorem modRead_mrg (t : Nat) (f : Read → Read) (d : Dp) : (modRead t f d).mrg = d.mrg := rfl
@[simp] theorem modRead_jrn (t : Nat) (f : Read → Read) (d : Dp) : (modRead t f d).jrn = d.jrn := rfl
@[simp] theorem modRead_map (t : Nat) (f : Read → Read) (d : Dp) : (modRead t f d).map = d.map := rfl
@[simp] theorem modRead_mh (t : Nat) (f : Read → Read) (d : Dp) : (modRead t f d).mh = d.mh := rfl
@[simp] theorem modRead_cod (t : Nat) (f : Read → Read) (d : Dp) : (modRead t f d).cod = d.cod := rfl
@[simp] theorem modRead_hbm (t : Nat) (f : Read → Read) (d : Dp) : (modRead t f d).hbm = d.hbm := rfl
@[simp] theorem modRead_chans (t : Nat) (f : Read → Read) (d : Dp) : (modRead t f d).chans = d.chans := rfl
@[simp] theorem modRead_mops (t : Nat) (f : Read → Read) (d : Dp) : (modRead t f d).mops = d.mops := rfl
@[simp] theorem modRead_nextMop (t : Nat) (f : Read → Read) (d : Dp) : (modRead t f d).nextMop = d.nextMop := rfl
@[simp] theorem modRead_que (t : Nat) (f : Read → Read) (d : Dp) : (modRead t f d).que = d.que := rfl
@[simp] theorem modRead_logs (t : Nat) (f : Read → Read) (d : Dp) : (modRead t f d).logs = d.logs := rfl
@[simp] theorem modRead_sec (t : Nat) (f : Read → Read) (d : Dp) : (modRead t f d).sec = d.sec := rfl
@[simp] theorem modRead_pmu (t : Nat) (f : Read → Read) (d : Dp) : (modRead t f d).pmu = d.pmu := rfl
@[simp] theorem modRead_latches (t : Nat) (f : Read → Read) (d : Dp) : (modRead t f d).latches = d.latches := rfl
@[simp] theorem modRead_out (t : Nat) (f : Read → Read) (d : Dp) : (modRead t f d).out = d.out := rfl

@[simp] theorem dropRead_now (t : Nat) (d : Dp) : (dropRead t d).now = d.now := rfl
@[simp] theorem dropRead_free (t : Nat) (d : Dp) : (dropRead t d).free = d.free := rfl
@[simp] theorem dropRead_glb (t : Nat) (d : Dp) : (dropRead t d).glb = d.glb := rfl
@[simp] theorem dropRead_sup (t : Nat) (d : Dp) : (dropRead t d).sup = d.sup := rfl
@[simp] theorem dropRead_fab (t : Nat) (d : Dp) : (dropRead t d).fab = d.fab := rfl
@[simp] theorem dropRead_thm (t : Nat) (d : Dp) : (dropRead t d).thm = d.thm := rfl
@[simp] theorem dropRead_flt (t : Nat) (d : Dp) : (dropRead t d).flt = d.flt := rfl
@[simp] theorem dropRead_rec_ (t : Nat) (d : Dp) : (dropRead t d).rec_ = d.rec_ := rfl
@[simp] theorem dropRead_pst (t : Nat) (d : Dp) : (dropRead t d).pst = d.pst := rfl
@[simp] theorem dropRead_hif (t : Nat) (d : Dp) : (dropRead t d).hif = d.hif := rfl
@[simp] theorem dropRead_ceil (t : Nat) (d : Dp) : (dropRead t d).ceil = d.ceil := rfl
@[simp] theorem dropRead_lc (t : Nat) (d : Dp) : (dropRead t d).lc = d.lc := rfl
@[simp] theorem dropRead_mrg (t : Nat) (d : Dp) : (dropRead t d).mrg = d.mrg := rfl
@[simp] theorem dropRead_jrn (t : Nat) (d : Dp) : (dropRead t d).jrn = d.jrn := rfl
@[simp] theorem dropRead_map (t : Nat) (d : Dp) : (dropRead t d).map = d.map := rfl
@[simp] theorem dropRead_mh (t : Nat) (d : Dp) : (dropRead t d).mh = d.mh := rfl
@[simp] theorem dropRead_cod (t : Nat) (d : Dp) : (dropRead t d).cod = d.cod := rfl
@[simp] theorem dropRead_hbm (t : Nat) (d : Dp) : (dropRead t d).hbm = d.hbm := rfl
@[simp] theorem dropRead_chans (t : Nat) (d : Dp) : (dropRead t d).chans = d.chans := rfl
@[simp] theorem dropRead_mops (t : Nat) (d : Dp) : (dropRead t d).mops = d.mops := rfl
@[simp] theorem dropRead_nextMop (t : Nat) (d : Dp) : (dropRead t d).nextMop = d.nextMop := rfl
@[simp] theorem dropRead_que (t : Nat) (d : Dp) : (dropRead t d).que = d.que := rfl
@[simp] theorem dropRead_logs (t : Nat) (d : Dp) : (dropRead t d).logs = d.logs := rfl
@[simp] theorem dropRead_sec (t : Nat) (d : Dp) : (dropRead t d).sec = d.sec := rfl
@[simp] theorem dropRead_pmu (t : Nat) (d : Dp) : (dropRead t d).pmu = d.pmu := rfl
@[simp] theorem dropRead_latches (t : Nat) (d : Dp) : (dropRead t d).latches = d.latches := rfl
@[simp] theorem dropRead_out (t : Nat) (d : Dp) : (dropRead t d).out = d.out := rfl

@[simp] theorem setWay_now (k : Nat) (w : Way) (d : Dp) : (setWay k w d).now = d.now := rfl
@[simp] theorem setWay_free (k : Nat) (w : Way) (d : Dp) : (setWay k w d).free = d.free := rfl
@[simp] theorem setWay_glb (k : Nat) (w : Way) (d : Dp) : (setWay k w d).glb = d.glb := rfl
@[simp] theorem setWay_sup (k : Nat) (w : Way) (d : Dp) : (setWay k w d).sup = d.sup := rfl
@[simp] theorem setWay_fab (k : Nat) (w : Way) (d : Dp) : (setWay k w d).fab = d.fab := rfl
@[simp] theorem setWay_thm (k : Nat) (w : Way) (d : Dp) : (setWay k w d).thm = d.thm := rfl
@[simp] theorem setWay_flt (k : Nat) (w : Way) (d : Dp) : (setWay k w d).flt = d.flt := rfl
@[simp] theorem setWay_rec_ (k : Nat) (w : Way) (d : Dp) : (setWay k w d).rec_ = d.rec_ := rfl
@[simp] theorem setWay_pst (k : Nat) (w : Way) (d : Dp) : (setWay k w d).pst = d.pst := rfl
@[simp] theorem setWay_hif (k : Nat) (w : Way) (d : Dp) : (setWay k w d).hif = d.hif := rfl
@[simp] theorem setWay_ceil (k : Nat) (w : Way) (d : Dp) : (setWay k w d).ceil = d.ceil := rfl
@[simp] theorem setWay_acc (k : Nat) (w : Way) (d : Dp) : (setWay k w d).acc = d.acc := rfl
@[simp] theorem setWay_mrg (k : Nat) (w : Way) (d : Dp) : (setWay k w d).mrg = d.mrg := rfl
@[simp] theorem setWay_jrn (k : Nat) (w : Way) (d : Dp) : (setWay k w d).jrn = d.jrn := rfl
@[simp] theorem setWay_map (k : Nat) (w : Way) (d : Dp) : (setWay k w d).map = d.map := rfl
@[simp] theorem setWay_mh (k : Nat) (w : Way) (d : Dp) : (setWay k w d).mh = d.mh := rfl
@[simp] theorem setWay_hbm (k : Nat) (w : Way) (d : Dp) : (setWay k w d).hbm = d.hbm := rfl
@[simp] theorem setWay_chans (k : Nat) (w : Way) (d : Dp) : (setWay k w d).chans = d.chans := rfl
@[simp] theorem setWay_mops (k : Nat) (w : Way) (d : Dp) : (setWay k w d).mops = d.mops := rfl
@[simp] theorem setWay_nextMop (k : Nat) (w : Way) (d : Dp) : (setWay k w d).nextMop = d.nextMop := rfl
@[simp] theorem setWay_que (k : Nat) (w : Way) (d : Dp) : (setWay k w d).que = d.que := rfl
@[simp] theorem setWay_logs (k : Nat) (w : Way) (d : Dp) : (setWay k w d).logs = d.logs := rfl
@[simp] theorem setWay_sec (k : Nat) (w : Way) (d : Dp) : (setWay k w d).sec = d.sec := rfl
@[simp] theorem setWay_pmu (k : Nat) (w : Way) (d : Dp) : (setWay k w d).pmu = d.pmu := rfl
@[simp] theorem setWay_latches (k : Nat) (w : Way) (d : Dp) : (setWay k w d).latches = d.latches := rfl
@[simp] theorem setWay_out (k : Nat) (w : Way) (d : Dp) : (setWay k w d).out = d.out := rfl

@[simp] theorem rctWritten_now (l : RctLoc) (d : Dp) : (rctWritten l d).now = d.now := rfl
@[simp] theorem rctWritten_free (l : RctLoc) (d : Dp) : (rctWritten l d).free = d.free := rfl
@[simp] theorem rctWritten_glb (l : RctLoc) (d : Dp) : (rctWritten l d).glb = d.glb := rfl
@[simp] theorem rctWritten_sup (l : RctLoc) (d : Dp) : (rctWritten l d).sup = d.sup := rfl
@[simp] theorem rctWritten_fab (l : RctLoc) (d : Dp) : (rctWritten l d).fab = d.fab := rfl
@[simp] theorem rctWritten_thm (l : RctLoc) (d : Dp) : (rctWritten l d).thm = d.thm := rfl
@[simp] theorem rctWritten_flt (l : RctLoc) (d : Dp) : (rctWritten l d).flt = d.flt := rfl
@[simp] theorem rctWritten_rec_ (l : RctLoc) (d : Dp) : (rctWritten l d).rec_ = d.rec_ := rfl
@[simp] theorem rctWritten_pst (l : RctLoc) (d : Dp) : (rctWritten l d).pst = d.pst := rfl
@[simp] theorem rctWritten_hif (l : RctLoc) (d : Dp) : (rctWritten l d).hif = d.hif := rfl
@[simp] theorem rctWritten_ceil (l : RctLoc) (d : Dp) : (rctWritten l d).ceil = d.ceil := rfl
@[simp] theorem rctWritten_acc (l : RctLoc) (d : Dp) : (rctWritten l d).acc = d.acc := rfl
@[simp] theorem rctWritten_lc (l : RctLoc) (d : Dp) : (rctWritten l d).lc = d.lc := rfl
@[simp] theorem rctWritten_mrg (l : RctLoc) (d : Dp) : (rctWritten l d).mrg = d.mrg := rfl
@[simp] theorem rctWritten_jrn (l : RctLoc) (d : Dp) : (rctWritten l d).jrn = d.jrn := rfl
@[simp] theorem rctWritten_map (l : RctLoc) (d : Dp) : (rctWritten l d).map = d.map := rfl
@[simp] theorem rctWritten_mh (l : RctLoc) (d : Dp) : (rctWritten l d).mh = d.mh := rfl
@[simp] theorem rctWritten_hbm (l : RctLoc) (d : Dp) : (rctWritten l d).hbm = d.hbm := rfl
@[simp] theorem rctWritten_chans (l : RctLoc) (d : Dp) : (rctWritten l d).chans = d.chans := rfl
@[simp] theorem rctWritten_mops (l : RctLoc) (d : Dp) : (rctWritten l d).mops = d.mops := rfl
@[simp] theorem rctWritten_nextMop (l : RctLoc) (d : Dp) : (rctWritten l d).nextMop = d.nextMop := rfl
@[simp] theorem rctWritten_que (l : RctLoc) (d : Dp) : (rctWritten l d).que = d.que := rfl
@[simp] theorem rctWritten_logs (l : RctLoc) (d : Dp) : (rctWritten l d).logs = d.logs := rfl
@[simp] theorem rctWritten_sec (l : RctLoc) (d : Dp) : (rctWritten l d).sec = d.sec := rfl
@[simp] theorem rctWritten_pmu (l : RctLoc) (d : Dp) : (rctWritten l d).pmu = d.pmu := rfl
@[simp] theorem rctWritten_latches (l : RctLoc) (d : Dp) : (rctWritten l d).latches = d.latches := rfl
@[simp] theorem rctWritten_out (l : RctLoc) (d : Dp) : (rctWritten l d).out = d.out := rfl

@[simp] theorem modEntry_now (i : Nat) (f : MEntry → MEntry) (d : Dp) : (modEntry i f d).now = d.now := rfl
@[simp] theorem modEntry_free (i : Nat) (f : MEntry → MEntry) (d : Dp) : (modEntry i f d).free = d.free := rfl
@[simp] theorem modEntry_glb (i : Nat) (f : MEntry → MEntry) (d : Dp) : (modEntry i f d).glb = d.glb := rfl
@[simp] theorem modEntry_sup (i : Nat) (f : MEntry → MEntry) (d : Dp) : (modEntry i f d).sup = d.sup := rfl
@[simp] theorem modEntry_fab (i : Nat) (f : MEntry → MEntry) (d : Dp) : (modEntry i f d).fab = d.fab := rfl
@[simp] theorem modEntry_thm (i : Nat) (f : MEntry → MEntry) (d : Dp) : (modEntry i f d).thm = d.thm := rfl
@[simp] theorem modEntry_flt (i : Nat) (f : MEntry → MEntry) (d : Dp) : (modEntry i f d).flt = d.flt := rfl
@[simp] theorem modEntry_rec_ (i : Nat) (f : MEntry → MEntry) (d : Dp) : (modEntry i f d).rec_ = d.rec_ := rfl
@[simp] theorem modEntry_pst (i : Nat) (f : MEntry → MEntry) (d : Dp) : (modEntry i f d).pst = d.pst := rfl
@[simp] theorem modEntry_hif (i : Nat) (f : MEntry → MEntry) (d : Dp) : (modEntry i f d).hif = d.hif := rfl
@[simp] theorem modEntry_ceil (i : Nat) (f : MEntry → MEntry) (d : Dp) : (modEntry i f d).ceil = d.ceil := rfl
@[simp] theorem modEntry_acc (i : Nat) (f : MEntry → MEntry) (d : Dp) : (modEntry i f d).acc = d.acc := rfl
@[simp] theorem modEntry_lc (i : Nat) (f : MEntry → MEntry) (d : Dp) : (modEntry i f d).lc = d.lc := rfl
@[simp] theorem modEntry_jrn (i : Nat) (f : MEntry → MEntry) (d : Dp) : (modEntry i f d).jrn = d.jrn := rfl
@[simp] theorem modEntry_map (i : Nat) (f : MEntry → MEntry) (d : Dp) : (modEntry i f d).map = d.map := rfl
@[simp] theorem modEntry_mh (i : Nat) (f : MEntry → MEntry) (d : Dp) : (modEntry i f d).mh = d.mh := rfl
@[simp] theorem modEntry_cod (i : Nat) (f : MEntry → MEntry) (d : Dp) : (modEntry i f d).cod = d.cod := rfl
@[simp] theorem modEntry_hbm (i : Nat) (f : MEntry → MEntry) (d : Dp) : (modEntry i f d).hbm = d.hbm := rfl
@[simp] theorem modEntry_chans (i : Nat) (f : MEntry → MEntry) (d : Dp) : (modEntry i f d).chans = d.chans := rfl
@[simp] theorem modEntry_mops (i : Nat) (f : MEntry → MEntry) (d : Dp) : (modEntry i f d).mops = d.mops := rfl
@[simp] theorem modEntry_nextMop (i : Nat) (f : MEntry → MEntry) (d : Dp) : (modEntry i f d).nextMop = d.nextMop := rfl
@[simp] theorem modEntry_que (i : Nat) (f : MEntry → MEntry) (d : Dp) : (modEntry i f d).que = d.que := rfl
@[simp] theorem modEntry_logs (i : Nat) (f : MEntry → MEntry) (d : Dp) : (modEntry i f d).logs = d.logs := rfl
@[simp] theorem modEntry_sec (i : Nat) (f : MEntry → MEntry) (d : Dp) : (modEntry i f d).sec = d.sec := rfl
@[simp] theorem modEntry_pmu (i : Nat) (f : MEntry → MEntry) (d : Dp) : (modEntry i f d).pmu = d.pmu := rfl
@[simp] theorem modEntry_latches (i : Nat) (f : MEntry → MEntry) (d : Dp) : (modEntry i f d).latches = d.latches := rfl
@[simp] theorem modEntry_out (i : Nat) (f : MEntry → MEntry) (d : Dp) : (modEntry i f d).out = d.out := rfl

@[simp] theorem modDelta_now (i : Nat) (f : Delta → Delta) (d : Dp) : (modDelta i f d).now = d.now := rfl
@[simp] theorem modDelta_free (i : Nat) (f : Delta → Delta) (d : Dp) : (modDelta i f d).free = d.free := rfl
@[simp] theorem modDelta_glb (i : Nat) (f : Delta → Delta) (d : Dp) : (modDelta i f d).glb = d.glb := rfl
@[simp] theorem modDelta_sup (i : Nat) (f : Delta → Delta) (d : Dp) : (modDelta i f d).sup = d.sup := rfl
@[simp] theorem modDelta_fab (i : Nat) (f : Delta → Delta) (d : Dp) : (modDelta i f d).fab = d.fab := rfl
@[simp] theorem modDelta_thm (i : Nat) (f : Delta → Delta) (d : Dp) : (modDelta i f d).thm = d.thm := rfl
@[simp] theorem modDelta_flt (i : Nat) (f : Delta → Delta) (d : Dp) : (modDelta i f d).flt = d.flt := rfl
@[simp] theorem modDelta_rec_ (i : Nat) (f : Delta → Delta) (d : Dp) : (modDelta i f d).rec_ = d.rec_ := rfl
@[simp] theorem modDelta_pst (i : Nat) (f : Delta → Delta) (d : Dp) : (modDelta i f d).pst = d.pst := rfl
@[simp] theorem modDelta_hif (i : Nat) (f : Delta → Delta) (d : Dp) : (modDelta i f d).hif = d.hif := rfl
@[simp] theorem modDelta_ceil (i : Nat) (f : Delta → Delta) (d : Dp) : (modDelta i f d).ceil = d.ceil := rfl
@[simp] theorem modDelta_acc (i : Nat) (f : Delta → Delta) (d : Dp) : (modDelta i f d).acc = d.acc := rfl
@[simp] theorem modDelta_lc (i : Nat) (f : Delta → Delta) (d : Dp) : (modDelta i f d).lc = d.lc := rfl
@[simp] theorem modDelta_jrn (i : Nat) (f : Delta → Delta) (d : Dp) : (modDelta i f d).jrn = d.jrn := rfl
@[simp] theorem modDelta_map (i : Nat) (f : Delta → Delta) (d : Dp) : (modDelta i f d).map = d.map := rfl
@[simp] theorem modDelta_mh (i : Nat) (f : Delta → Delta) (d : Dp) : (modDelta i f d).mh = d.mh := rfl
@[simp] theorem modDelta_cod (i : Nat) (f : Delta → Delta) (d : Dp) : (modDelta i f d).cod = d.cod := rfl
@[simp] theorem modDelta_hbm (i : Nat) (f : Delta → Delta) (d : Dp) : (modDelta i f d).hbm = d.hbm := rfl
@[simp] theorem modDelta_chans (i : Nat) (f : Delta → Delta) (d : Dp) : (modDelta i f d).chans = d.chans := rfl
@[simp] theorem modDelta_mops (i : Nat) (f : Delta → Delta) (d : Dp) : (modDelta i f d).mops = d.mops := rfl
@[simp] theorem modDelta_nextMop (i : Nat) (f : Delta → Delta) (d : Dp) : (modDelta i f d).nextMop = d.nextMop := rfl
@[simp] theorem modDelta_que (i : Nat) (f : Delta → Delta) (d : Dp) : (modDelta i f d).que = d.que := rfl
@[simp] theorem modDelta_logs (i : Nat) (f : Delta → Delta) (d : Dp) : (modDelta i f d).logs = d.logs := rfl
@[simp] theorem modDelta_sec (i : Nat) (f : Delta → Delta) (d : Dp) : (modDelta i f d).sec = d.sec := rfl
@[simp] theorem modDelta_pmu (i : Nat) (f : Delta → Delta) (d : Dp) : (modDelta i f d).pmu = d.pmu := rfl
@[simp] theorem modDelta_latches (i : Nat) (f : Delta → Delta) (d : Dp) : (modDelta i f d).latches = d.latches := rfl
@[simp] theorem modDelta_out (i : Nat) (f : Delta → Delta) (d : Dp) : (modDelta i f d).out = d.out := rfl

@[simp] theorem dropDelta_now (i : Nat) (d : Dp) : (dropDelta i d).now = d.now := rfl
@[simp] theorem dropDelta_free (i : Nat) (d : Dp) : (dropDelta i d).free = d.free := rfl
@[simp] theorem dropDelta_glb (i : Nat) (d : Dp) : (dropDelta i d).glb = d.glb := rfl
@[simp] theorem dropDelta_sup (i : Nat) (d : Dp) : (dropDelta i d).sup = d.sup := rfl
@[simp] theorem dropDelta_fab (i : Nat) (d : Dp) : (dropDelta i d).fab = d.fab := rfl
@[simp] theorem dropDelta_thm (i : Nat) (d : Dp) : (dropDelta i d).thm = d.thm := rfl
@[simp] theorem dropDelta_flt (i : Nat) (d : Dp) : (dropDelta i d).flt = d.flt := rfl
@[simp] theorem dropDelta_rec_ (i : Nat) (d : Dp) : (dropDelta i d).rec_ = d.rec_ := rfl
@[simp] theorem dropDelta_pst (i : Nat) (d : Dp) : (dropDelta i d).pst = d.pst := rfl
@[simp] theorem dropDelta_hif (i : Nat) (d : Dp) : (dropDelta i d).hif = d.hif := rfl
@[simp] theorem dropDelta_ceil (i : Nat) (d : Dp) : (dropDelta i d).ceil = d.ceil := rfl
@[simp] theorem dropDelta_acc (i : Nat) (d : Dp) : (dropDelta i d).acc = d.acc := rfl
@[simp] theorem dropDelta_lc (i : Nat) (d : Dp) : (dropDelta i d).lc = d.lc := rfl
@[simp] theorem dropDelta_jrn (i : Nat) (d : Dp) : (dropDelta i d).jrn = d.jrn := rfl
@[simp] theorem dropDelta_map (i : Nat) (d : Dp) : (dropDelta i d).map = d.map := rfl
@[simp] theorem dropDelta_mh (i : Nat) (d : Dp) : (dropDelta i d).mh = d.mh := rfl
@[simp] theorem dropDelta_cod (i : Nat) (d : Dp) : (dropDelta i d).cod = d.cod := rfl
@[simp] theorem dropDelta_hbm (i : Nat) (d : Dp) : (dropDelta i d).hbm = d.hbm := rfl
@[simp] theorem dropDelta_chans (i : Nat) (d : Dp) : (dropDelta i d).chans = d.chans := rfl
@[simp] theorem dropDelta_mops (i : Nat) (d : Dp) : (dropDelta i d).mops = d.mops := rfl
@[simp] theorem dropDelta_nextMop (i : Nat) (d : Dp) : (dropDelta i d).nextMop = d.nextMop := rfl
@[simp] theorem dropDelta_que (i : Nat) (d : Dp) : (dropDelta i d).que = d.que := rfl
@[simp] theorem dropDelta_logs (i : Nat) (d : Dp) : (dropDelta i d).logs = d.logs := rfl
@[simp] theorem dropDelta_sec (i : Nat) (d : Dp) : (dropDelta i d).sec = d.sec := rfl
@[simp] theorem dropDelta_pmu (i : Nat) (d : Dp) : (dropDelta i d).pmu = d.pmu := rfl
@[simp] theorem dropDelta_latches (i : Nat) (d : Dp) : (dropDelta i d).latches = d.latches := rfl
@[simp] theorem dropDelta_out (i : Nat) (d : Dp) : (dropDelta i d).out = d.out := rfl

@[simp] theorem addProg_now (k : ProgKind) (l : Nat × Nat × Nat) (i : Image) (d : Dp) : (addProg k l i d).now = d.now := by unfold addProg engineAsked; split <;> rfl
@[simp] theorem addProg_free (k : ProgKind) (l : Nat × Nat × Nat) (i : Image) (d : Dp) : (addProg k l i d).free = d.free := by unfold addProg engineAsked; split <;> rfl
@[simp] theorem addProg_glb (k : ProgKind) (l : Nat × Nat × Nat) (i : Image) (d : Dp) : (addProg k l i d).glb = d.glb := by unfold addProg engineAsked; split <;> rfl
@[simp] theorem addProg_sup (k : ProgKind) (l : Nat × Nat × Nat) (i : Image) (d : Dp) : (addProg k l i d).sup = d.sup := by unfold addProg engineAsked; split <;> rfl
@[simp] theorem addProg_fab (k : ProgKind) (l : Nat × Nat × Nat) (i : Image) (d : Dp) : (addProg k l i d).fab = d.fab := by unfold addProg engineAsked; split <;> rfl
@[simp] theorem addProg_thm (k : ProgKind) (l : Nat × Nat × Nat) (i : Image) (d : Dp) : (addProg k l i d).thm = d.thm := by unfold addProg engineAsked; split <;> rfl
@[simp] theorem addProg_flt (k : ProgKind) (l : Nat × Nat × Nat) (i : Image) (d : Dp) : (addProg k l i d).flt = d.flt := by unfold addProg engineAsked; split <;> rfl
@[simp] theorem addProg_rec_ (k : ProgKind) (l : Nat × Nat × Nat) (i : Image) (d : Dp) : (addProg k l i d).rec_ = d.rec_ := by unfold addProg engineAsked; split <;> rfl
@[simp] theorem addProg_pst (k : ProgKind) (l : Nat × Nat × Nat) (i : Image) (d : Dp) : (addProg k l i d).pst = d.pst := by unfold addProg engineAsked; split <;> rfl
@[simp] theorem addProg_hif (k : ProgKind) (l : Nat × Nat × Nat) (i : Image) (d : Dp) : (addProg k l i d).hif = d.hif := by unfold addProg engineAsked; split <;> rfl
@[simp] theorem addProg_ceil (k : ProgKind) (l : Nat × Nat × Nat) (i : Image) (d : Dp) : (addProg k l i d).ceil = d.ceil := by unfold addProg engineAsked; split <;> rfl
@[simp] theorem addProg_acc (k : ProgKind) (l : Nat × Nat × Nat) (i : Image) (d : Dp) : (addProg k l i d).acc = d.acc := by unfold addProg engineAsked; split <;> rfl
@[simp] theorem addProg_lc (k : ProgKind) (l : Nat × Nat × Nat) (i : Image) (d : Dp) : (addProg k l i d).lc = d.lc := by unfold addProg engineAsked; split <;> rfl
@[simp] theorem addProg_jrn (k : ProgKind) (l : Nat × Nat × Nat) (i : Image) (d : Dp) : (addProg k l i d).jrn = d.jrn := by unfold addProg engineAsked; split <;> rfl
@[simp] theorem addProg_map (k : ProgKind) (l : Nat × Nat × Nat) (i : Image) (d : Dp) : (addProg k l i d).map = d.map := by unfold addProg engineAsked; split <;> rfl
@[simp] theorem addProg_mh (k : ProgKind) (l : Nat × Nat × Nat) (i : Image) (d : Dp) : (addProg k l i d).mh = d.mh := by unfold addProg engineAsked; split <;> rfl
@[simp] theorem addProg_cod (k : ProgKind) (l : Nat × Nat × Nat) (i : Image) (d : Dp) : (addProg k l i d).cod = d.cod := by unfold addProg engineAsked; split <;> rfl
@[simp] theorem addProg_hbm (k : ProgKind) (l : Nat × Nat × Nat) (i : Image) (d : Dp) : (addProg k l i d).hbm = d.hbm := by unfold addProg engineAsked; split <;> rfl
@[simp] theorem addProg_mops (k : ProgKind) (l : Nat × Nat × Nat) (i : Image) (d : Dp) : (addProg k l i d).mops = d.mops := by unfold addProg engineAsked; split <;> rfl
@[simp] theorem addProg_nextMop (k : ProgKind) (l : Nat × Nat × Nat) (i : Image) (d : Dp) : (addProg k l i d).nextMop = d.nextMop := by unfold addProg engineAsked; split <;> rfl
@[simp] theorem addProg_que (k : ProgKind) (l : Nat × Nat × Nat) (i : Image) (d : Dp) : (addProg k l i d).que = d.que := by unfold addProg engineAsked; split <;> rfl
@[simp] theorem addProg_logs (k : ProgKind) (l : Nat × Nat × Nat) (i : Image) (d : Dp) : (addProg k l i d).logs = d.logs := by unfold addProg engineAsked; split <;> rfl
@[simp] theorem addProg_sec (k : ProgKind) (l : Nat × Nat × Nat) (i : Image) (d : Dp) : (addProg k l i d).sec = d.sec := by unfold addProg engineAsked; split <;> rfl
@[simp] theorem addProg_pmu (k : ProgKind) (l : Nat × Nat × Nat) (i : Image) (d : Dp) : (addProg k l i d).pmu = d.pmu := by unfold addProg engineAsked; split <;> rfl
@[simp] theorem addProg_latches (k : ProgKind) (l : Nat × Nat × Nat) (i : Image) (d : Dp) : (addProg k l i d).latches = d.latches := by unfold addProg engineAsked; split <;> rfl
@[simp] theorem addProg_out (k : ProgKind) (l : Nat × Nat × Nat) (i : Image) (d : Dp) : (addProg k l i d).out = d.out := by unfold addProg engineAsked; split <;> rfl

@[simp] theorem modProg_now (i : Nat) (f : Prog → Prog) (d : Dp) : (modProg i f d).now = d.now := rfl
@[simp] theorem modProg_free (i : Nat) (f : Prog → Prog) (d : Dp) : (modProg i f d).free = d.free := rfl
@[simp] theorem modProg_glb (i : Nat) (f : Prog → Prog) (d : Dp) : (modProg i f d).glb = d.glb := rfl
@[simp] theorem modProg_sup (i : Nat) (f : Prog → Prog) (d : Dp) : (modProg i f d).sup = d.sup := rfl
@[simp] theorem modProg_fab (i : Nat) (f : Prog → Prog) (d : Dp) : (modProg i f d).fab = d.fab := rfl
@[simp] theorem modProg_thm (i : Nat) (f : Prog → Prog) (d : Dp) : (modProg i f d).thm = d.thm := rfl
@[simp] theorem modProg_flt (i : Nat) (f : Prog → Prog) (d : Dp) : (modProg i f d).flt = d.flt := rfl
@[simp] theorem modProg_rec_ (i : Nat) (f : Prog → Prog) (d : Dp) : (modProg i f d).rec_ = d.rec_ := rfl
@[simp] theorem modProg_pst (i : Nat) (f : Prog → Prog) (d : Dp) : (modProg i f d).pst = d.pst := rfl
@[simp] theorem modProg_hif (i : Nat) (f : Prog → Prog) (d : Dp) : (modProg i f d).hif = d.hif := rfl
@[simp] theorem modProg_ceil (i : Nat) (f : Prog → Prog) (d : Dp) : (modProg i f d).ceil = d.ceil := rfl
@[simp] theorem modProg_acc (i : Nat) (f : Prog → Prog) (d : Dp) : (modProg i f d).acc = d.acc := rfl
@[simp] theorem modProg_lc (i : Nat) (f : Prog → Prog) (d : Dp) : (modProg i f d).lc = d.lc := rfl
@[simp] theorem modProg_jrn (i : Nat) (f : Prog → Prog) (d : Dp) : (modProg i f d).jrn = d.jrn := rfl
@[simp] theorem modProg_map (i : Nat) (f : Prog → Prog) (d : Dp) : (modProg i f d).map = d.map := rfl
@[simp] theorem modProg_mh (i : Nat) (f : Prog → Prog) (d : Dp) : (modProg i f d).mh = d.mh := rfl
@[simp] theorem modProg_cod (i : Nat) (f : Prog → Prog) (d : Dp) : (modProg i f d).cod = d.cod := rfl
@[simp] theorem modProg_hbm (i : Nat) (f : Prog → Prog) (d : Dp) : (modProg i f d).hbm = d.hbm := rfl
@[simp] theorem modProg_chans (i : Nat) (f : Prog → Prog) (d : Dp) : (modProg i f d).chans = d.chans := rfl
@[simp] theorem modProg_mops (i : Nat) (f : Prog → Prog) (d : Dp) : (modProg i f d).mops = d.mops := rfl
@[simp] theorem modProg_nextMop (i : Nat) (f : Prog → Prog) (d : Dp) : (modProg i f d).nextMop = d.nextMop := rfl
@[simp] theorem modProg_que (i : Nat) (f : Prog → Prog) (d : Dp) : (modProg i f d).que = d.que := rfl
@[simp] theorem modProg_logs (i : Nat) (f : Prog → Prog) (d : Dp) : (modProg i f d).logs = d.logs := rfl
@[simp] theorem modProg_sec (i : Nat) (f : Prog → Prog) (d : Dp) : (modProg i f d).sec = d.sec := rfl
@[simp] theorem modProg_pmu (i : Nat) (f : Prog → Prog) (d : Dp) : (modProg i f d).pmu = d.pmu := rfl
@[simp] theorem modProg_latches (i : Nat) (f : Prog → Prog) (d : Dp) : (modProg i f d).latches = d.latches := rfl
@[simp] theorem modProg_out (i : Nat) (f : Prog → Prog) (d : Dp) : (modProg i f d).out = d.out := rfl

@[simp] theorem dropProgs_now (p : Prog → Bool) (d : Dp) : (dropProgs p d).now = d.now := rfl
@[simp] theorem dropProgs_free (p : Prog → Bool) (d : Dp) : (dropProgs p d).free = d.free := rfl
@[simp] theorem dropProgs_glb (p : Prog → Bool) (d : Dp) : (dropProgs p d).glb = d.glb := rfl
@[simp] theorem dropProgs_sup (p : Prog → Bool) (d : Dp) : (dropProgs p d).sup = d.sup := rfl
@[simp] theorem dropProgs_fab (p : Prog → Bool) (d : Dp) : (dropProgs p d).fab = d.fab := rfl
@[simp] theorem dropProgs_thm (p : Prog → Bool) (d : Dp) : (dropProgs p d).thm = d.thm := rfl
@[simp] theorem dropProgs_flt (p : Prog → Bool) (d : Dp) : (dropProgs p d).flt = d.flt := rfl
@[simp] theorem dropProgs_rec_ (p : Prog → Bool) (d : Dp) : (dropProgs p d).rec_ = d.rec_ := rfl
@[simp] theorem dropProgs_pst (p : Prog → Bool) (d : Dp) : (dropProgs p d).pst = d.pst := rfl
@[simp] theorem dropProgs_hif (p : Prog → Bool) (d : Dp) : (dropProgs p d).hif = d.hif := rfl
@[simp] theorem dropProgs_ceil (p : Prog → Bool) (d : Dp) : (dropProgs p d).ceil = d.ceil := rfl
@[simp] theorem dropProgs_acc (p : Prog → Bool) (d : Dp) : (dropProgs p d).acc = d.acc := rfl
@[simp] theorem dropProgs_lc (p : Prog → Bool) (d : Dp) : (dropProgs p d).lc = d.lc := rfl
@[simp] theorem dropProgs_jrn (p : Prog → Bool) (d : Dp) : (dropProgs p d).jrn = d.jrn := rfl
@[simp] theorem dropProgs_map (p : Prog → Bool) (d : Dp) : (dropProgs p d).map = d.map := rfl
@[simp] theorem dropProgs_mh (p : Prog → Bool) (d : Dp) : (dropProgs p d).mh = d.mh := rfl
@[simp] theorem dropProgs_cod (p : Prog → Bool) (d : Dp) : (dropProgs p d).cod = d.cod := rfl
@[simp] theorem dropProgs_hbm (p : Prog → Bool) (d : Dp) : (dropProgs p d).hbm = d.hbm := rfl
@[simp] theorem dropProgs_chans (p : Prog → Bool) (d : Dp) : (dropProgs p d).chans = d.chans := rfl
@[simp] theorem dropProgs_mops (p : Prog → Bool) (d : Dp) : (dropProgs p d).mops = d.mops := rfl
@[simp] theorem dropProgs_nextMop (p : Prog → Bool) (d : Dp) : (dropProgs p d).nextMop = d.nextMop := rfl
@[simp] theorem dropProgs_que (p : Prog → Bool) (d : Dp) : (dropProgs p d).que = d.que := rfl
@[simp] theorem dropProgs_logs (p : Prog → Bool) (d : Dp) : (dropProgs p d).logs = d.logs := rfl
@[simp] theorem dropProgs_sec (p : Prog → Bool) (d : Dp) : (dropProgs p d).sec = d.sec := rfl
@[simp] theorem dropProgs_pmu (p : Prog → Bool) (d : Dp) : (dropProgs p d).pmu = d.pmu := rfl
@[simp] theorem dropProgs_latches (p : Prog → Bool) (d : Dp) : (dropProgs p d).latches = d.latches := rfl
@[simp] theorem dropProgs_out (p : Prog → Bool) (d : Dp) : (dropProgs p d).out = d.out := rfl

@[simp] theorem modRewrite_now (p : Page) (f : Rewrite → Rewrite) (d : Dp) : (modRewrite p f d).now = d.now := rfl
@[simp] theorem modRewrite_free (p : Page) (f : Rewrite → Rewrite) (d : Dp) : (modRewrite p f d).free = d.free := rfl
@[simp] theorem modRewrite_glb (p : Page) (f : Rewrite → Rewrite) (d : Dp) : (modRewrite p f d).glb = d.glb := rfl
@[simp] theorem modRewrite_sup (p : Page) (f : Rewrite → Rewrite) (d : Dp) : (modRewrite p f d).sup = d.sup := rfl
@[simp] theorem modRewrite_fab (p : Page) (f : Rewrite → Rewrite) (d : Dp) : (modRewrite p f d).fab = d.fab := rfl
@[simp] theorem modRewrite_thm (p : Page) (f : Rewrite → Rewrite) (d : Dp) : (modRewrite p f d).thm = d.thm := rfl
@[simp] theorem modRewrite_flt (p : Page) (f : Rewrite → Rewrite) (d : Dp) : (modRewrite p f d).flt = d.flt := rfl
@[simp] theorem modRewrite_rec_ (p : Page) (f : Rewrite → Rewrite) (d : Dp) : (modRewrite p f d).rec_ = d.rec_ := rfl
@[simp] theorem modRewrite_pst (p : Page) (f : Rewrite → Rewrite) (d : Dp) : (modRewrite p f d).pst = d.pst := rfl
@[simp] theorem modRewrite_hif (p : Page) (f : Rewrite → Rewrite) (d : Dp) : (modRewrite p f d).hif = d.hif := rfl
@[simp] theorem modRewrite_ceil (p : Page) (f : Rewrite → Rewrite) (d : Dp) : (modRewrite p f d).ceil = d.ceil := rfl
@[simp] theorem modRewrite_acc (p : Page) (f : Rewrite → Rewrite) (d : Dp) : (modRewrite p f d).acc = d.acc := rfl
@[simp] theorem modRewrite_lc (p : Page) (f : Rewrite → Rewrite) (d : Dp) : (modRewrite p f d).lc = d.lc := rfl
@[simp] theorem modRewrite_mrg (p : Page) (f : Rewrite → Rewrite) (d : Dp) : (modRewrite p f d).mrg = d.mrg := rfl
@[simp] theorem modRewrite_jrn (p : Page) (f : Rewrite → Rewrite) (d : Dp) : (modRewrite p f d).jrn = d.jrn := rfl
@[simp] theorem modRewrite_map (p : Page) (f : Rewrite → Rewrite) (d : Dp) : (modRewrite p f d).map = d.map := rfl
@[simp] theorem modRewrite_cod (p : Page) (f : Rewrite → Rewrite) (d : Dp) : (modRewrite p f d).cod = d.cod := rfl
@[simp] theorem modRewrite_hbm (p : Page) (f : Rewrite → Rewrite) (d : Dp) : (modRewrite p f d).hbm = d.hbm := rfl
@[simp] theorem modRewrite_chans (p : Page) (f : Rewrite → Rewrite) (d : Dp) : (modRewrite p f d).chans = d.chans := rfl
@[simp] theorem modRewrite_mops (p : Page) (f : Rewrite → Rewrite) (d : Dp) : (modRewrite p f d).mops = d.mops := rfl
@[simp] theorem modRewrite_nextMop (p : Page) (f : Rewrite → Rewrite) (d : Dp) : (modRewrite p f d).nextMop = d.nextMop := rfl
@[simp] theorem modRewrite_que (p : Page) (f : Rewrite → Rewrite) (d : Dp) : (modRewrite p f d).que = d.que := rfl
@[simp] theorem modRewrite_logs (p : Page) (f : Rewrite → Rewrite) (d : Dp) : (modRewrite p f d).logs = d.logs := rfl
@[simp] theorem modRewrite_sec (p : Page) (f : Rewrite → Rewrite) (d : Dp) : (modRewrite p f d).sec = d.sec := rfl
@[simp] theorem modRewrite_pmu (p : Page) (f : Rewrite → Rewrite) (d : Dp) : (modRewrite p f d).pmu = d.pmu := rfl
@[simp] theorem modRewrite_latches (p : Page) (f : Rewrite → Rewrite) (d : Dp) : (modRewrite p f d).latches = d.latches := rfl
@[simp] theorem modRewrite_out (p : Page) (f : Rewrite → Rewrite) (d : Dp) : (modRewrite p f d).out = d.out := rfl

@[simp] theorem unhold_now (s : Stripe) (d : Dp) : (unhold s d).now = d.now := rfl
@[simp] theorem unhold_free (s : Stripe) (d : Dp) : (unhold s d).free = d.free := rfl
@[simp] theorem unhold_glb (s : Stripe) (d : Dp) : (unhold s d).glb = d.glb := rfl
@[simp] theorem unhold_sup (s : Stripe) (d : Dp) : (unhold s d).sup = d.sup := rfl
@[simp] theorem unhold_fab (s : Stripe) (d : Dp) : (unhold s d).fab = d.fab := rfl
@[simp] theorem unhold_thm (s : Stripe) (d : Dp) : (unhold s d).thm = d.thm := rfl
@[simp] theorem unhold_flt (s : Stripe) (d : Dp) : (unhold s d).flt = d.flt := rfl
@[simp] theorem unhold_rec_ (s : Stripe) (d : Dp) : (unhold s d).rec_ = d.rec_ := rfl
@[simp] theorem unhold_pst (s : Stripe) (d : Dp) : (unhold s d).pst = d.pst := rfl
@[simp] theorem unhold_hif (s : Stripe) (d : Dp) : (unhold s d).hif = d.hif := rfl
@[simp] theorem unhold_ceil (s : Stripe) (d : Dp) : (unhold s d).ceil = d.ceil := rfl
@[simp] theorem unhold_acc (s : Stripe) (d : Dp) : (unhold s d).acc = d.acc := rfl
@[simp] theorem unhold_lc (s : Stripe) (d : Dp) : (unhold s d).lc = d.lc := rfl
@[simp] theorem unhold_mrg (s : Stripe) (d : Dp) : (unhold s d).mrg = d.mrg := rfl
@[simp] theorem unhold_jrn (s : Stripe) (d : Dp) : (unhold s d).jrn = d.jrn := rfl
@[simp] theorem unhold_mh (s : Stripe) (d : Dp) : (unhold s d).mh = d.mh := rfl
@[simp] theorem unhold_cod (s : Stripe) (d : Dp) : (unhold s d).cod = d.cod := rfl
@[simp] theorem unhold_chans (s : Stripe) (d : Dp) : (unhold s d).chans = d.chans := rfl
@[simp] theorem unhold_mops (s : Stripe) (d : Dp) : (unhold s d).mops = d.mops := rfl
@[simp] theorem unhold_nextMop (s : Stripe) (d : Dp) : (unhold s d).nextMop = d.nextMop := rfl
@[simp] theorem unhold_que (s : Stripe) (d : Dp) : (unhold s d).que = d.que := rfl
@[simp] theorem unhold_logs (s : Stripe) (d : Dp) : (unhold s d).logs = d.logs := rfl
@[simp] theorem unhold_sec (s : Stripe) (d : Dp) : (unhold s d).sec = d.sec := rfl
@[simp] theorem unhold_pmu (s : Stripe) (d : Dp) : (unhold s d).pmu = d.pmu := rfl
@[simp] theorem unhold_latches (s : Stripe) (d : Dp) : (unhold s d).latches = d.latches := rfl
@[simp] theorem unhold_out (s : Stripe) (d : Dp) : (unhold s d).out = d.out := rfl

@[simp] theorem modQ_now (k : Nat) (f : Queue → Queue) (d : Dp) : (modQ k f d).now = d.now := rfl
@[simp] theorem modQ_free (k : Nat) (f : Queue → Queue) (d : Dp) : (modQ k f d).free = d.free := rfl
@[simp] theorem modQ_glb (k : Nat) (f : Queue → Queue) (d : Dp) : (modQ k f d).glb = d.glb := rfl
@[simp] theorem modQ_sup (k : Nat) (f : Queue → Queue) (d : Dp) : (modQ k f d).sup = d.sup := rfl
@[simp] theorem modQ_fab (k : Nat) (f : Queue → Queue) (d : Dp) : (modQ k f d).fab = d.fab := rfl
@[simp] theorem modQ_thm (k : Nat) (f : Queue → Queue) (d : Dp) : (modQ k f d).thm = d.thm := rfl
@[simp] theorem modQ_flt (k : Nat) (f : Queue → Queue) (d : Dp) : (modQ k f d).flt = d.flt := rfl
@[simp] theorem modQ_rec_ (k : Nat) (f : Queue → Queue) (d : Dp) : (modQ k f d).rec_ = d.rec_ := rfl
@[simp] theorem modQ_pst (k : Nat) (f : Queue → Queue) (d : Dp) : (modQ k f d).pst = d.pst := rfl
@[simp] theorem modQ_hif (k : Nat) (f : Queue → Queue) (d : Dp) : (modQ k f d).hif = d.hif := rfl
@[simp] theorem modQ_ceil (k : Nat) (f : Queue → Queue) (d : Dp) : (modQ k f d).ceil = d.ceil := rfl
@[simp] theorem modQ_acc (k : Nat) (f : Queue → Queue) (d : Dp) : (modQ k f d).acc = d.acc := rfl
@[simp] theorem modQ_lc (k : Nat) (f : Queue → Queue) (d : Dp) : (modQ k f d).lc = d.lc := rfl
@[simp] theorem modQ_mrg (k : Nat) (f : Queue → Queue) (d : Dp) : (modQ k f d).mrg = d.mrg := rfl
@[simp] theorem modQ_jrn (k : Nat) (f : Queue → Queue) (d : Dp) : (modQ k f d).jrn = d.jrn := rfl
@[simp] theorem modQ_map (k : Nat) (f : Queue → Queue) (d : Dp) : (modQ k f d).map = d.map := rfl
@[simp] theorem modQ_mh (k : Nat) (f : Queue → Queue) (d : Dp) : (modQ k f d).mh = d.mh := rfl
@[simp] theorem modQ_cod (k : Nat) (f : Queue → Queue) (d : Dp) : (modQ k f d).cod = d.cod := rfl
@[simp] theorem modQ_hbm (k : Nat) (f : Queue → Queue) (d : Dp) : (modQ k f d).hbm = d.hbm := rfl
@[simp] theorem modQ_chans (k : Nat) (f : Queue → Queue) (d : Dp) : (modQ k f d).chans = d.chans := rfl
@[simp] theorem modQ_mops (k : Nat) (f : Queue → Queue) (d : Dp) : (modQ k f d).mops = d.mops := rfl
@[simp] theorem modQ_nextMop (k : Nat) (f : Queue → Queue) (d : Dp) : (modQ k f d).nextMop = d.nextMop := rfl
@[simp] theorem modQ_logs (k : Nat) (f : Queue → Queue) (d : Dp) : (modQ k f d).logs = d.logs := rfl
@[simp] theorem modQ_sec (k : Nat) (f : Queue → Queue) (d : Dp) : (modQ k f d).sec = d.sec := rfl
@[simp] theorem modQ_pmu (k : Nat) (f : Queue → Queue) (d : Dp) : (modQ k f d).pmu = d.pmu := rfl
@[simp] theorem modQ_latches (k : Nat) (f : Queue → Queue) (d : Dp) : (modQ k f d).latches = d.latches := rfl
@[simp] theorem modQ_out (k : Nat) (f : Queue → Queue) (d : Dp) : (modQ k f d).out = d.out := rfl

@[simp] theorem dropLatch_now (p : Path) (o : Nat) (d : Dp) : (dropLatch p o d).now = d.now := rfl
@[simp] theorem dropLatch_free (p : Path) (o : Nat) (d : Dp) : (dropLatch p o d).free = d.free := rfl
@[simp] theorem dropLatch_glb (p : Path) (o : Nat) (d : Dp) : (dropLatch p o d).glb = d.glb := rfl
@[simp] theorem dropLatch_sup (p : Path) (o : Nat) (d : Dp) : (dropLatch p o d).sup = d.sup := rfl
@[simp] theorem dropLatch_fab (p : Path) (o : Nat) (d : Dp) : (dropLatch p o d).fab = d.fab := rfl
@[simp] theorem dropLatch_thm (p : Path) (o : Nat) (d : Dp) : (dropLatch p o d).thm = d.thm := rfl
@[simp] theorem dropLatch_flt (p : Path) (o : Nat) (d : Dp) : (dropLatch p o d).flt = d.flt := rfl
@[simp] theorem dropLatch_rec_ (p : Path) (o : Nat) (d : Dp) : (dropLatch p o d).rec_ = d.rec_ := rfl
@[simp] theorem dropLatch_pst (p : Path) (o : Nat) (d : Dp) : (dropLatch p o d).pst = d.pst := rfl
@[simp] theorem dropLatch_hif (p : Path) (o : Nat) (d : Dp) : (dropLatch p o d).hif = d.hif := rfl
@[simp] theorem dropLatch_ceil (p : Path) (o : Nat) (d : Dp) : (dropLatch p o d).ceil = d.ceil := rfl
@[simp] theorem dropLatch_acc (p : Path) (o : Nat) (d : Dp) : (dropLatch p o d).acc = d.acc := rfl
@[simp] theorem dropLatch_lc (p : Path) (o : Nat) (d : Dp) : (dropLatch p o d).lc = d.lc := rfl
@[simp] theorem dropLatch_mrg (p : Path) (o : Nat) (d : Dp) : (dropLatch p o d).mrg = d.mrg := rfl
@[simp] theorem dropLatch_jrn (p : Path) (o : Nat) (d : Dp) : (dropLatch p o d).jrn = d.jrn := rfl
@[simp] theorem dropLatch_map (p : Path) (o : Nat) (d : Dp) : (dropLatch p o d).map = d.map := rfl
@[simp] theorem dropLatch_mh (p : Path) (o : Nat) (d : Dp) : (dropLatch p o d).mh = d.mh := rfl
@[simp] theorem dropLatch_cod (p : Path) (o : Nat) (d : Dp) : (dropLatch p o d).cod = d.cod := rfl
@[simp] theorem dropLatch_hbm (p : Path) (o : Nat) (d : Dp) : (dropLatch p o d).hbm = d.hbm := rfl
@[simp] theorem dropLatch_chans (p : Path) (o : Nat) (d : Dp) : (dropLatch p o d).chans = d.chans := rfl
@[simp] theorem dropLatch_mops (p : Path) (o : Nat) (d : Dp) : (dropLatch p o d).mops = d.mops := rfl
@[simp] theorem dropLatch_nextMop (p : Path) (o : Nat) (d : Dp) : (dropLatch p o d).nextMop = d.nextMop := rfl
@[simp] theorem dropLatch_que (p : Path) (o : Nat) (d : Dp) : (dropLatch p o d).que = d.que := rfl
@[simp] theorem dropLatch_logs (p : Path) (o : Nat) (d : Dp) : (dropLatch p o d).logs = d.logs := rfl
@[simp] theorem dropLatch_sec (p : Path) (o : Nat) (d : Dp) : (dropLatch p o d).sec = d.sec := rfl
@[simp] theorem dropLatch_pmu (p : Path) (o : Nat) (d : Dp) : (dropLatch p o d).pmu = d.pmu := rfl
@[simp] theorem dropLatch_out (p : Path) (o : Nat) (d : Dp) : (dropLatch p o d).out = d.out := rfl

@[simp] theorem setLatch_now (p : Path) (o : Nat) (v : Word) (d : Dp) : (setLatch p o v d).now = d.now := rfl
@[simp] theorem setLatch_free (p : Path) (o : Nat) (v : Word) (d : Dp) : (setLatch p o v d).free = d.free := rfl
@[simp] theorem setLatch_glb (p : Path) (o : Nat) (v : Word) (d : Dp) : (setLatch p o v d).glb = d.glb := rfl
@[simp] theorem setLatch_sup (p : Path) (o : Nat) (v : Word) (d : Dp) : (setLatch p o v d).sup = d.sup := rfl
@[simp] theorem setLatch_fab (p : Path) (o : Nat) (v : Word) (d : Dp) : (setLatch p o v d).fab = d.fab := rfl
@[simp] theorem setLatch_thm (p : Path) (o : Nat) (v : Word) (d : Dp) : (setLatch p o v d).thm = d.thm := rfl
@[simp] theorem setLatch_flt (p : Path) (o : Nat) (v : Word) (d : Dp) : (setLatch p o v d).flt = d.flt := rfl
@[simp] theorem setLatch_rec_ (p : Path) (o : Nat) (v : Word) (d : Dp) : (setLatch p o v d).rec_ = d.rec_ := rfl
@[simp] theorem setLatch_pst (p : Path) (o : Nat) (v : Word) (d : Dp) : (setLatch p o v d).pst = d.pst := rfl
@[simp] theorem setLatch_hif (p : Path) (o : Nat) (v : Word) (d : Dp) : (setLatch p o v d).hif = d.hif := rfl
@[simp] theorem setLatch_ceil (p : Path) (o : Nat) (v : Word) (d : Dp) : (setLatch p o v d).ceil = d.ceil := rfl
@[simp] theorem setLatch_acc (p : Path) (o : Nat) (v : Word) (d : Dp) : (setLatch p o v d).acc = d.acc := rfl
@[simp] theorem setLatch_lc (p : Path) (o : Nat) (v : Word) (d : Dp) : (setLatch p o v d).lc = d.lc := rfl
@[simp] theorem setLatch_mrg (p : Path) (o : Nat) (v : Word) (d : Dp) : (setLatch p o v d).mrg = d.mrg := rfl
@[simp] theorem setLatch_jrn (p : Path) (o : Nat) (v : Word) (d : Dp) : (setLatch p o v d).jrn = d.jrn := rfl
@[simp] theorem setLatch_map (p : Path) (o : Nat) (v : Word) (d : Dp) : (setLatch p o v d).map = d.map := rfl
@[simp] theorem setLatch_mh (p : Path) (o : Nat) (v : Word) (d : Dp) : (setLatch p o v d).mh = d.mh := rfl
@[simp] theorem setLatch_cod (p : Path) (o : Nat) (v : Word) (d : Dp) : (setLatch p o v d).cod = d.cod := rfl
@[simp] theorem setLatch_hbm (p : Path) (o : Nat) (v : Word) (d : Dp) : (setLatch p o v d).hbm = d.hbm := rfl
@[simp] theorem setLatch_chans (p : Path) (o : Nat) (v : Word) (d : Dp) : (setLatch p o v d).chans = d.chans := rfl
@[simp] theorem setLatch_mops (p : Path) (o : Nat) (v : Word) (d : Dp) : (setLatch p o v d).mops = d.mops := rfl
@[simp] theorem setLatch_nextMop (p : Path) (o : Nat) (v : Word) (d : Dp) : (setLatch p o v d).nextMop = d.nextMop := rfl
@[simp] theorem setLatch_que (p : Path) (o : Nat) (v : Word) (d : Dp) : (setLatch p o v d).que = d.que := rfl
@[simp] theorem setLatch_logs (p : Path) (o : Nat) (v : Word) (d : Dp) : (setLatch p o v d).logs = d.logs := rfl
@[simp] theorem setLatch_sec (p : Path) (o : Nat) (v : Word) (d : Dp) : (setLatch p o v d).sec = d.sec := rfl
@[simp] theorem setLatch_pmu (p : Path) (o : Nat) (v : Word) (d : Dp) : (setLatch p o v d).pmu = d.pmu := rfl
@[simp] theorem setLatch_out (p : Path) (o : Nat) (v : Word) (d : Dp) : (setLatch p o v d).out = d.out := rfl

@[simp] theorem takeReqCredit_now (d : Dp) : (takeReqCredit d).now = d.now := rfl
@[simp] theorem takeReqCredit_free (d : Dp) : (takeReqCredit d).free = d.free := rfl
@[simp] theorem takeReqCredit_glb (d : Dp) : (takeReqCredit d).glb = d.glb := rfl
@[simp] theorem takeReqCredit_sup (d : Dp) : (takeReqCredit d).sup = d.sup := rfl
@[simp] theorem takeReqCredit_fab (d : Dp) : (takeReqCredit d).fab = d.fab := rfl
@[simp] theorem takeReqCredit_thm (d : Dp) : (takeReqCredit d).thm = d.thm := rfl
@[simp] theorem takeReqCredit_flt (d : Dp) : (takeReqCredit d).flt = d.flt := rfl
@[simp] theorem takeReqCredit_rec_ (d : Dp) : (takeReqCredit d).rec_ = d.rec_ := rfl
@[simp] theorem takeReqCredit_pst (d : Dp) : (takeReqCredit d).pst = d.pst := rfl
@[simp] theorem takeReqCredit_ceil (d : Dp) : (takeReqCredit d).ceil = d.ceil := rfl
@[simp] theorem takeReqCredit_acc (d : Dp) : (takeReqCredit d).acc = d.acc := rfl
@[simp] theorem takeReqCredit_lc (d : Dp) : (takeReqCredit d).lc = d.lc := rfl
@[simp] theorem takeReqCredit_mrg (d : Dp) : (takeReqCredit d).mrg = d.mrg := rfl
@[simp] theorem takeReqCredit_jrn (d : Dp) : (takeReqCredit d).jrn = d.jrn := rfl
@[simp] theorem takeReqCredit_map (d : Dp) : (takeReqCredit d).map = d.map := rfl
@[simp] theorem takeReqCredit_mh (d : Dp) : (takeReqCredit d).mh = d.mh := rfl
@[simp] theorem takeReqCredit_cod (d : Dp) : (takeReqCredit d).cod = d.cod := rfl
@[simp] theorem takeReqCredit_hbm (d : Dp) : (takeReqCredit d).hbm = d.hbm := rfl
@[simp] theorem takeReqCredit_chans (d : Dp) : (takeReqCredit d).chans = d.chans := rfl
@[simp] theorem takeReqCredit_mops (d : Dp) : (takeReqCredit d).mops = d.mops := rfl
@[simp] theorem takeReqCredit_nextMop (d : Dp) : (takeReqCredit d).nextMop = d.nextMop := rfl
@[simp] theorem takeReqCredit_que (d : Dp) : (takeReqCredit d).que = d.que := rfl
@[simp] theorem takeReqCredit_logs (d : Dp) : (takeReqCredit d).logs = d.logs := rfl
@[simp] theorem takeReqCredit_sec (d : Dp) : (takeReqCredit d).sec = d.sec := rfl
@[simp] theorem takeReqCredit_pmu (d : Dp) : (takeReqCredit d).pmu = d.pmu := rfl
@[simp] theorem takeReqCredit_latches (d : Dp) : (takeReqCredit d).latches = d.latches := rfl
@[simp] theorem takeReqCredit_out (d : Dp) : (takeReqCredit d).out = d.out := rfl

@[simp] theorem takeRwdCredit_now (d : Dp) : (takeRwdCredit d).now = d.now := rfl
@[simp] theorem takeRwdCredit_free (d : Dp) : (takeRwdCredit d).free = d.free := rfl
@[simp] theorem takeRwdCredit_glb (d : Dp) : (takeRwdCredit d).glb = d.glb := rfl
@[simp] theorem takeRwdCredit_sup (d : Dp) : (takeRwdCredit d).sup = d.sup := rfl
@[simp] theorem takeRwdCredit_fab (d : Dp) : (takeRwdCredit d).fab = d.fab := rfl
@[simp] theorem takeRwdCredit_thm (d : Dp) : (takeRwdCredit d).thm = d.thm := rfl
@[simp] theorem takeRwdCredit_flt (d : Dp) : (takeRwdCredit d).flt = d.flt := rfl
@[simp] theorem takeRwdCredit_rec_ (d : Dp) : (takeRwdCredit d).rec_ = d.rec_ := rfl
@[simp] theorem takeRwdCredit_pst (d : Dp) : (takeRwdCredit d).pst = d.pst := rfl
@[simp] theorem takeRwdCredit_ceil (d : Dp) : (takeRwdCredit d).ceil = d.ceil := rfl
@[simp] theorem takeRwdCredit_acc (d : Dp) : (takeRwdCredit d).acc = d.acc := rfl
@[simp] theorem takeRwdCredit_lc (d : Dp) : (takeRwdCredit d).lc = d.lc := rfl
@[simp] theorem takeRwdCredit_mrg (d : Dp) : (takeRwdCredit d).mrg = d.mrg := rfl
@[simp] theorem takeRwdCredit_jrn (d : Dp) : (takeRwdCredit d).jrn = d.jrn := rfl
@[simp] theorem takeRwdCredit_map (d : Dp) : (takeRwdCredit d).map = d.map := rfl
@[simp] theorem takeRwdCredit_mh (d : Dp) : (takeRwdCredit d).mh = d.mh := rfl
@[simp] theorem takeRwdCredit_cod (d : Dp) : (takeRwdCredit d).cod = d.cod := rfl
@[simp] theorem takeRwdCredit_hbm (d : Dp) : (takeRwdCredit d).hbm = d.hbm := rfl
@[simp] theorem takeRwdCredit_chans (d : Dp) : (takeRwdCredit d).chans = d.chans := rfl
@[simp] theorem takeRwdCredit_mops (d : Dp) : (takeRwdCredit d).mops = d.mops := rfl
@[simp] theorem takeRwdCredit_nextMop (d : Dp) : (takeRwdCredit d).nextMop = d.nextMop := rfl
@[simp] theorem takeRwdCredit_que (d : Dp) : (takeRwdCredit d).que = d.que := rfl
@[simp] theorem takeRwdCredit_logs (d : Dp) : (takeRwdCredit d).logs = d.logs := rfl
@[simp] theorem takeRwdCredit_sec (d : Dp) : (takeRwdCredit d).sec = d.sec := rfl
@[simp] theorem takeRwdCredit_pmu (d : Dp) : (takeRwdCredit d).pmu = d.pmu := rfl
@[simp] theorem takeRwdCredit_latches (d : Dp) : (takeRwdCredit d).latches = d.latches := rfl
@[simp] theorem takeRwdCredit_out (d : Dp) : (takeRwdCredit d).out = d.out := rfl

@[simp] theorem dropWork_now (k : WorkKind) (d : Dp) : (dropWork k d).now = d.now := rfl
@[simp] theorem dropWork_free (k : WorkKind) (d : Dp) : (dropWork k d).free = d.free := rfl
@[simp] theorem dropWork_glb (k : WorkKind) (d : Dp) : (dropWork k d).glb = d.glb := rfl
@[simp] theorem dropWork_sup (k : WorkKind) (d : Dp) : (dropWork k d).sup = d.sup := rfl
@[simp] theorem dropWork_fab (k : WorkKind) (d : Dp) : (dropWork k d).fab = d.fab := rfl
@[simp] theorem dropWork_thm (k : WorkKind) (d : Dp) : (dropWork k d).thm = d.thm := rfl
@[simp] theorem dropWork_flt (k : WorkKind) (d : Dp) : (dropWork k d).flt = d.flt := rfl
@[simp] theorem dropWork_rec_ (k : WorkKind) (d : Dp) : (dropWork k d).rec_ = d.rec_ := rfl
@[simp] theorem dropWork_pst (k : WorkKind) (d : Dp) : (dropWork k d).pst = d.pst := rfl
@[simp] theorem dropWork_hif (k : WorkKind) (d : Dp) : (dropWork k d).hif = d.hif := rfl
@[simp] theorem dropWork_ceil (k : WorkKind) (d : Dp) : (dropWork k d).ceil = d.ceil := rfl
@[simp] theorem dropWork_acc (k : WorkKind) (d : Dp) : (dropWork k d).acc = d.acc := rfl
@[simp] theorem dropWork_lc (k : WorkKind) (d : Dp) : (dropWork k d).lc = d.lc := rfl
@[simp] theorem dropWork_mrg (k : WorkKind) (d : Dp) : (dropWork k d).mrg = d.mrg := rfl
@[simp] theorem dropWork_jrn (k : WorkKind) (d : Dp) : (dropWork k d).jrn = d.jrn := rfl
@[simp] theorem dropWork_map (k : WorkKind) (d : Dp) : (dropWork k d).map = d.map := rfl
@[simp] theorem dropWork_cod (k : WorkKind) (d : Dp) : (dropWork k d).cod = d.cod := rfl
@[simp] theorem dropWork_hbm (k : WorkKind) (d : Dp) : (dropWork k d).hbm = d.hbm := rfl
@[simp] theorem dropWork_chans (k : WorkKind) (d : Dp) : (dropWork k d).chans = d.chans := rfl
@[simp] theorem dropWork_mops (k : WorkKind) (d : Dp) : (dropWork k d).mops = d.mops := rfl
@[simp] theorem dropWork_nextMop (k : WorkKind) (d : Dp) : (dropWork k d).nextMop = d.nextMop := rfl
@[simp] theorem dropWork_que (k : WorkKind) (d : Dp) : (dropWork k d).que = d.que := rfl
@[simp] theorem dropWork_logs (k : WorkKind) (d : Dp) : (dropWork k d).logs = d.logs := rfl
@[simp] theorem dropWork_sec (k : WorkKind) (d : Dp) : (dropWork k d).sec = d.sec := rfl
@[simp] theorem dropWork_pmu (k : WorkKind) (d : Dp) : (dropWork k d).pmu = d.pmu := rfl
@[simp] theorem dropWork_latches (k : WorkKind) (d : Dp) : (dropWork k d).latches = d.latches := rfl
@[simp] theorem dropWork_out (k : WorkKind) (d : Dp) : (dropWork k d).out = d.out := rfl

@[simp] theorem resetQueue_now (k : Nat) (d : Dp) : (resetQueue k d).now = d.now := rfl
@[simp] theorem resetQueue_free (k : Nat) (d : Dp) : (resetQueue k d).free = d.free := rfl
@[simp] theorem resetQueue_glb (k : Nat) (d : Dp) : (resetQueue k d).glb = d.glb := rfl
@[simp] theorem resetQueue_sup (k : Nat) (d : Dp) : (resetQueue k d).sup = d.sup := rfl
@[simp] theorem resetQueue_fab (k : Nat) (d : Dp) : (resetQueue k d).fab = d.fab := rfl
@[simp] theorem resetQueue_thm (k : Nat) (d : Dp) : (resetQueue k d).thm = d.thm := rfl
@[simp] theorem resetQueue_flt (k : Nat) (d : Dp) : (resetQueue k d).flt = d.flt := rfl
@[simp] theorem resetQueue_rec_ (k : Nat) (d : Dp) : (resetQueue k d).rec_ = d.rec_ := rfl
@[simp] theorem resetQueue_pst (k : Nat) (d : Dp) : (resetQueue k d).pst = d.pst := rfl
@[simp] theorem resetQueue_hif (k : Nat) (d : Dp) : (resetQueue k d).hif = d.hif := rfl
@[simp] theorem resetQueue_ceil (k : Nat) (d : Dp) : (resetQueue k d).ceil = d.ceil := rfl
@[simp] theorem resetQueue_acc (k : Nat) (d : Dp) : (resetQueue k d).acc = d.acc := rfl
@[simp] theorem resetQueue_lc (k : Nat) (d : Dp) : (resetQueue k d).lc = d.lc := rfl
@[simp] theorem resetQueue_mrg (k : Nat) (d : Dp) : (resetQueue k d).mrg = d.mrg := rfl
@[simp] theorem resetQueue_jrn (k : Nat) (d : Dp) : (resetQueue k d).jrn = d.jrn := rfl
@[simp] theorem resetQueue_map (k : Nat) (d : Dp) : (resetQueue k d).map = d.map := rfl
@[simp] theorem resetQueue_mh (k : Nat) (d : Dp) : (resetQueue k d).mh = d.mh := rfl
@[simp] theorem resetQueue_cod (k : Nat) (d : Dp) : (resetQueue k d).cod = d.cod := rfl
@[simp] theorem resetQueue_hbm (k : Nat) (d : Dp) : (resetQueue k d).hbm = d.hbm := rfl
@[simp] theorem resetQueue_chans (k : Nat) (d : Dp) : (resetQueue k d).chans = d.chans := rfl
@[simp] theorem resetQueue_mops (k : Nat) (d : Dp) : (resetQueue k d).mops = d.mops := rfl
@[simp] theorem resetQueue_nextMop (k : Nat) (d : Dp) : (resetQueue k d).nextMop = d.nextMop := rfl
@[simp] theorem resetQueue_logs (k : Nat) (d : Dp) : (resetQueue k d).logs = d.logs := rfl
@[simp] theorem resetQueue_sec (k : Nat) (d : Dp) : (resetQueue k d).sec = d.sec := rfl
@[simp] theorem resetQueue_pmu (k : Nat) (d : Dp) : (resetQueue k d).pmu = d.pmu := rfl
@[simp] theorem resetQueue_latches (k : Nat) (d : Dp) : (resetQueue k d).latches = d.latches := rfl
@[simp] theorem resetQueue_out (k : Nat) (d : Dp) : (resetQueue k d).out = d.out := rfl

@[simp] theorem leaveOut_now (l : LineAddr) (inv : Bool) (d : Dp) : (leaveOut l inv d).now = d.now := rfl
@[simp] theorem leaveOut_free (l : LineAddr) (inv : Bool) (d : Dp) : (leaveOut l inv d).free = d.free := rfl
@[simp] theorem leaveOut_glb (l : LineAddr) (inv : Bool) (d : Dp) : (leaveOut l inv d).glb = d.glb := rfl
@[simp] theorem leaveOut_sup (l : LineAddr) (inv : Bool) (d : Dp) : (leaveOut l inv d).sup = d.sup := rfl
@[simp] theorem leaveOut_fab (l : LineAddr) (inv : Bool) (d : Dp) : (leaveOut l inv d).fab = d.fab := rfl
@[simp] theorem leaveOut_thm (l : LineAddr) (inv : Bool) (d : Dp) : (leaveOut l inv d).thm = d.thm := rfl
@[simp] theorem leaveOut_flt (l : LineAddr) (inv : Bool) (d : Dp) : (leaveOut l inv d).flt = d.flt := rfl
@[simp] theorem leaveOut_rec_ (l : LineAddr) (inv : Bool) (d : Dp) : (leaveOut l inv d).rec_ = d.rec_ := rfl
@[simp] theorem leaveOut_pst (l : LineAddr) (inv : Bool) (d : Dp) : (leaveOut l inv d).pst = d.pst := rfl
@[simp] theorem leaveOut_hif (l : LineAddr) (inv : Bool) (d : Dp) : (leaveOut l inv d).hif = d.hif := rfl
@[simp] theorem leaveOut_ceil (l : LineAddr) (inv : Bool) (d : Dp) : (leaveOut l inv d).ceil = d.ceil := rfl
@[simp] theorem leaveOut_acc (l : LineAddr) (inv : Bool) (d : Dp) : (leaveOut l inv d).acc = d.acc := rfl
@[simp] theorem leaveOut_mrg (l : LineAddr) (inv : Bool) (d : Dp) : (leaveOut l inv d).mrg = d.mrg := rfl
@[simp] theorem leaveOut_jrn (l : LineAddr) (inv : Bool) (d : Dp) : (leaveOut l inv d).jrn = d.jrn := rfl
@[simp] theorem leaveOut_map (l : LineAddr) (inv : Bool) (d : Dp) : (leaveOut l inv d).map = d.map := rfl
@[simp] theorem leaveOut_mh (l : LineAddr) (inv : Bool) (d : Dp) : (leaveOut l inv d).mh = d.mh := rfl
@[simp] theorem leaveOut_cod (l : LineAddr) (inv : Bool) (d : Dp) : (leaveOut l inv d).cod = d.cod := rfl
@[simp] theorem leaveOut_hbm (l : LineAddr) (inv : Bool) (d : Dp) : (leaveOut l inv d).hbm = d.hbm := rfl
@[simp] theorem leaveOut_chans (l : LineAddr) (inv : Bool) (d : Dp) : (leaveOut l inv d).chans = d.chans := rfl
@[simp] theorem leaveOut_mops (l : LineAddr) (inv : Bool) (d : Dp) : (leaveOut l inv d).mops = d.mops := rfl
@[simp] theorem leaveOut_nextMop (l : LineAddr) (inv : Bool) (d : Dp) : (leaveOut l inv d).nextMop = d.nextMop := rfl
@[simp] theorem leaveOut_que (l : LineAddr) (inv : Bool) (d : Dp) : (leaveOut l inv d).que = d.que := rfl
@[simp] theorem leaveOut_logs (l : LineAddr) (inv : Bool) (d : Dp) : (leaveOut l inv d).logs = d.logs := rfl
@[simp] theorem leaveOut_sec (l : LineAddr) (inv : Bool) (d : Dp) : (leaveOut l inv d).sec = d.sec := rfl
@[simp] theorem leaveOut_pmu (l : LineAddr) (inv : Bool) (d : Dp) : (leaveOut l inv d).pmu = d.pmu := rfl
@[simp] theorem leaveOut_latches (l : LineAddr) (inv : Bool) (d : Dp) : (leaveOut l inv d).latches = d.latches := rfl
@[simp] theorem leaveOut_out (l : LineAddr) (inv : Bool) (d : Dp) : (leaveOut l inv d).out = d.out := rfl

@[simp] theorem setReading_now (b : Bool) (d : Dp) : (setReading b d).now = d.now := rfl
@[simp] theorem setReading_free (b : Bool) (d : Dp) : (setReading b d).free = d.free := rfl
@[simp] theorem setReading_glb (b : Bool) (d : Dp) : (setReading b d).glb = d.glb := rfl
@[simp] theorem setReading_sup (b : Bool) (d : Dp) : (setReading b d).sup = d.sup := rfl
@[simp] theorem setReading_fab (b : Bool) (d : Dp) : (setReading b d).fab = d.fab := rfl
@[simp] theorem setReading_thm (b : Bool) (d : Dp) : (setReading b d).thm = d.thm := rfl
@[simp] theorem setReading_flt (b : Bool) (d : Dp) : (setReading b d).flt = d.flt := rfl
@[simp] theorem setReading_rec_ (b : Bool) (d : Dp) : (setReading b d).rec_ = d.rec_ := rfl
@[simp] theorem setReading_pst (b : Bool) (d : Dp) : (setReading b d).pst = d.pst := rfl
@[simp] theorem setReading_hif (b : Bool) (d : Dp) : (setReading b d).hif = d.hif := rfl
@[simp] theorem setReading_ceil (b : Bool) (d : Dp) : (setReading b d).ceil = d.ceil := rfl
@[simp] theorem setReading_acc (b : Bool) (d : Dp) : (setReading b d).acc = d.acc := rfl
@[simp] theorem setReading_mrg (b : Bool) (d : Dp) : (setReading b d).mrg = d.mrg := rfl
@[simp] theorem setReading_jrn (b : Bool) (d : Dp) : (setReading b d).jrn = d.jrn := rfl
@[simp] theorem setReading_map (b : Bool) (d : Dp) : (setReading b d).map = d.map := rfl
@[simp] theorem setReading_mh (b : Bool) (d : Dp) : (setReading b d).mh = d.mh := rfl
@[simp] theorem setReading_cod (b : Bool) (d : Dp) : (setReading b d).cod = d.cod := rfl
@[simp] theorem setReading_hbm (b : Bool) (d : Dp) : (setReading b d).hbm = d.hbm := rfl
@[simp] theorem setReading_chans (b : Bool) (d : Dp) : (setReading b d).chans = d.chans := rfl
@[simp] theorem setReading_mops (b : Bool) (d : Dp) : (setReading b d).mops = d.mops := rfl
@[simp] theorem setReading_nextMop (b : Bool) (d : Dp) : (setReading b d).nextMop = d.nextMop := rfl
@[simp] theorem setReading_que (b : Bool) (d : Dp) : (setReading b d).que = d.que := rfl
@[simp] theorem setReading_logs (b : Bool) (d : Dp) : (setReading b d).logs = d.logs := rfl
@[simp] theorem setReading_sec (b : Bool) (d : Dp) : (setReading b d).sec = d.sec := rfl
@[simp] theorem setReading_pmu (b : Bool) (d : Dp) : (setReading b d).pmu = d.pmu := rfl
@[simp] theorem setReading_latches (b : Bool) (d : Dp) : (setReading b d).latches = d.latches := rfl
@[simp] theorem setReading_out (b : Bool) (d : Dp) : (setReading b d).out = d.out := rfl

@[simp] theorem stepLfsr_now (slice : Nat) (d : Dp) : (stepLfsr slice d).now = d.now := rfl
@[simp] theorem stepLfsr_free (slice : Nat) (d : Dp) : (stepLfsr slice d).free = d.free := rfl
@[simp] theorem stepLfsr_glb (slice : Nat) (d : Dp) : (stepLfsr slice d).glb = d.glb := rfl
@[simp] theorem stepLfsr_sup (slice : Nat) (d : Dp) : (stepLfsr slice d).sup = d.sup := rfl
@[simp] theorem stepLfsr_fab (slice : Nat) (d : Dp) : (stepLfsr slice d).fab = d.fab := rfl
@[simp] theorem stepLfsr_thm (slice : Nat) (d : Dp) : (stepLfsr slice d).thm = d.thm := rfl
@[simp] theorem stepLfsr_flt (slice : Nat) (d : Dp) : (stepLfsr slice d).flt = d.flt := rfl
@[simp] theorem stepLfsr_rec_ (slice : Nat) (d : Dp) : (stepLfsr slice d).rec_ = d.rec_ := rfl
@[simp] theorem stepLfsr_pst (slice : Nat) (d : Dp) : (stepLfsr slice d).pst = d.pst := rfl
@[simp] theorem stepLfsr_hif (slice : Nat) (d : Dp) : (stepLfsr slice d).hif = d.hif := rfl
@[simp] theorem stepLfsr_ceil (slice : Nat) (d : Dp) : (stepLfsr slice d).ceil = d.ceil := rfl
@[simp] theorem stepLfsr_acc (slice : Nat) (d : Dp) : (stepLfsr slice d).acc = d.acc := rfl
@[simp] theorem stepLfsr_mrg (slice : Nat) (d : Dp) : (stepLfsr slice d).mrg = d.mrg := rfl
@[simp] theorem stepLfsr_jrn (slice : Nat) (d : Dp) : (stepLfsr slice d).jrn = d.jrn := rfl
@[simp] theorem stepLfsr_map (slice : Nat) (d : Dp) : (stepLfsr slice d).map = d.map := rfl
@[simp] theorem stepLfsr_mh (slice : Nat) (d : Dp) : (stepLfsr slice d).mh = d.mh := rfl
@[simp] theorem stepLfsr_cod (slice : Nat) (d : Dp) : (stepLfsr slice d).cod = d.cod := rfl
@[simp] theorem stepLfsr_hbm (slice : Nat) (d : Dp) : (stepLfsr slice d).hbm = d.hbm := rfl
@[simp] theorem stepLfsr_chans (slice : Nat) (d : Dp) : (stepLfsr slice d).chans = d.chans := rfl
@[simp] theorem stepLfsr_mops (slice : Nat) (d : Dp) : (stepLfsr slice d).mops = d.mops := rfl
@[simp] theorem stepLfsr_nextMop (slice : Nat) (d : Dp) : (stepLfsr slice d).nextMop = d.nextMop := rfl
@[simp] theorem stepLfsr_que (slice : Nat) (d : Dp) : (stepLfsr slice d).que = d.que := rfl
@[simp] theorem stepLfsr_logs (slice : Nat) (d : Dp) : (stepLfsr slice d).logs = d.logs := rfl
@[simp] theorem stepLfsr_sec (slice : Nat) (d : Dp) : (stepLfsr slice d).sec = d.sec := rfl
@[simp] theorem stepLfsr_pmu (slice : Nat) (d : Dp) : (stepLfsr slice d).pmu = d.pmu := rfl
@[simp] theorem stepLfsr_latches (slice : Nat) (d : Dp) : (stepLfsr slice d).latches = d.latches := rfl
@[simp] theorem stepLfsr_out (slice : Nat) (d : Dp) : (stepLfsr slice d).out = d.out := rfl

@[simp] theorem touch_now (s : HStr) (word : Nat) (d : Dp) : (touch s word d).now = d.now := rfl
@[simp] theorem touch_free (s : HStr) (word : Nat) (d : Dp) : (touch s word d).free = d.free := rfl
@[simp] theorem touch_glb (s : HStr) (word : Nat) (d : Dp) : (touch s word d).glb = d.glb := rfl
@[simp] theorem touch_sup (s : HStr) (word : Nat) (d : Dp) : (touch s word d).sup = d.sup := rfl
@[simp] theorem touch_fab (s : HStr) (word : Nat) (d : Dp) : (touch s word d).fab = d.fab := rfl
@[simp] theorem touch_thm (s : HStr) (word : Nat) (d : Dp) : (touch s word d).thm = d.thm := rfl
@[simp] theorem touch_flt (s : HStr) (word : Nat) (d : Dp) : (touch s word d).flt = d.flt := rfl
@[simp] theorem touch_rec_ (s : HStr) (word : Nat) (d : Dp) : (touch s word d).rec_ = d.rec_ := rfl
@[simp] theorem touch_pst (s : HStr) (word : Nat) (d : Dp) : (touch s word d).pst = d.pst := rfl
@[simp] theorem touch_hif (s : HStr) (word : Nat) (d : Dp) : (touch s word d).hif = d.hif := rfl
@[simp] theorem touch_ceil (s : HStr) (word : Nat) (d : Dp) : (touch s word d).ceil = d.ceil := rfl
@[simp] theorem touch_acc (s : HStr) (word : Nat) (d : Dp) : (touch s word d).acc = d.acc := rfl
@[simp] theorem touch_lc (s : HStr) (word : Nat) (d : Dp) : (touch s word d).lc = d.lc := rfl
@[simp] theorem touch_mrg (s : HStr) (word : Nat) (d : Dp) : (touch s word d).mrg = d.mrg := rfl
@[simp] theorem touch_jrn (s : HStr) (word : Nat) (d : Dp) : (touch s word d).jrn = d.jrn := rfl
@[simp] theorem touch_map (s : HStr) (word : Nat) (d : Dp) : (touch s word d).map = d.map := rfl
@[simp] theorem touch_mh (s : HStr) (word : Nat) (d : Dp) : (touch s word d).mh = d.mh := rfl
@[simp] theorem touch_cod (s : HStr) (word : Nat) (d : Dp) : (touch s word d).cod = d.cod := rfl
@[simp] theorem touch_chans (s : HStr) (word : Nat) (d : Dp) : (touch s word d).chans = d.chans := rfl
@[simp] theorem touch_mops (s : HStr) (word : Nat) (d : Dp) : (touch s word d).mops = d.mops := rfl
@[simp] theorem touch_nextMop (s : HStr) (word : Nat) (d : Dp) : (touch s word d).nextMop = d.nextMop := rfl
@[simp] theorem touch_que (s : HStr) (word : Nat) (d : Dp) : (touch s word d).que = d.que := rfl
@[simp] theorem touch_logs (s : HStr) (word : Nat) (d : Dp) : (touch s word d).logs = d.logs := rfl
@[simp] theorem touch_sec (s : HStr) (word : Nat) (d : Dp) : (touch s word d).sec = d.sec := rfl
@[simp] theorem touch_pmu (s : HStr) (word : Nat) (d : Dp) : (touch s word d).pmu = d.pmu := rfl
@[simp] theorem touch_latches (s : HStr) (word : Nat) (d : Dp) : (touch s word d).latches = d.latches := rfl
@[simp] theorem touch_out (s : HStr) (word : Nat) (d : Dp) : (touch s word d).out = d.out := rfl

@[simp] theorem waitStripe_now (s : Stripe) (n : Nat) (r : Option (BitVec 5)) (d : Dp) : (waitStripe s n r d).now = d.now := rfl
@[simp] theorem waitStripe_free (s : Stripe) (n : Nat) (r : Option (BitVec 5)) (d : Dp) : (waitStripe s n r d).free = d.free := rfl
@[simp] theorem waitStripe_glb (s : Stripe) (n : Nat) (r : Option (BitVec 5)) (d : Dp) : (waitStripe s n r d).glb = d.glb := rfl
@[simp] theorem waitStripe_sup (s : Stripe) (n : Nat) (r : Option (BitVec 5)) (d : Dp) : (waitStripe s n r d).sup = d.sup := rfl
@[simp] theorem waitStripe_fab (s : Stripe) (n : Nat) (r : Option (BitVec 5)) (d : Dp) : (waitStripe s n r d).fab = d.fab := rfl
@[simp] theorem waitStripe_thm (s : Stripe) (n : Nat) (r : Option (BitVec 5)) (d : Dp) : (waitStripe s n r d).thm = d.thm := rfl
@[simp] theorem waitStripe_flt (s : Stripe) (n : Nat) (r : Option (BitVec 5)) (d : Dp) : (waitStripe s n r d).flt = d.flt := rfl
@[simp] theorem waitStripe_rec_ (s : Stripe) (n : Nat) (r : Option (BitVec 5)) (d : Dp) : (waitStripe s n r d).rec_ = d.rec_ := rfl
@[simp] theorem waitStripe_pst (s : Stripe) (n : Nat) (r : Option (BitVec 5)) (d : Dp) : (waitStripe s n r d).pst = d.pst := rfl
@[simp] theorem waitStripe_hif (s : Stripe) (n : Nat) (r : Option (BitVec 5)) (d : Dp) : (waitStripe s n r d).hif = d.hif := rfl
@[simp] theorem waitStripe_ceil (s : Stripe) (n : Nat) (r : Option (BitVec 5)) (d : Dp) : (waitStripe s n r d).ceil = d.ceil := rfl
@[simp] theorem waitStripe_acc (s : Stripe) (n : Nat) (r : Option (BitVec 5)) (d : Dp) : (waitStripe s n r d).acc = d.acc := rfl
@[simp] theorem waitStripe_lc (s : Stripe) (n : Nat) (r : Option (BitVec 5)) (d : Dp) : (waitStripe s n r d).lc = d.lc := rfl
@[simp] theorem waitStripe_mrg (s : Stripe) (n : Nat) (r : Option (BitVec 5)) (d : Dp) : (waitStripe s n r d).mrg = d.mrg := rfl
@[simp] theorem waitStripe_jrn (s : Stripe) (n : Nat) (r : Option (BitVec 5)) (d : Dp) : (waitStripe s n r d).jrn = d.jrn := rfl
@[simp] theorem waitStripe_mh (s : Stripe) (n : Nat) (r : Option (BitVec 5)) (d : Dp) : (waitStripe s n r d).mh = d.mh := rfl
@[simp] theorem waitStripe_cod (s : Stripe) (n : Nat) (r : Option (BitVec 5)) (d : Dp) : (waitStripe s n r d).cod = d.cod := rfl
@[simp] theorem waitStripe_hbm (s : Stripe) (n : Nat) (r : Option (BitVec 5)) (d : Dp) : (waitStripe s n r d).hbm = d.hbm := rfl
@[simp] theorem waitStripe_chans (s : Stripe) (n : Nat) (r : Option (BitVec 5)) (d : Dp) : (waitStripe s n r d).chans = d.chans := rfl
@[simp] theorem waitStripe_mops (s : Stripe) (n : Nat) (r : Option (BitVec 5)) (d : Dp) : (waitStripe s n r d).mops = d.mops := rfl
@[simp] theorem waitStripe_nextMop (s : Stripe) (n : Nat) (r : Option (BitVec 5)) (d : Dp) : (waitStripe s n r d).nextMop = d.nextMop := rfl
@[simp] theorem waitStripe_que (s : Stripe) (n : Nat) (r : Option (BitVec 5)) (d : Dp) : (waitStripe s n r d).que = d.que := rfl
@[simp] theorem waitStripe_logs (s : Stripe) (n : Nat) (r : Option (BitVec 5)) (d : Dp) : (waitStripe s n r d).logs = d.logs := rfl
@[simp] theorem waitStripe_sec (s : Stripe) (n : Nat) (r : Option (BitVec 5)) (d : Dp) : (waitStripe s n r d).sec = d.sec := rfl
@[simp] theorem waitStripe_pmu (s : Stripe) (n : Nat) (r : Option (BitVec 5)) (d : Dp) : (waitStripe s n r d).pmu = d.pmu := rfl
@[simp] theorem waitStripe_latches (s : Stripe) (n : Nat) (r : Option (BitVec 5)) (d : Dp) : (waitStripe s n r d).latches = d.latches := rfl
@[simp] theorem waitStripe_out (s : Stripe) (n : Nat) (r : Option (BitVec 5)) (d : Dp) : (waitStripe s n r d).out = d.out := rfl

@[simp] theorem corrPersistent_now (d : Dp) : (corrPersistent d).now = d.now := rfl
@[simp] theorem corrPersistent_free (d : Dp) : (corrPersistent d).free = d.free := rfl
@[simp] theorem corrPersistent_glb (d : Dp) : (corrPersistent d).glb = d.glb := rfl
@[simp] theorem corrPersistent_sup (d : Dp) : (corrPersistent d).sup = d.sup := rfl
@[simp] theorem corrPersistent_fab (d : Dp) : (corrPersistent d).fab = d.fab := rfl
@[simp] theorem corrPersistent_thm (d : Dp) : (corrPersistent d).thm = d.thm := rfl
@[simp] theorem corrPersistent_flt (d : Dp) : (corrPersistent d).flt = d.flt := rfl
@[simp] theorem corrPersistent_pst (d : Dp) : (corrPersistent d).pst = d.pst := rfl
@[simp] theorem corrPersistent_hif (d : Dp) : (corrPersistent d).hif = d.hif := rfl
@[simp] theorem corrPersistent_ceil (d : Dp) : (corrPersistent d).ceil = d.ceil := rfl
@[simp] theorem corrPersistent_acc (d : Dp) : (corrPersistent d).acc = d.acc := rfl
@[simp] theorem corrPersistent_lc (d : Dp) : (corrPersistent d).lc = d.lc := rfl
@[simp] theorem corrPersistent_mrg (d : Dp) : (corrPersistent d).mrg = d.mrg := rfl
@[simp] theorem corrPersistent_jrn (d : Dp) : (corrPersistent d).jrn = d.jrn := rfl
@[simp] theorem corrPersistent_map (d : Dp) : (corrPersistent d).map = d.map := rfl
@[simp] theorem corrPersistent_mh (d : Dp) : (corrPersistent d).mh = d.mh := rfl
@[simp] theorem corrPersistent_hbm (d : Dp) : (corrPersistent d).hbm = d.hbm := rfl
@[simp] theorem corrPersistent_chans (d : Dp) : (corrPersistent d).chans = d.chans := rfl
@[simp] theorem corrPersistent_mops (d : Dp) : (corrPersistent d).mops = d.mops := rfl
@[simp] theorem corrPersistent_nextMop (d : Dp) : (corrPersistent d).nextMop = d.nextMop := rfl
@[simp] theorem corrPersistent_que (d : Dp) : (corrPersistent d).que = d.que := rfl
@[simp] theorem corrPersistent_logs (d : Dp) : (corrPersistent d).logs = d.logs := rfl
@[simp] theorem corrPersistent_sec (d : Dp) : (corrPersistent d).sec = d.sec := rfl
@[simp] theorem corrPersistent_pmu (d : Dp) : (corrPersistent d).pmu = d.pmu := rfl
@[simp] theorem corrPersistent_latches (d : Dp) : (corrPersistent d).latches = d.latches := rfl
@[simp] theorem corrPersistent_out (d : Dp) : (corrPersistent d).out = d.out := rfl

@[simp] theorem corrVolatile_now (d : Dp) : (corrVolatile d).now = d.now := rfl
@[simp] theorem corrVolatile_free (d : Dp) : (corrVolatile d).free = d.free := rfl
@[simp] theorem corrVolatile_glb (d : Dp) : (corrVolatile d).glb = d.glb := rfl
@[simp] theorem corrVolatile_sup (d : Dp) : (corrVolatile d).sup = d.sup := rfl
@[simp] theorem corrVolatile_fab (d : Dp) : (corrVolatile d).fab = d.fab := rfl
@[simp] theorem corrVolatile_thm (d : Dp) : (corrVolatile d).thm = d.thm := rfl
@[simp] theorem corrVolatile_flt (d : Dp) : (corrVolatile d).flt = d.flt := rfl
@[simp] theorem corrVolatile_pst (d : Dp) : (corrVolatile d).pst = d.pst := rfl
@[simp] theorem corrVolatile_hif (d : Dp) : (corrVolatile d).hif = d.hif := rfl
@[simp] theorem corrVolatile_ceil (d : Dp) : (corrVolatile d).ceil = d.ceil := rfl
@[simp] theorem corrVolatile_acc (d : Dp) : (corrVolatile d).acc = d.acc := rfl
@[simp] theorem corrVolatile_lc (d : Dp) : (corrVolatile d).lc = d.lc := rfl
@[simp] theorem corrVolatile_mrg (d : Dp) : (corrVolatile d).mrg = d.mrg := rfl
@[simp] theorem corrVolatile_jrn (d : Dp) : (corrVolatile d).jrn = d.jrn := rfl
@[simp] theorem corrVolatile_map (d : Dp) : (corrVolatile d).map = d.map := rfl
@[simp] theorem corrVolatile_mh (d : Dp) : (corrVolatile d).mh = d.mh := rfl
@[simp] theorem corrVolatile_hbm (d : Dp) : (corrVolatile d).hbm = d.hbm := rfl
@[simp] theorem corrVolatile_chans (d : Dp) : (corrVolatile d).chans = d.chans := rfl
@[simp] theorem corrVolatile_mops (d : Dp) : (corrVolatile d).mops = d.mops := rfl
@[simp] theorem corrVolatile_nextMop (d : Dp) : (corrVolatile d).nextMop = d.nextMop := rfl
@[simp] theorem corrVolatile_que (d : Dp) : (corrVolatile d).que = d.que := rfl
@[simp] theorem corrVolatile_logs (d : Dp) : (corrVolatile d).logs = d.logs := rfl
@[simp] theorem corrVolatile_sec (d : Dp) : (corrVolatile d).sec = d.sec := rfl
@[simp] theorem corrVolatile_pmu (d : Dp) : (corrVolatile d).pmu = d.pmu := rfl
@[simp] theorem corrVolatile_latches (d : Dp) : (corrVolatile d).latches = d.latches := rfl
@[simp] theorem corrVolatile_out (d : Dp) : (corrVolatile d).out = d.out := rfl

@[simp] theorem countOut_now (k : OutClass) (d : Dp) : (countOut k d).now = d.now := rfl
@[simp] theorem countOut_free (k : OutClass) (d : Dp) : (countOut k d).free = d.free := rfl
@[simp] theorem countOut_glb (k : OutClass) (d : Dp) : (countOut k d).glb = d.glb := rfl
@[simp] theorem countOut_sup (k : OutClass) (d : Dp) : (countOut k d).sup = d.sup := rfl
@[simp] theorem countOut_fab (k : OutClass) (d : Dp) : (countOut k d).fab = d.fab := rfl
@[simp] theorem countOut_thm (k : OutClass) (d : Dp) : (countOut k d).thm = d.thm := rfl
@[simp] theorem countOut_flt (k : OutClass) (d : Dp) : (countOut k d).flt = d.flt := rfl
@[simp] theorem countOut_rec_ (k : OutClass) (d : Dp) : (countOut k d).rec_ = d.rec_ := rfl
@[simp] theorem countOut_pst (k : OutClass) (d : Dp) : (countOut k d).pst = d.pst := rfl
@[simp] theorem countOut_hif (k : OutClass) (d : Dp) : (countOut k d).hif = d.hif := rfl
@[simp] theorem countOut_ceil (k : OutClass) (d : Dp) : (countOut k d).ceil = d.ceil := rfl
@[simp] theorem countOut_acc (k : OutClass) (d : Dp) : (countOut k d).acc = d.acc := rfl
@[simp] theorem countOut_lc (k : OutClass) (d : Dp) : (countOut k d).lc = d.lc := rfl
@[simp] theorem countOut_mrg (k : OutClass) (d : Dp) : (countOut k d).mrg = d.mrg := rfl
@[simp] theorem countOut_jrn (k : OutClass) (d : Dp) : (countOut k d).jrn = d.jrn := rfl
@[simp] theorem countOut_map (k : OutClass) (d : Dp) : (countOut k d).map = d.map := rfl
@[simp] theorem countOut_mh (k : OutClass) (d : Dp) : (countOut k d).mh = d.mh := rfl
@[simp] theorem countOut_hbm (k : OutClass) (d : Dp) : (countOut k d).hbm = d.hbm := rfl
@[simp] theorem countOut_chans (k : OutClass) (d : Dp) : (countOut k d).chans = d.chans := rfl
@[simp] theorem countOut_mops (k : OutClass) (d : Dp) : (countOut k d).mops = d.mops := rfl
@[simp] theorem countOut_nextMop (k : OutClass) (d : Dp) : (countOut k d).nextMop = d.nextMop := rfl
@[simp] theorem countOut_que (k : OutClass) (d : Dp) : (countOut k d).que = d.que := rfl
@[simp] theorem countOut_logs (k : OutClass) (d : Dp) : (countOut k d).logs = d.logs := rfl
@[simp] theorem countOut_sec (k : OutClass) (d : Dp) : (countOut k d).sec = d.sec := rfl
@[simp] theorem countOut_pmu (k : OutClass) (d : Dp) : (countOut k d).pmu = d.pmu := rfl
@[simp] theorem countOut_latches (k : OutClass) (d : Dp) : (countOut k d).latches = d.latches := rfl
@[simp] theorem countOut_out (k : OutClass) (d : Dp) : (countOut k d).out = d.out := rfl

@[simp] theorem poisonRemove_now (a : SecAddr) (d : Dp) : (poisonRemove a d).now = d.now := rfl
@[simp] theorem poisonRemove_free (a : SecAddr) (d : Dp) : (poisonRemove a d).free = d.free := rfl
@[simp] theorem poisonRemove_glb (a : SecAddr) (d : Dp) : (poisonRemove a d).glb = d.glb := rfl
@[simp] theorem poisonRemove_sup (a : SecAddr) (d : Dp) : (poisonRemove a d).sup = d.sup := rfl
@[simp] theorem poisonRemove_fab (a : SecAddr) (d : Dp) : (poisonRemove a d).fab = d.fab := rfl
@[simp] theorem poisonRemove_thm (a : SecAddr) (d : Dp) : (poisonRemove a d).thm = d.thm := rfl
@[simp] theorem poisonRemove_flt (a : SecAddr) (d : Dp) : (poisonRemove a d).flt = d.flt := rfl
@[simp] theorem poisonRemove_rec_ (a : SecAddr) (d : Dp) : (poisonRemove a d).rec_ = d.rec_ := rfl
@[simp] theorem poisonRemove_pst (a : SecAddr) (d : Dp) : (poisonRemove a d).pst = d.pst := rfl
@[simp] theorem poisonRemove_hif (a : SecAddr) (d : Dp) : (poisonRemove a d).hif = d.hif := rfl
@[simp] theorem poisonRemove_ceil (a : SecAddr) (d : Dp) : (poisonRemove a d).ceil = d.ceil := rfl
@[simp] theorem poisonRemove_acc (a : SecAddr) (d : Dp) : (poisonRemove a d).acc = d.acc := rfl
@[simp] theorem poisonRemove_lc (a : SecAddr) (d : Dp) : (poisonRemove a d).lc = d.lc := rfl
@[simp] theorem poisonRemove_mrg (a : SecAddr) (d : Dp) : (poisonRemove a d).mrg = d.mrg := rfl
@[simp] theorem poisonRemove_jrn (a : SecAddr) (d : Dp) : (poisonRemove a d).jrn = d.jrn := rfl
@[simp] theorem poisonRemove_map (a : SecAddr) (d : Dp) : (poisonRemove a d).map = d.map := rfl
@[simp] theorem poisonRemove_mh (a : SecAddr) (d : Dp) : (poisonRemove a d).mh = d.mh := rfl
@[simp] theorem poisonRemove_cod (a : SecAddr) (d : Dp) : (poisonRemove a d).cod = d.cod := rfl
@[simp] theorem poisonRemove_hbm (a : SecAddr) (d : Dp) : (poisonRemove a d).hbm = d.hbm := rfl
@[simp] theorem poisonRemove_chans (a : SecAddr) (d : Dp) : (poisonRemove a d).chans = d.chans := rfl
@[simp] theorem poisonRemove_mops (a : SecAddr) (d : Dp) : (poisonRemove a d).mops = d.mops := rfl
@[simp] theorem poisonRemove_nextMop (a : SecAddr) (d : Dp) : (poisonRemove a d).nextMop = d.nextMop := rfl
@[simp] theorem poisonRemove_que (a : SecAddr) (d : Dp) : (poisonRemove a d).que = d.que := rfl
@[simp] theorem poisonRemove_sec (a : SecAddr) (d : Dp) : (poisonRemove a d).sec = d.sec := rfl
@[simp] theorem poisonRemove_pmu (a : SecAddr) (d : Dp) : (poisonRemove a d).pmu = d.pmu := rfl
@[simp] theorem poisonRemove_latches (a : SecAddr) (d : Dp) : (poisonRemove a d).latches = d.latches := rfl
@[simp] theorem poisonRemove_out (a : SecAddr) (d : Dp) : (poisonRemove a d).out = d.out := rfl

@[simp] theorem riseDone_now (n : Nat) (d : Dp) : (riseDone n d).now = d.now := rfl
@[simp] theorem riseDone_free (n : Nat) (d : Dp) : (riseDone n d).free = d.free := rfl
@[simp] theorem riseDone_sup (n : Nat) (d : Dp) : (riseDone n d).sup = d.sup := rfl
@[simp] theorem riseDone_fab (n : Nat) (d : Dp) : (riseDone n d).fab = d.fab := rfl
@[simp] theorem riseDone_thm (n : Nat) (d : Dp) : (riseDone n d).thm = d.thm := rfl
@[simp] theorem riseDone_flt (n : Nat) (d : Dp) : (riseDone n d).flt = d.flt := rfl
@[simp] theorem riseDone_rec_ (n : Nat) (d : Dp) : (riseDone n d).rec_ = d.rec_ := rfl
@[simp] theorem riseDone_pst (n : Nat) (d : Dp) : (riseDone n d).pst = d.pst := rfl
@[simp] theorem riseDone_hif (n : Nat) (d : Dp) : (riseDone n d).hif = d.hif := rfl
@[simp] theorem riseDone_ceil (n : Nat) (d : Dp) : (riseDone n d).ceil = d.ceil := rfl
@[simp] theorem riseDone_acc (n : Nat) (d : Dp) : (riseDone n d).acc = d.acc := rfl
@[simp] theorem riseDone_lc (n : Nat) (d : Dp) : (riseDone n d).lc = d.lc := rfl
@[simp] theorem riseDone_mrg (n : Nat) (d : Dp) : (riseDone n d).mrg = d.mrg := rfl
@[simp] theorem riseDone_jrn (n : Nat) (d : Dp) : (riseDone n d).jrn = d.jrn := rfl
@[simp] theorem riseDone_map (n : Nat) (d : Dp) : (riseDone n d).map = d.map := rfl
@[simp] theorem riseDone_mh (n : Nat) (d : Dp) : (riseDone n d).mh = d.mh := rfl
@[simp] theorem riseDone_cod (n : Nat) (d : Dp) : (riseDone n d).cod = d.cod := rfl
@[simp] theorem riseDone_hbm (n : Nat) (d : Dp) : (riseDone n d).hbm = d.hbm := rfl
@[simp] theorem riseDone_chans (n : Nat) (d : Dp) : (riseDone n d).chans = d.chans := rfl
@[simp] theorem riseDone_mops (n : Nat) (d : Dp) : (riseDone n d).mops = d.mops := rfl
@[simp] theorem riseDone_nextMop (n : Nat) (d : Dp) : (riseDone n d).nextMop = d.nextMop := rfl
@[simp] theorem riseDone_que (n : Nat) (d : Dp) : (riseDone n d).que = d.que := rfl
@[simp] theorem riseDone_logs (n : Nat) (d : Dp) : (riseDone n d).logs = d.logs := rfl
@[simp] theorem riseDone_sec (n : Nat) (d : Dp) : (riseDone n d).sec = d.sec := rfl
@[simp] theorem riseDone_pmu (n : Nat) (d : Dp) : (riseDone n d).pmu = d.pmu := rfl
@[simp] theorem riseDone_latches (n : Nat) (d : Dp) : (riseDone n d).latches = d.latches := rfl
@[simp] theorem riseDone_out (n : Nat) (d : Dp) : (riseDone n d).out = d.out := rfl

@[simp] theorem modSensor_now (n : Nat) (f : Sensor → Sensor) (d : Dp) : (modSensor n f d).now = d.now := rfl
@[simp] theorem modSensor_free (n : Nat) (f : Sensor → Sensor) (d : Dp) : (modSensor n f d).free = d.free := rfl
@[simp] theorem modSensor_glb (n : Nat) (f : Sensor → Sensor) (d : Dp) : (modSensor n f d).glb = d.glb := rfl
@[simp] theorem modSensor_sup (n : Nat) (f : Sensor → Sensor) (d : Dp) : (modSensor n f d).sup = d.sup := rfl
@[simp] theorem modSensor_fab (n : Nat) (f : Sensor → Sensor) (d : Dp) : (modSensor n f d).fab = d.fab := rfl
@[simp] theorem modSensor_flt (n : Nat) (f : Sensor → Sensor) (d : Dp) : (modSensor n f d).flt = d.flt := rfl
@[simp] theorem modSensor_rec_ (n : Nat) (f : Sensor → Sensor) (d : Dp) : (modSensor n f d).rec_ = d.rec_ := rfl
@[simp] theorem modSensor_pst (n : Nat) (f : Sensor → Sensor) (d : Dp) : (modSensor n f d).pst = d.pst := rfl
@[simp] theorem modSensor_hif (n : Nat) (f : Sensor → Sensor) (d : Dp) : (modSensor n f d).hif = d.hif := rfl
@[simp] theorem modSensor_ceil (n : Nat) (f : Sensor → Sensor) (d : Dp) : (modSensor n f d).ceil = d.ceil := rfl
@[simp] theorem modSensor_acc (n : Nat) (f : Sensor → Sensor) (d : Dp) : (modSensor n f d).acc = d.acc := rfl
@[simp] theorem modSensor_lc (n : Nat) (f : Sensor → Sensor) (d : Dp) : (modSensor n f d).lc = d.lc := rfl
@[simp] theorem modSensor_mrg (n : Nat) (f : Sensor → Sensor) (d : Dp) : (modSensor n f d).mrg = d.mrg := rfl
@[simp] theorem modSensor_jrn (n : Nat) (f : Sensor → Sensor) (d : Dp) : (modSensor n f d).jrn = d.jrn := rfl
@[simp] theorem modSensor_map (n : Nat) (f : Sensor → Sensor) (d : Dp) : (modSensor n f d).map = d.map := rfl
@[simp] theorem modSensor_mh (n : Nat) (f : Sensor → Sensor) (d : Dp) : (modSensor n f d).mh = d.mh := rfl
@[simp] theorem modSensor_cod (n : Nat) (f : Sensor → Sensor) (d : Dp) : (modSensor n f d).cod = d.cod := rfl
@[simp] theorem modSensor_hbm (n : Nat) (f : Sensor → Sensor) (d : Dp) : (modSensor n f d).hbm = d.hbm := rfl
@[simp] theorem modSensor_chans (n : Nat) (f : Sensor → Sensor) (d : Dp) : (modSensor n f d).chans = d.chans := rfl
@[simp] theorem modSensor_mops (n : Nat) (f : Sensor → Sensor) (d : Dp) : (modSensor n f d).mops = d.mops := rfl
@[simp] theorem modSensor_nextMop (n : Nat) (f : Sensor → Sensor) (d : Dp) : (modSensor n f d).nextMop = d.nextMop := rfl
@[simp] theorem modSensor_que (n : Nat) (f : Sensor → Sensor) (d : Dp) : (modSensor n f d).que = d.que := rfl
@[simp] theorem modSensor_logs (n : Nat) (f : Sensor → Sensor) (d : Dp) : (modSensor n f d).logs = d.logs := rfl
@[simp] theorem modSensor_sec (n : Nat) (f : Sensor → Sensor) (d : Dp) : (modSensor n f d).sec = d.sec := rfl
@[simp] theorem modSensor_pmu (n : Nat) (f : Sensor → Sensor) (d : Dp) : (modSensor n f d).pmu = d.pmu := rfl
@[simp] theorem modSensor_latches (n : Nat) (f : Sensor → Sensor) (d : Dp) : (modSensor n f d).latches = d.latches := rfl
@[simp] theorem modSensor_out (n : Nat) (f : Sensor → Sensor) (d : Dp) : (modSensor n f d).out = d.out := rfl

@[simp] theorem moveVcore_now (target : Nat) (cause : BitVec 4) (d : Dp) : (moveVcore target cause d).now = d.now := rfl
@[simp] theorem moveVcore_free (target : Nat) (cause : BitVec 4) (d : Dp) : (moveVcore target cause d).free = d.free := rfl
@[simp] theorem moveVcore_glb (target : Nat) (cause : BitVec 4) (d : Dp) : (moveVcore target cause d).glb = d.glb := rfl
@[simp] theorem moveVcore_sup (target : Nat) (cause : BitVec 4) (d : Dp) : (moveVcore target cause d).sup = d.sup := rfl
@[simp] theorem moveVcore_thm (target : Nat) (cause : BitVec 4) (d : Dp) : (moveVcore target cause d).thm = d.thm := rfl
@[simp] theorem moveVcore_flt (target : Nat) (cause : BitVec 4) (d : Dp) : (moveVcore target cause d).flt = d.flt := rfl
@[simp] theorem moveVcore_rec_ (target : Nat) (cause : BitVec 4) (d : Dp) : (moveVcore target cause d).rec_ = d.rec_ := rfl
@[simp] theorem moveVcore_pst (target : Nat) (cause : BitVec 4) (d : Dp) : (moveVcore target cause d).pst = d.pst := rfl
@[simp] theorem moveVcore_hif (target : Nat) (cause : BitVec 4) (d : Dp) : (moveVcore target cause d).hif = d.hif := rfl
@[simp] theorem moveVcore_ceil (target : Nat) (cause : BitVec 4) (d : Dp) : (moveVcore target cause d).ceil = d.ceil := rfl
@[simp] theorem moveVcore_acc (target : Nat) (cause : BitVec 4) (d : Dp) : (moveVcore target cause d).acc = d.acc := rfl
@[simp] theorem moveVcore_lc (target : Nat) (cause : BitVec 4) (d : Dp) : (moveVcore target cause d).lc = d.lc := rfl
@[simp] theorem moveVcore_mrg (target : Nat) (cause : BitVec 4) (d : Dp) : (moveVcore target cause d).mrg = d.mrg := rfl
@[simp] theorem moveVcore_jrn (target : Nat) (cause : BitVec 4) (d : Dp) : (moveVcore target cause d).jrn = d.jrn := rfl
@[simp] theorem moveVcore_map (target : Nat) (cause : BitVec 4) (d : Dp) : (moveVcore target cause d).map = d.map := rfl
@[simp] theorem moveVcore_mh (target : Nat) (cause : BitVec 4) (d : Dp) : (moveVcore target cause d).mh = d.mh := rfl
@[simp] theorem moveVcore_cod (target : Nat) (cause : BitVec 4) (d : Dp) : (moveVcore target cause d).cod = d.cod := rfl
@[simp] theorem moveVcore_hbm (target : Nat) (cause : BitVec 4) (d : Dp) : (moveVcore target cause d).hbm = d.hbm := rfl
@[simp] theorem moveVcore_chans (target : Nat) (cause : BitVec 4) (d : Dp) : (moveVcore target cause d).chans = d.chans := rfl
@[simp] theorem moveVcore_mops (target : Nat) (cause : BitVec 4) (d : Dp) : (moveVcore target cause d).mops = d.mops := rfl
@[simp] theorem moveVcore_nextMop (target : Nat) (cause : BitVec 4) (d : Dp) : (moveVcore target cause d).nextMop = d.nextMop := rfl
@[simp] theorem moveVcore_que (target : Nat) (cause : BitVec 4) (d : Dp) : (moveVcore target cause d).que = d.que := rfl
@[simp] theorem moveVcore_logs (target : Nat) (cause : BitVec 4) (d : Dp) : (moveVcore target cause d).logs = d.logs := rfl
@[simp] theorem moveVcore_sec (target : Nat) (cause : BitVec 4) (d : Dp) : (moveVcore target cause d).sec = d.sec := rfl
@[simp] theorem moveVcore_pmu (target : Nat) (cause : BitVec 4) (d : Dp) : (moveVcore target cause d).pmu = d.pmu := rfl
@[simp] theorem moveVcore_latches (target : Nat) (cause : BitVec 4) (d : Dp) : (moveVcore target cause d).latches = d.latches := rfl
@[simp] theorem moveVcore_out (target : Nat) (cause : BitVec 4) (d : Dp) : (moveVcore target cause d).out = d.out := rfl

@[simp] theorem workPage_now (page : Nat) (v : BitVec 2048) (d : Dp) : (workPage page v d).now = d.now := rfl
@[simp] theorem workPage_free (page : Nat) (v : BitVec 2048) (d : Dp) : (workPage page v d).free = d.free := rfl
@[simp] theorem workPage_glb (page : Nat) (v : BitVec 2048) (d : Dp) : (workPage page v d).glb = d.glb := rfl
@[simp] theorem workPage_sup (page : Nat) (v : BitVec 2048) (d : Dp) : (workPage page v d).sup = d.sup := rfl
@[simp] theorem workPage_fab (page : Nat) (v : BitVec 2048) (d : Dp) : (workPage page v d).fab = d.fab := rfl
@[simp] theorem workPage_thm (page : Nat) (v : BitVec 2048) (d : Dp) : (workPage page v d).thm = d.thm := rfl
@[simp] theorem workPage_flt (page : Nat) (v : BitVec 2048) (d : Dp) : (workPage page v d).flt = d.flt := rfl
@[simp] theorem workPage_rec_ (page : Nat) (v : BitVec 2048) (d : Dp) : (workPage page v d).rec_ = d.rec_ := rfl
@[simp] theorem workPage_hif (page : Nat) (v : BitVec 2048) (d : Dp) : (workPage page v d).hif = d.hif := rfl
@[simp] theorem workPage_ceil (page : Nat) (v : BitVec 2048) (d : Dp) : (workPage page v d).ceil = d.ceil := rfl
@[simp] theorem workPage_acc (page : Nat) (v : BitVec 2048) (d : Dp) : (workPage page v d).acc = d.acc := rfl
@[simp] theorem workPage_lc (page : Nat) (v : BitVec 2048) (d : Dp) : (workPage page v d).lc = d.lc := rfl
@[simp] theorem workPage_mrg (page : Nat) (v : BitVec 2048) (d : Dp) : (workPage page v d).mrg = d.mrg := rfl
@[simp] theorem workPage_jrn (page : Nat) (v : BitVec 2048) (d : Dp) : (workPage page v d).jrn = d.jrn := rfl
@[simp] theorem workPage_map (page : Nat) (v : BitVec 2048) (d : Dp) : (workPage page v d).map = d.map := rfl
@[simp] theorem workPage_mh (page : Nat) (v : BitVec 2048) (d : Dp) : (workPage page v d).mh = d.mh := rfl
@[simp] theorem workPage_hbm (page : Nat) (v : BitVec 2048) (d : Dp) : (workPage page v d).hbm = d.hbm := rfl
@[simp] theorem workPage_chans (page : Nat) (v : BitVec 2048) (d : Dp) : (workPage page v d).chans = d.chans := rfl
@[simp] theorem workPage_mops (page : Nat) (v : BitVec 2048) (d : Dp) : (workPage page v d).mops = d.mops := rfl
@[simp] theorem workPage_nextMop (page : Nat) (v : BitVec 2048) (d : Dp) : (workPage page v d).nextMop = d.nextMop := rfl
@[simp] theorem workPage_que (page : Nat) (v : BitVec 2048) (d : Dp) : (workPage page v d).que = d.que := rfl
@[simp] theorem workPage_logs (page : Nat) (v : BitVec 2048) (d : Dp) : (workPage page v d).logs = d.logs := rfl
@[simp] theorem workPage_sec (page : Nat) (v : BitVec 2048) (d : Dp) : (workPage page v d).sec = d.sec := rfl
@[simp] theorem workPage_pmu (page : Nat) (v : BitVec 2048) (d : Dp) : (workPage page v d).pmu = d.pmu := rfl
@[simp] theorem workPage_latches (page : Nat) (v : BitVec 2048) (d : Dp) : (workPage page v d).latches = d.latches := rfl
@[simp] theorem workPage_out (page : Nat) (v : BitVec 2048) (d : Dp) : (workPage page v d).out = d.out := rfl

@[simp] theorem setCursor_now (set chan row : Nat) (d : Dp) : (setCursor set chan row d).now = d.now := rfl
@[simp] theorem setCursor_free (set chan row : Nat) (d : Dp) : (setCursor set chan row d).free = d.free := rfl
@[simp] theorem setCursor_glb (set chan row : Nat) (d : Dp) : (setCursor set chan row d).glb = d.glb := rfl
@[simp] theorem setCursor_sup (set chan row : Nat) (d : Dp) : (setCursor set chan row d).sup = d.sup := rfl
@[simp] theorem setCursor_fab (set chan row : Nat) (d : Dp) : (setCursor set chan row d).fab = d.fab := rfl
@[simp] theorem setCursor_thm (set chan row : Nat) (d : Dp) : (setCursor set chan row d).thm = d.thm := rfl
@[simp] theorem setCursor_flt (set chan row : Nat) (d : Dp) : (setCursor set chan row d).flt = d.flt := rfl
@[simp] theorem setCursor_rec_ (set chan row : Nat) (d : Dp) : (setCursor set chan row d).rec_ = d.rec_ := rfl
@[simp] theorem setCursor_pst (set chan row : Nat) (d : Dp) : (setCursor set chan row d).pst = d.pst := rfl
@[simp] theorem setCursor_hif (set chan row : Nat) (d : Dp) : (setCursor set chan row d).hif = d.hif := rfl
@[simp] theorem setCursor_ceil (set chan row : Nat) (d : Dp) : (setCursor set chan row d).ceil = d.ceil := rfl
@[simp] theorem setCursor_acc (set chan row : Nat) (d : Dp) : (setCursor set chan row d).acc = d.acc := rfl
@[simp] theorem setCursor_lc (set chan row : Nat) (d : Dp) : (setCursor set chan row d).lc = d.lc := rfl
@[simp] theorem setCursor_mrg (set chan row : Nat) (d : Dp) : (setCursor set chan row d).mrg = d.mrg := rfl
@[simp] theorem setCursor_jrn (set chan row : Nat) (d : Dp) : (setCursor set chan row d).jrn = d.jrn := rfl
@[simp] theorem setCursor_map (set chan row : Nat) (d : Dp) : (setCursor set chan row d).map = d.map := rfl
@[simp] theorem setCursor_cod (set chan row : Nat) (d : Dp) : (setCursor set chan row d).cod = d.cod := rfl
@[simp] theorem setCursor_hbm (set chan row : Nat) (d : Dp) : (setCursor set chan row d).hbm = d.hbm := rfl
@[simp] theorem setCursor_chans (set chan row : Nat) (d : Dp) : (setCursor set chan row d).chans = d.chans := rfl
@[simp] theorem setCursor_mops (set chan row : Nat) (d : Dp) : (setCursor set chan row d).mops = d.mops := rfl
@[simp] theorem setCursor_nextMop (set chan row : Nat) (d : Dp) : (setCursor set chan row d).nextMop = d.nextMop := rfl
@[simp] theorem setCursor_que (set chan row : Nat) (d : Dp) : (setCursor set chan row d).que = d.que := rfl
@[simp] theorem setCursor_logs (set chan row : Nat) (d : Dp) : (setCursor set chan row d).logs = d.logs := rfl
@[simp] theorem setCursor_sec (set chan row : Nat) (d : Dp) : (setCursor set chan row d).sec = d.sec := rfl
@[simp] theorem setCursor_pmu (set chan row : Nat) (d : Dp) : (setCursor set chan row d).pmu = d.pmu := rfl
@[simp] theorem setCursor_latches (set chan row : Nat) (d : Dp) : (setCursor set chan row d).latches = d.latches := rfl
@[simp] theorem setCursor_out (set chan row : Nat) (d : Dp) : (setCursor set chan row d).out = d.out := rfl

@[simp] theorem clearCeil_now (d : Dp) : (clearCeil d).now = d.now := rfl
@[simp] theorem clearCeil_free (d : Dp) : (clearCeil d).free = d.free := rfl
@[simp] theorem clearCeil_glb (d : Dp) : (clearCeil d).glb = d.glb := rfl
@[simp] theorem clearCeil_sup (d : Dp) : (clearCeil d).sup = d.sup := rfl
@[simp] theorem clearCeil_fab (d : Dp) : (clearCeil d).fab = d.fab := rfl
@[simp] theorem clearCeil_thm (d : Dp) : (clearCeil d).thm = d.thm := rfl
@[simp] theorem clearCeil_flt (d : Dp) : (clearCeil d).flt = d.flt := rfl
@[simp] theorem clearCeil_rec_ (d : Dp) : (clearCeil d).rec_ = d.rec_ := rfl
@[simp] theorem clearCeil_pst (d : Dp) : (clearCeil d).pst = d.pst := rfl
@[simp] theorem clearCeil_hif (d : Dp) : (clearCeil d).hif = d.hif := rfl
@[simp] theorem clearCeil_acc (d : Dp) : (clearCeil d).acc = d.acc := rfl
@[simp] theorem clearCeil_lc (d : Dp) : (clearCeil d).lc = d.lc := rfl
@[simp] theorem clearCeil_mrg (d : Dp) : (clearCeil d).mrg = d.mrg := rfl
@[simp] theorem clearCeil_jrn (d : Dp) : (clearCeil d).jrn = d.jrn := rfl
@[simp] theorem clearCeil_map (d : Dp) : (clearCeil d).map = d.map := rfl
@[simp] theorem clearCeil_mh (d : Dp) : (clearCeil d).mh = d.mh := rfl
@[simp] theorem clearCeil_cod (d : Dp) : (clearCeil d).cod = d.cod := rfl
@[simp] theorem clearCeil_hbm (d : Dp) : (clearCeil d).hbm = d.hbm := rfl
@[simp] theorem clearCeil_chans (d : Dp) : (clearCeil d).chans = d.chans := rfl
@[simp] theorem clearCeil_mops (d : Dp) : (clearCeil d).mops = d.mops := rfl
@[simp] theorem clearCeil_nextMop (d : Dp) : (clearCeil d).nextMop = d.nextMop := rfl
@[simp] theorem clearCeil_que (d : Dp) : (clearCeil d).que = d.que := rfl
@[simp] theorem clearCeil_logs (d : Dp) : (clearCeil d).logs = d.logs := rfl
@[simp] theorem clearCeil_sec (d : Dp) : (clearCeil d).sec = d.sec := rfl
@[simp] theorem clearCeil_pmu (d : Dp) : (clearCeil d).pmu = d.pmu := rfl
@[simp] theorem clearCeil_latches (d : Dp) : (clearCeil d).latches = d.latches := rfl
@[simp] theorem clearCeil_out (d : Dp) : (clearCeil d).out = d.out := rfl

@[simp] theorem loadCounter_now (u n : Nat) (v : BitVec 48) (d : Dp) : (loadCounter u n v d).now = d.now := rfl
@[simp] theorem loadCounter_free (u n : Nat) (v : BitVec 48) (d : Dp) : (loadCounter u n v d).free = d.free := rfl
@[simp] theorem loadCounter_glb (u n : Nat) (v : BitVec 48) (d : Dp) : (loadCounter u n v d).glb = d.glb := rfl
@[simp] theorem loadCounter_sup (u n : Nat) (v : BitVec 48) (d : Dp) : (loadCounter u n v d).sup = d.sup := rfl
@[simp] theorem loadCounter_fab (u n : Nat) (v : BitVec 48) (d : Dp) : (loadCounter u n v d).fab = d.fab := rfl
@[simp] theorem loadCounter_thm (u n : Nat) (v : BitVec 48) (d : Dp) : (loadCounter u n v d).thm = d.thm := rfl
@[simp] theorem loadCounter_flt (u n : Nat) (v : BitVec 48) (d : Dp) : (loadCounter u n v d).flt = d.flt := rfl
@[simp] theorem loadCounter_rec_ (u n : Nat) (v : BitVec 48) (d : Dp) : (loadCounter u n v d).rec_ = d.rec_ := rfl
@[simp] theorem loadCounter_pst (u n : Nat) (v : BitVec 48) (d : Dp) : (loadCounter u n v d).pst = d.pst := rfl
@[simp] theorem loadCounter_hif (u n : Nat) (v : BitVec 48) (d : Dp) : (loadCounter u n v d).hif = d.hif := rfl
@[simp] theorem loadCounter_ceil (u n : Nat) (v : BitVec 48) (d : Dp) : (loadCounter u n v d).ceil = d.ceil := rfl
@[simp] theorem loadCounter_acc (u n : Nat) (v : BitVec 48) (d : Dp) : (loadCounter u n v d).acc = d.acc := rfl
@[simp] theorem loadCounter_lc (u n : Nat) (v : BitVec 48) (d : Dp) : (loadCounter u n v d).lc = d.lc := rfl
@[simp] theorem loadCounter_mrg (u n : Nat) (v : BitVec 48) (d : Dp) : (loadCounter u n v d).mrg = d.mrg := rfl
@[simp] theorem loadCounter_jrn (u n : Nat) (v : BitVec 48) (d : Dp) : (loadCounter u n v d).jrn = d.jrn := rfl
@[simp] theorem loadCounter_map (u n : Nat) (v : BitVec 48) (d : Dp) : (loadCounter u n v d).map = d.map := rfl
@[simp] theorem loadCounter_mh (u n : Nat) (v : BitVec 48) (d : Dp) : (loadCounter u n v d).mh = d.mh := rfl
@[simp] theorem loadCounter_cod (u n : Nat) (v : BitVec 48) (d : Dp) : (loadCounter u n v d).cod = d.cod := rfl
@[simp] theorem loadCounter_hbm (u n : Nat) (v : BitVec 48) (d : Dp) : (loadCounter u n v d).hbm = d.hbm := rfl
@[simp] theorem loadCounter_chans (u n : Nat) (v : BitVec 48) (d : Dp) : (loadCounter u n v d).chans = d.chans := rfl
@[simp] theorem loadCounter_mops (u n : Nat) (v : BitVec 48) (d : Dp) : (loadCounter u n v d).mops = d.mops := rfl
@[simp] theorem loadCounter_nextMop (u n : Nat) (v : BitVec 48) (d : Dp) : (loadCounter u n v d).nextMop = d.nextMop := rfl
@[simp] theorem loadCounter_que (u n : Nat) (v : BitVec 48) (d : Dp) : (loadCounter u n v d).que = d.que := rfl
@[simp] theorem loadCounter_logs (u n : Nat) (v : BitVec 48) (d : Dp) : (loadCounter u n v d).logs = d.logs := rfl
@[simp] theorem loadCounter_sec (u n : Nat) (v : BitVec 48) (d : Dp) : (loadCounter u n v d).sec = d.sec := rfl
@[simp] theorem loadCounter_latches (u n : Nat) (v : BitVec 48) (d : Dp) : (loadCounter u n v d).latches = d.latches := rfl
@[simp] theorem loadCounter_out (u n : Nat) (v : BitVec 48) (d : Dp) : (loadCounter u n v d).out = d.out := rfl

@[simp] theorem takeSnapshot_now (d : Dp) : (takeSnapshot d).now = d.now := rfl
@[simp] theorem takeSnapshot_free (d : Dp) : (takeSnapshot d).free = d.free := rfl
@[simp] theorem takeSnapshot_glb (d : Dp) : (takeSnapshot d).glb = d.glb := rfl
@[simp] theorem takeSnapshot_sup (d : Dp) : (takeSnapshot d).sup = d.sup := rfl
@[simp] theorem takeSnapshot_fab (d : Dp) : (takeSnapshot d).fab = d.fab := rfl
@[simp] theorem takeSnapshot_thm (d : Dp) : (takeSnapshot d).thm = d.thm := rfl
@[simp] theorem takeSnapshot_flt (d : Dp) : (takeSnapshot d).flt = d.flt := rfl
@[simp] theorem takeSnapshot_rec_ (d : Dp) : (takeSnapshot d).rec_ = d.rec_ := rfl
@[simp] theorem takeSnapshot_pst (d : Dp) : (takeSnapshot d).pst = d.pst := rfl
@[simp] theorem takeSnapshot_hif (d : Dp) : (takeSnapshot d).hif = d.hif := rfl
@[simp] theorem takeSnapshot_ceil (d : Dp) : (takeSnapshot d).ceil = d.ceil := rfl
@[simp] theorem takeSnapshot_acc (d : Dp) : (takeSnapshot d).acc = d.acc := rfl
@[simp] theorem takeSnapshot_lc (d : Dp) : (takeSnapshot d).lc = d.lc := rfl
@[simp] theorem takeSnapshot_mrg (d : Dp) : (takeSnapshot d).mrg = d.mrg := rfl
@[simp] theorem takeSnapshot_jrn (d : Dp) : (takeSnapshot d).jrn = d.jrn := rfl
@[simp] theorem takeSnapshot_map (d : Dp) : (takeSnapshot d).map = d.map := rfl
@[simp] theorem takeSnapshot_mh (d : Dp) : (takeSnapshot d).mh = d.mh := rfl
@[simp] theorem takeSnapshot_cod (d : Dp) : (takeSnapshot d).cod = d.cod := rfl
@[simp] theorem takeSnapshot_hbm (d : Dp) : (takeSnapshot d).hbm = d.hbm := rfl
@[simp] theorem takeSnapshot_chans (d : Dp) : (takeSnapshot d).chans = d.chans := rfl
@[simp] theorem takeSnapshot_mops (d : Dp) : (takeSnapshot d).mops = d.mops := rfl
@[simp] theorem takeSnapshot_nextMop (d : Dp) : (takeSnapshot d).nextMop = d.nextMop := rfl
@[simp] theorem takeSnapshot_que (d : Dp) : (takeSnapshot d).que = d.que := rfl
@[simp] theorem takeSnapshot_logs (d : Dp) : (takeSnapshot d).logs = d.logs := rfl
@[simp] theorem takeSnapshot_sec (d : Dp) : (takeSnapshot d).sec = d.sec := rfl
@[simp] theorem takeSnapshot_latches (d : Dp) : (takeSnapshot d).latches = d.latches := rfl
@[simp] theorem takeSnapshot_out (d : Dp) : (takeSnapshot d).out = d.out := rfl

@[simp] theorem clearPmu_now (d : Dp) : (clearPmu d).now = d.now := rfl
@[simp] theorem clearPmu_free (d : Dp) : (clearPmu d).free = d.free := rfl
@[simp] theorem clearPmu_glb (d : Dp) : (clearPmu d).glb = d.glb := rfl
@[simp] theorem clearPmu_sup (d : Dp) : (clearPmu d).sup = d.sup := rfl
@[simp] theorem clearPmu_fab (d : Dp) : (clearPmu d).fab = d.fab := rfl
@[simp] theorem clearPmu_thm (d : Dp) : (clearPmu d).thm = d.thm := rfl
@[simp] theorem clearPmu_flt (d : Dp) : (clearPmu d).flt = d.flt := rfl
@[simp] theorem clearPmu_rec_ (d : Dp) : (clearPmu d).rec_ = d.rec_ := rfl
@[simp] theorem clearPmu_pst (d : Dp) : (clearPmu d).pst = d.pst := rfl
@[simp] theorem clearPmu_hif (d : Dp) : (clearPmu d).hif = d.hif := rfl
@[simp] theorem clearPmu_ceil (d : Dp) : (clearPmu d).ceil = d.ceil := rfl
@[simp] theorem clearPmu_acc (d : Dp) : (clearPmu d).acc = d.acc := rfl
@[simp] theorem clearPmu_lc (d : Dp) : (clearPmu d).lc = d.lc := rfl
@[simp] theorem clearPmu_mrg (d : Dp) : (clearPmu d).mrg = d.mrg := rfl
@[simp] theorem clearPmu_jrn (d : Dp) : (clearPmu d).jrn = d.jrn := rfl
@[simp] theorem clearPmu_map (d : Dp) : (clearPmu d).map = d.map := rfl
@[simp] theorem clearPmu_mh (d : Dp) : (clearPmu d).mh = d.mh := rfl
@[simp] theorem clearPmu_cod (d : Dp) : (clearPmu d).cod = d.cod := rfl
@[simp] theorem clearPmu_hbm (d : Dp) : (clearPmu d).hbm = d.hbm := rfl
@[simp] theorem clearPmu_chans (d : Dp) : (clearPmu d).chans = d.chans := rfl
@[simp] theorem clearPmu_mops (d : Dp) : (clearPmu d).mops = d.mops := rfl
@[simp] theorem clearPmu_nextMop (d : Dp) : (clearPmu d).nextMop = d.nextMop := rfl
@[simp] theorem clearPmu_que (d : Dp) : (clearPmu d).que = d.que := rfl
@[simp] theorem clearPmu_logs (d : Dp) : (clearPmu d).logs = d.logs := rfl
@[simp] theorem clearPmu_sec (d : Dp) : (clearPmu d).sec = d.sec := rfl
@[simp] theorem clearPmu_latches (d : Dp) : (clearPmu d).latches = d.latches := rfl
@[simp] theorem clearPmu_out (d : Dp) : (clearPmu d).out = d.out := rfl

@[simp] theorem rearmFe_now (src : Nat) (d : Dp) : (rearmFe src d).now = d.now := rfl
@[simp] theorem rearmFe_free (src : Nat) (d : Dp) : (rearmFe src d).free = d.free := rfl
@[simp] theorem rearmFe_glb (src : Nat) (d : Dp) : (rearmFe src d).glb = d.glb := rfl
@[simp] theorem rearmFe_sup (src : Nat) (d : Dp) : (rearmFe src d).sup = d.sup := rfl
@[simp] theorem rearmFe_fab (src : Nat) (d : Dp) : (rearmFe src d).fab = d.fab := rfl
@[simp] theorem rearmFe_thm (src : Nat) (d : Dp) : (rearmFe src d).thm = d.thm := rfl
@[simp] theorem rearmFe_rec_ (src : Nat) (d : Dp) : (rearmFe src d).rec_ = d.rec_ := rfl
@[simp] theorem rearmFe_pst (src : Nat) (d : Dp) : (rearmFe src d).pst = d.pst := rfl
@[simp] theorem rearmFe_hif (src : Nat) (d : Dp) : (rearmFe src d).hif = d.hif := rfl
@[simp] theorem rearmFe_ceil (src : Nat) (d : Dp) : (rearmFe src d).ceil = d.ceil := rfl
@[simp] theorem rearmFe_acc (src : Nat) (d : Dp) : (rearmFe src d).acc = d.acc := rfl
@[simp] theorem rearmFe_lc (src : Nat) (d : Dp) : (rearmFe src d).lc = d.lc := rfl
@[simp] theorem rearmFe_mrg (src : Nat) (d : Dp) : (rearmFe src d).mrg = d.mrg := rfl
@[simp] theorem rearmFe_jrn (src : Nat) (d : Dp) : (rearmFe src d).jrn = d.jrn := rfl
@[simp] theorem rearmFe_map (src : Nat) (d : Dp) : (rearmFe src d).map = d.map := rfl
@[simp] theorem rearmFe_mh (src : Nat) (d : Dp) : (rearmFe src d).mh = d.mh := rfl
@[simp] theorem rearmFe_cod (src : Nat) (d : Dp) : (rearmFe src d).cod = d.cod := rfl
@[simp] theorem rearmFe_hbm (src : Nat) (d : Dp) : (rearmFe src d).hbm = d.hbm := rfl
@[simp] theorem rearmFe_chans (src : Nat) (d : Dp) : (rearmFe src d).chans = d.chans := rfl
@[simp] theorem rearmFe_mops (src : Nat) (d : Dp) : (rearmFe src d).mops = d.mops := rfl
@[simp] theorem rearmFe_nextMop (src : Nat) (d : Dp) : (rearmFe src d).nextMop = d.nextMop := rfl
@[simp] theorem rearmFe_que (src : Nat) (d : Dp) : (rearmFe src d).que = d.que := rfl
@[simp] theorem rearmFe_logs (src : Nat) (d : Dp) : (rearmFe src d).logs = d.logs := rfl
@[simp] theorem rearmFe_sec (src : Nat) (d : Dp) : (rearmFe src d).sec = d.sec := rfl
@[simp] theorem rearmFe_pmu (src : Nat) (d : Dp) : (rearmFe src d).pmu = d.pmu := rfl
@[simp] theorem rearmFe_latches (src : Nat) (d : Dp) : (rearmFe src d).latches = d.latches := rfl
@[simp] theorem rearmFe_out (src : Nat) (d : Dp) : (rearmFe src d).out = d.out := rfl

@[simp] theorem holdEnds_now (set : Nat) (d : Dp) : (holdEnds set d).now = d.now := rfl
@[simp] theorem holdEnds_free (set : Nat) (d : Dp) : (holdEnds set d).free = d.free := rfl
@[simp] theorem holdEnds_glb (set : Nat) (d : Dp) : (holdEnds set d).glb = d.glb := rfl
@[simp] theorem holdEnds_sup (set : Nat) (d : Dp) : (holdEnds set d).sup = d.sup := rfl
@[simp] theorem holdEnds_fab (set : Nat) (d : Dp) : (holdEnds set d).fab = d.fab := rfl
@[simp] theorem holdEnds_thm (set : Nat) (d : Dp) : (holdEnds set d).thm = d.thm := rfl
@[simp] theorem holdEnds_flt (set : Nat) (d : Dp) : (holdEnds set d).flt = d.flt := rfl
@[simp] theorem holdEnds_rec_ (set : Nat) (d : Dp) : (holdEnds set d).rec_ = d.rec_ := rfl
@[simp] theorem holdEnds_pst (set : Nat) (d : Dp) : (holdEnds set d).pst = d.pst := rfl
@[simp] theorem holdEnds_hif (set : Nat) (d : Dp) : (holdEnds set d).hif = d.hif := rfl
@[simp] theorem holdEnds_ceil (set : Nat) (d : Dp) : (holdEnds set d).ceil = d.ceil := rfl
@[simp] theorem holdEnds_acc (set : Nat) (d : Dp) : (holdEnds set d).acc = d.acc := rfl
@[simp] theorem holdEnds_lc (set : Nat) (d : Dp) : (holdEnds set d).lc = d.lc := rfl
@[simp] theorem holdEnds_jrn (set : Nat) (d : Dp) : (holdEnds set d).jrn = d.jrn := rfl
@[simp] theorem holdEnds_map (set : Nat) (d : Dp) : (holdEnds set d).map = d.map := rfl
@[simp] theorem holdEnds_mh (set : Nat) (d : Dp) : (holdEnds set d).mh = d.mh := rfl
@[simp] theorem holdEnds_cod (set : Nat) (d : Dp) : (holdEnds set d).cod = d.cod := rfl
@[simp] theorem holdEnds_hbm (set : Nat) (d : Dp) : (holdEnds set d).hbm = d.hbm := rfl
@[simp] theorem holdEnds_chans (set : Nat) (d : Dp) : (holdEnds set d).chans = d.chans := rfl
@[simp] theorem holdEnds_mops (set : Nat) (d : Dp) : (holdEnds set d).mops = d.mops := rfl
@[simp] theorem holdEnds_nextMop (set : Nat) (d : Dp) : (holdEnds set d).nextMop = d.nextMop := rfl
@[simp] theorem holdEnds_que (set : Nat) (d : Dp) : (holdEnds set d).que = d.que := rfl
@[simp] theorem holdEnds_logs (set : Nat) (d : Dp) : (holdEnds set d).logs = d.logs := rfl
@[simp] theorem holdEnds_sec (set : Nat) (d : Dp) : (holdEnds set d).sec = d.sec := rfl
@[simp] theorem holdEnds_pmu (set : Nat) (d : Dp) : (holdEnds set d).pmu = d.pmu := rfl
@[simp] theorem holdEnds_latches (set : Nat) (d : Dp) : (holdEnds set d).latches = d.latches := rfl
@[simp] theorem holdEnds_out (set : Nat) (d : Dp) : (holdEnds set d).out = d.out := rfl

@[simp] theorem streamEnds_now (t : Nat) (d : Dp) : (streamEnds t d).now = d.now := rfl
@[simp] theorem streamEnds_free (t : Nat) (d : Dp) : (streamEnds t d).free = d.free := rfl
@[simp] theorem streamEnds_glb (t : Nat) (d : Dp) : (streamEnds t d).glb = d.glb := rfl
@[simp] theorem streamEnds_sup (t : Nat) (d : Dp) : (streamEnds t d).sup = d.sup := rfl
@[simp] theorem streamEnds_fab (t : Nat) (d : Dp) : (streamEnds t d).fab = d.fab := rfl
@[simp] theorem streamEnds_thm (t : Nat) (d : Dp) : (streamEnds t d).thm = d.thm := rfl
@[simp] theorem streamEnds_flt (t : Nat) (d : Dp) : (streamEnds t d).flt = d.flt := rfl
@[simp] theorem streamEnds_rec_ (t : Nat) (d : Dp) : (streamEnds t d).rec_ = d.rec_ := rfl
@[simp] theorem streamEnds_pst (t : Nat) (d : Dp) : (streamEnds t d).pst = d.pst := rfl
@[simp] theorem streamEnds_hif (t : Nat) (d : Dp) : (streamEnds t d).hif = d.hif := rfl
@[simp] theorem streamEnds_ceil (t : Nat) (d : Dp) : (streamEnds t d).ceil = d.ceil := rfl
@[simp] theorem streamEnds_acc (t : Nat) (d : Dp) : (streamEnds t d).acc = d.acc := rfl
@[simp] theorem streamEnds_mrg (t : Nat) (d : Dp) : (streamEnds t d).mrg = d.mrg := rfl
@[simp] theorem streamEnds_jrn (t : Nat) (d : Dp) : (streamEnds t d).jrn = d.jrn := rfl
@[simp] theorem streamEnds_map (t : Nat) (d : Dp) : (streamEnds t d).map = d.map := rfl
@[simp] theorem streamEnds_mh (t : Nat) (d : Dp) : (streamEnds t d).mh = d.mh := rfl
@[simp] theorem streamEnds_cod (t : Nat) (d : Dp) : (streamEnds t d).cod = d.cod := rfl
@[simp] theorem streamEnds_hbm (t : Nat) (d : Dp) : (streamEnds t d).hbm = d.hbm := rfl
@[simp] theorem streamEnds_chans (t : Nat) (d : Dp) : (streamEnds t d).chans = d.chans := rfl
@[simp] theorem streamEnds_mops (t : Nat) (d : Dp) : (streamEnds t d).mops = d.mops := rfl
@[simp] theorem streamEnds_nextMop (t : Nat) (d : Dp) : (streamEnds t d).nextMop = d.nextMop := rfl
@[simp] theorem streamEnds_que (t : Nat) (d : Dp) : (streamEnds t d).que = d.que := rfl
@[simp] theorem streamEnds_logs (t : Nat) (d : Dp) : (streamEnds t d).logs = d.logs := rfl
@[simp] theorem streamEnds_sec (t : Nat) (d : Dp) : (streamEnds t d).sec = d.sec := rfl
@[simp] theorem streamEnds_pmu (t : Nat) (d : Dp) : (streamEnds t d).pmu = d.pmu := rfl
@[simp] theorem streamEnds_latches (t : Nat) (d : Dp) : (streamEnds t d).latches = d.latches := rfl
@[simp] theorem streamEnds_out (t : Nat) (d : Dp) : (streamEnds t d).out = d.out := rfl

@[simp] theorem dropStream_now (pcie : Bool) (d : Dp) : (dropStream pcie d).now = d.now := rfl
@[simp] theorem dropStream_free (pcie : Bool) (d : Dp) : (dropStream pcie d).free = d.free := rfl
@[simp] theorem dropStream_glb (pcie : Bool) (d : Dp) : (dropStream pcie d).glb = d.glb := rfl
@[simp] theorem dropStream_sup (pcie : Bool) (d : Dp) : (dropStream pcie d).sup = d.sup := rfl
@[simp] theorem dropStream_fab (pcie : Bool) (d : Dp) : (dropStream pcie d).fab = d.fab := rfl
@[simp] theorem dropStream_thm (pcie : Bool) (d : Dp) : (dropStream pcie d).thm = d.thm := rfl
@[simp] theorem dropStream_flt (pcie : Bool) (d : Dp) : (dropStream pcie d).flt = d.flt := rfl
@[simp] theorem dropStream_rec_ (pcie : Bool) (d : Dp) : (dropStream pcie d).rec_ = d.rec_ := rfl
@[simp] theorem dropStream_pst (pcie : Bool) (d : Dp) : (dropStream pcie d).pst = d.pst := rfl
@[simp] theorem dropStream_ceil (pcie : Bool) (d : Dp) : (dropStream pcie d).ceil = d.ceil := rfl
@[simp] theorem dropStream_acc (pcie : Bool) (d : Dp) : (dropStream pcie d).acc = d.acc := rfl
@[simp] theorem dropStream_lc (pcie : Bool) (d : Dp) : (dropStream pcie d).lc = d.lc := rfl
@[simp] theorem dropStream_mrg (pcie : Bool) (d : Dp) : (dropStream pcie d).mrg = d.mrg := rfl
@[simp] theorem dropStream_jrn (pcie : Bool) (d : Dp) : (dropStream pcie d).jrn = d.jrn := rfl
@[simp] theorem dropStream_map (pcie : Bool) (d : Dp) : (dropStream pcie d).map = d.map := rfl
@[simp] theorem dropStream_mh (pcie : Bool) (d : Dp) : (dropStream pcie d).mh = d.mh := rfl
@[simp] theorem dropStream_cod (pcie : Bool) (d : Dp) : (dropStream pcie d).cod = d.cod := rfl
@[simp] theorem dropStream_hbm (pcie : Bool) (d : Dp) : (dropStream pcie d).hbm = d.hbm := rfl
@[simp] theorem dropStream_chans (pcie : Bool) (d : Dp) : (dropStream pcie d).chans = d.chans := rfl
@[simp] theorem dropStream_mops (pcie : Bool) (d : Dp) : (dropStream pcie d).mops = d.mops := rfl
@[simp] theorem dropStream_nextMop (pcie : Bool) (d : Dp) : (dropStream pcie d).nextMop = d.nextMop := rfl
@[simp] theorem dropStream_que (pcie : Bool) (d : Dp) : (dropStream pcie d).que = d.que := rfl
@[simp] theorem dropStream_logs (pcie : Bool) (d : Dp) : (dropStream pcie d).logs = d.logs := rfl
@[simp] theorem dropStream_sec (pcie : Bool) (d : Dp) : (dropStream pcie d).sec = d.sec := rfl
@[simp] theorem dropStream_pmu (pcie : Bool) (d : Dp) : (dropStream pcie d).pmu = d.pmu := rfl
@[simp] theorem dropStream_latches (pcie : Bool) (d : Dp) : (dropStream pcie d).latches = d.latches := rfl
@[simp] theorem dropStream_out (pcie : Bool) (d : Dp) : (dropStream pcie d).out = d.out := rfl

end Sys2Proof.Machine
end

