-- ==== Sys2Proof/Tests/Slice0.lean ====
section
/-! SUPPORT. The model's own tests: the well-formedness checks refuse what they are for, single steps on small states with
results taken from the spec's rules, and for every statement that has hypotheses states and operands that meet them. -/

-- The tests are checked one after the other: each kernel evaluation has the memory to itself.
set_option Elab.async false

namespace Sys2Proof.Tests

open Sys2Proof Sys2Proof.Machine

/-- A datapath in SERVE: W4, link up, one decoder over the whole capacity, all processors running. -/
def sv : Dp :=
  { Dp.reset with
    glb := { Glb.reset with config := 4, riseStep := 10 }
    sup := { Sup.reset with
      mode := .serve, psEn := 0xFFF, pg := 0xFFF, enabled := 0xFFF, railsUp := true, isoReleased := true, perstN := true,
      pwrFailN := true }
    hif := { Hif.reset with
      rate := 6, width := 16, flit := 1, memActive := true, busMaster := true, vecMask := 0, hr := 4, hw := 4, drs := 64,
      ndr := 64, decoders := [{ size := 0x10000000000, committed := true }, {}, {}, {}] }
    que := { Que.reset with mps := [0, 0, 0, 0] } }

/-- Control fields in service. -/
def ct : Ctl := { Ctl.reset with cfgLocked := true, writesOpen := true }

/-- A state around a datapath. -/
def st (d : Dp) : State := ⟨ct, d, []⟩

/-- A mode of the serving datapath. -/
def inMode (m : Mode) (d : Dp) : Dp := { d with sup := { d.sup with mode := m } }

/-- A step of RISE. -/
def atRise (n : Nat) : Dp := { inMode .rise sv with glb := { sv.glb with riseStep := n } }

/-- An Oxsar command in MP_1's hands, from queue 0. -/
def hand (op : Nat) (ps : List (BitVec 64)) (d : Dp) : Dp :=
  { d with que := { d.que with cur := some ⟨some 0, BitVec.ofNat 16 op, 7, true, ps⟩ } }

/-- A standard mailbox command in MP_1's hands, with n bytes of payload. -/
def std (op n : Nat) (ws : SMap Word) (d : Dp) : Dp :=
  { d with que := { d.que with
    cur := some ⟨none, BitVec.ofNat 16 op, 0, true, []⟩, mboxCmd := BitVec.ofNat 16 op, mboxLen := n, mboxIn := ws } }

/-- An image that passes the checks. -/
def img : FwImage := ⟨1, 0, 0, 0, true, true, true, 0⟩

/-- A datapath whose configuration image has no records: magic, format 1, the CRC-32 of those eight bytes, the mark. -/
def cfgDp : Dp :=
  { sv with pst := { sv.pst with changed := [0], work := [(0, (0x5343464701000000e54e06400000005a : BitVec 128) ++ (0 : BitVec 1920))] } }

/-- The hypotheses of OxsarReportsReturnTheirResults. -/
theorem test_hyp_reports :
    (∀ x ∈ ([0x0000, 0x0001, 0x0002, 0x0100, 0x0103, 0x0500, 0x0900, 0x0101, 0x0102, 0x0203] : List Nat),
      inHand (hand x [] sv) x = true) ∧
    (inHand (hand 0x0303 [31] sv) 0x0303 = true ∧ param (hand 0x0303 [31] sv) 0 = BitVec.ofNat 64 31) ∧
    (inHand (hand 0x0600 [] sv) 0x0600 = true ∧ ({ sv.sec with runImage := some img }).runImage = some img) ∧
    (∀ p ∈ ([15, 64] : List Nat), inHand (hand 0x0300 [BitVec.ofNat 64 (p * 2 ^ 32 + 1)] sv) 0x0300 = true ∧ p ≤ lastPage sv ∧
      ((param (hand 0x0300 [BitVec.ofNat 64 (p * 2 ^ 32 + 1)] sv) 0).extractLsb' 32 32).toNat = p ∧
      (param (hand 0x0300 [BitVec.ofNat 64 (p * 2 ^ 32 + 1)] sv) 0).extractLsb' 0 32 = 1 ∧
      wordEcc ct 0x64 0x25 131072 .ok sv = sv ∧ pstReadable p = true ∧ (pageOut sv p).isSome = true) ∧
    (inHand (hand 0x0402 [31] sv) 0x0402 = true ∧ (param (hand 0x0402 [31] sv) 0).toNat < 32) ∧
    ((match validateImage cfgDp with
      | .valid l => l.length == 0
      | _ => false) = true ∧ inHand (hand 0x0305 [] cfgDp) 0x0305 = true) ∧
    (inHand (hand 0x0401 [0] sv) 0x0401 = true ∧ sampleBusy sv = false ∧
      (samplesByAge { sv with rec_ := { sv.rec_ with ring := [(0, some ⟨0, [], 0, 0, [], [], 0, none⟩)] } })[0]?.isSome = true) ∧
    (inHand (hand 0x0702 [0, 64] sv) 0x0702 = true ∧ bufferOk (hand 0x0702 [0, 64] sv) 0 = true) := by decide +kernel

/-- A part in W2 that stores page 0 for a PST_COMMIT, its 2 µs over, and has an increment of counter 31 waiting. -/
def cmdStores : Dp := hand 0x0302 []
  { cfgDp with
    glb := { cfgDp.glb with config := 2 }
    sup := { cfgDp.sup with clock := 2000 }
    pst := { cfgDp.pst with storing := [0], storeCmd := true, cntPend := some (31, 0, true) } }

/-- The hypotheses of OxsarActionsTakeEffect. -/
theorem test_hyp_actions :
    guarded (hand 0x0201 [0x3F7DFFF, ~~~0x3F7DFFF] sv) = true ∧ (0x3F7DFFF : BitVec 64).extractLsb' 26 38 = 0 ∧
    inHand (hand 0x0201 [0x3F7DFFF, ~~~0x3F7DFFF] sv) 0x0201 = true ∧
    (((0x3F7DFFF : BitVec 64).extractLsb' 15 6).toNat = 47 ∧ ((0x3F7DFFF : BitVec 64).extractLsb' 0 15).toNat = 24575) ∧
    (sv.pst.dev.repairs.length < 64 ∧ sv.sec.heldSectors = [] ∧ cmdWriting sv = false) ∧
    (∀ x ∈ ([0x0202, 0x0400, 0x0501, 0x0700, 0x0701, 0x0901, 0x0902] : List Nat), inHand (hand x [0] sv) x = true) ∧
    (∀ p ∈ ([15, 704, 959] : List Nat), inHand (hand 0x0301 [BitVec.ofNat 64 (p * 2 ^ 32 + 1)] sv) 0x0301 = true ∧
      cmdWriting (hand 0x0301 [BitVec.ofNat 64 (p * 2 ^ 32 + 1)] sv) = false ∧
      ((param (hand 0x0301 [BitVec.ofNat 64 (p * 2 ^ 32 + 1)] sv) 0).extractLsb' 32 32).toNat = p) ∧
    cfgN { sv with glb := { sv.glb with config := 2 } } < 3 ∧
    (inHand (hand 0x0302 [] cfgDp) 0x0302 = true ∧ cmdStores.sup.clock = 2000 ∧ toStore cmdStores = [0] ∧ cfgN cmdStores = 2 ∧
      inHand cmdStores 0x0302 = true ∧ cmdStores.pst.storing = [0] ∧ cmdStores.pst.storeCmd = true ∧
      2000 ≤ elapsed cmdStores.pst.storeAt cmdStores.sup.clock ∧ toStore sv = [] ∧ sv.pst.storing = []) ∧
    (sv.pst.cntPend = none ∧ cmdStores.pst.cntPend = some (31, 0, true) ∧ 500 ≤ elapsed 0 cmdStores.sup.clock) ∧
    (inHand (hand 0x0304 [16] sv) 0x0304 = true ∧ inHand (hand 0x0403 [0xFFFFFFFF] sv) 0x0403 = true) ∧
    ((param (hand 0x0403 [0xFFFFFFFF] sv) 0).extractLsb' 32 32 = 0) ∧
    ((sv.hif.decoders.getD ((param (hand 0x0501 [0x3F01] sv) 0).extractLsb' 0 2).toNat {}).committed = false ∧
      (0x3F01 : BitVec 64).extractLsb' 2 6 = 0 ∧ (0x3F01 : BitVec 64).extractLsb' 14 50 = 0 ∧ sv.sec.st = .disabled) ∧
    (∀ b ∈ ([false, true] : List Bool), inHand (hand 0x0601 [BitVec.ofNat 64 (b2n b)] sv) 0x0601 = true ∧
      slotOk ct (slotImg { sv with sec := { sv.sec with imgA := some img, imgB := some img } } b) = true) ∧
    (inHand (hand 0x0903 [] sv) 0x0903 = true ∧ fallowCond ct (inMode .fallow sv) = false) ∧
    (inHand (hand 0x0904 [0, BitVec.allOnes 64] sv) 0x0904 = true) ∧
    (inHand (hand 0x0204 [0x100F, ~~~0x100F] sv) 0x0204 = true ∧ guarded (hand 0x0204 [0x100F, ~~~0x100F] sv) = true ∧
      (0x100F : BitVec 64) = BitVec.ofNat 64 (16 * 256 + (0xF : BitVec 4).toNat) ∧ anyIsolated sv = false ∧
      sv.mh.rebActive = false) := by decide +kernel

/-- A datapath whose queue 0 holds one packet of one word. -/
def q0 : Dp := modQ 0 (fun q => { q with wwp := 1, cwp := 1 }) sv

/-- The hypotheses of CompletionIsPostedAtTheTail, QueueWordsBuildAPacket and QueuesRewindResetAndAreServed. -/
theorem test_hyp_queues :
    (((hand 0 [] sv).que.cur.bind (·.queue)) = some 0) ∧ sv.hif.busMaster = true ∧
      sv.hif.vecMask.getLsbD 63 = false ∧ pmuFrozen (crSet ct 0x2000000 1) = true ∧
    windowOpenQ (crSet ct (queOff 63 0) 1) sv 63 = true ∧
    ((qOf (modQ 63 (fun q => { q with isOpen := true, header := 0x100000000000, have_ := 1, wwp := 1 }) sv) 63).isOpen = true ∧
      (qOf sv 63).isOpen = false ∧ queueFull (qOf sv 63) = false ∧ hdrWords 0 = 0) ∧
    (queueFull { (qOf sv 63) with wwp := 1024 } = true ∧ (qOf sv 63).cwp ≠ (qOf sv 63).wwp + 1 ∧ (qOf sv 63).bad = []) ∧
    (payloadOk 0x7FF8 8 = true ∧ payloadOk 0xFFF8 8 = true ∧ payloadOk 0 4 = false ∧ (0x7FF8 : BitVec 16).toNat < 0x8000 ∧
      ¬ (0x8000 : BitVec 16).toNat < 0x8000) ∧
    (portOpen .host sv = true ∧ writesHeld ct sv = false) ∧
    (takesUp q0 = true ∧ q0.que.ring = 0 ∧
      memberReady (crSet (crSet ct (queOff 0 0x18) 4) (queOff 0 0) 1) q0 0 = true ∧ (qOf q0 0).bad = [] ∧
      headPacket (qOf q0 0) = [0] ∧ refusedAtOnce false false true 0 [] = none) := by decide +kernel

/-- Bytes as the words of the mailbox's payload. -/
def inp (bs : List (BitVec 8)) : SMap Word :=
  (List.range ((bs.length + 3) / 4)).map fun i => (i, BitVec.ofNat 32 (leBytes ((bs.drop (4 * i)).take 4)))

/-- A standard command with a payload of bytes. -/
def stdB (op : Nat) (bs : List (BitVec 8)) (d : Dp) : Dp := std op bs.length (inp bs) d

/-- The hypotheses of MailboxReportsAndReplies. -/
theorem test_hyp_mailbox_reports :
    (∀ x ∈ ([(0x0001, 0), (0x0102, 0), (0x0200, 0), (0x0300, 0), (0x0400, 0), (0x4000, 0), (0x4100, 0), (0x4200, 0),
      (0x4201, 0), (0x4203, 0), (0x4305, 0), (0x4500, 0), (0x0100, 1), (0x0401, 24), (0x4102, 8), (0x4300, 16),
      (0x4303, 16)] : List (Nat × Nat)), StdReady (std x.1 x.2 [] sv) x.1 x.2) ∧
    mboxNum (stdB 0x0100 [3] sv) 0 1 < 4 ∧
    ((mboxFrom (stdB 0x0401 (bytesBe 16 celUuid ++ bytesLe 4 4 ++ bytesLe 4 4) sv) 0).take 16 = bytesBe 16 celUuid ∧
      8 ≤ celBytes.length) ∧
    ((lsaPages 131071 1).map (readPage sv) = [some 0]) ∧
    rangeParam ct (stdB 0x4300 (bytesLe 8 64 ++ bytesLe 8 1) sv) = some (1, 2) := by
  unfold StdReady
  decide +kernel

/-- The hypotheses of MailboxActionsTakeEffect. -/
theorem test_hyp_mailbox_actions :
    (∀ x ∈ ([(0x0101, 6), (0x0103, 4), (0x0201, 128), (0x0202, 2), (0x0301, 8), (0x4101, 17), (0x4103, 9), (0x4202, 12),
      (0x4204, 1), (0x4301, 8), (0x4302, 72), (0x4304, 17)] : List (Nat × Nat)), StdReady (std x.1 x.2 [] sv) x.1 x.2) ∧
    (mboxNum (stdB 0x0101 [3, 1, 0, 0, 0, 0] sv) 0 1 = 3 ∧ mboxNum (stdB 0x0101 [3, 1, 0, 0, 0, 0] sv) 2 1 = 0 ∧
      (mboxByte (stdB 0x0101 [3, 1, 0, 0, 0, 0] sv) 1).getLsbD 0 = true) ∧
    (∀ i < 4, mboxNum (stdB 0x0103 [1, 0, 1, 1] sv) i 1 % 4 < 2) ∧
    (∀ b ∈ ([false, true] : List Bool), mboxNum (stdB 0x0201 [0, if b then 2 else 1] sv) 0 1 = 0 ∧
      mboxNum (stdB 0x0201 [0, if b then 2 else 1] sv) 1 1 = b2n b + 1 ∧
      ({ sv.sec with running := if b then 0 else 1 }).running.toNat ≠ b2n b ∧ sv.sec.xfer = none ∧ sv.que.bg = none) ∧
    (mboxNum (stdB 0x0202 [1, 2] sv) 0 1 = 1 ∧ mboxNum (stdB 0x0202 [1, 2] sv) 1 1 = b2n true + 1 ∧
      slotOk ct (some img) = true) ∧
    (mboxNum (stdB 0x4103 (bytesLe 4 131071 ++ [0, 0, 0, 0, 9]) sv) 0 4 + 1 ≤ 131072 ∧ sv.pst.writes = []) ∧
    (mboxByte (stdB 0x4202 [1, 1] sv) 0 = 1 ∧ (mboxByte (stdB 0x4202 [1, 1] sv) 1).getLsbD 0 = true) ∧
    mboxNum (stdB 0x4204 [1] sv) 0 1 < 2 ∧
    (dpaParam ct (stdB 0x4301 (bytesLe 8 64) sv) 0 = some 1 ∧ refusing sv = false ∧ sv.logs.poison = []) ∧
    (sv.hif.withheld = false ∧ 64 * (dSectors sv + 1) + 64 * wOf sv ≤ ceilBytes ct ∧ wOf sv < mergeFree sv) ∧
    (sv.sec.erase = false ∧ rangeParam ct (stdB 0x4304 (bytesLe 8 64 ++ bytesLe 8 1 ++ [0]) sv) = some (1, 2)) := by
  unfold StdReady
  decide +kernel

/-- A security state. -/
def sec (t : SecSt) (d : Dp) : Dp := { d with sec := { d.sec with st := t, mediaKey := some 5 } }

/-- The payload of a passphrase command: kind 1 and passphrases of ones. -/
def passIn : List (BitVec 8) := 1 :: List.replicate 95 1

/-- The hypotheses of PassphraseCommandsTakeEffect, WrongUnlockIsCountedAndDelayed, UserPassphraseWrapsTheMediaKey and
ErasesBeginAndCommit; that a passphrase is right is met below. -/
theorem test_hyp_passphrases :
    (∀ x ∈ ([(0x4501, 0x60), (0x4502, 0x40), (0x4503, 0x20), (0x4504, 0), (0x4400, 0), (0x4401, 0), (0x4505, 0x40)] :
      List (Nat × Nat)), StdReady (std x.1 x.2 [] sv) x.1 x.2) ∧
    (∀ x ∈ ([0x40, 0x20, 0] : List Nat), passAt (stdB 0x4501 passIn sv) x ≠ 0) ∧ mboxNum (stdB 0x4501 passIn sv) 0 1 = 1 ∧
    ((sec .disabled sv).sec.st = .disabled ∧ (sec .unlocked sv).sec.st = .unlocked ∧ (sec .locked sv).sec.st = .locked) ∧
    (sv.que.delayed = none ∧ sv.que.bg = none ∧ sv.sec.erase = false ∧ serving sv = true) ∧
    ((sec .disabled sv).sec.mediaKey = some 5 ∧ sv.sec.eraseKind ≠ 3) := by
  unfold StdReady
  decide +kernel

/-- A datapath whose parameter store holds a verifier of the user passphrase. -/
def withVer (v : BitVec 256) (d : Dp) : Dp := { d with pst := { d.pst with sec := { d.pst.sec with userVer := v } } }

/-- A passphrase is right exactly where the parameter store holds its verifier, and a verifier is not its complement: both
cases are met. -/
theorem test_hyp_right_passphrase (p v : BitVec 256) (d : Dp) :
    (passOk false p (withVer v d) = true ↔ verifierOf false d.pst.sec.userSalt p = v) ∧ v ≠ ~~~v := by
  have h (d : Dp) : passOk false p d = true ↔ verifierOf false d.pst.sec.userSalt p = d.pst.sec.userVer := by
    unfold passOk
    rw [if_neg Bool.false_ne_true, decide_eq_true_iff]
  have h1 : (withVer v d).pst.sec.userVer = v := rfl
  have h2 : (withVer v d).pst.sec.userSalt = d.pst.sec.userSalt := rfl
  rw [h, h1, h2]
  exact ⟨Iff.rfl, fun h => by simpa using congrArg (fun x => x.getLsbD 0) h⟩

/-- The hypotheses of DebugAndJtagAct and DebugAccessIsDeniedOutsideService; that a response verifies is a hypothesis, since
the debug key has no value. -/
theorem test_hyp_debug :
    (∀ x ∈ ([0x0800, 0x0801, 0x0802, 0x0803] : List Nat), inHand (hand x [] sv) x = true) ∧ challengeOk ct sv = true ∧
    responseOk ct sv = false ∧ guarded (hand 0x0803 [0, BitVec.allOnes 64] sv) = true ∧
    (dbgState ct { sv with sec := { sv.sec with open_ := true } } = .opened ∧ serving sv = true ∧ sv.sec.retStep ≠ 1) ∧
    (jtagUp sv = true ∧ extestOk sv = false ∧
      extestOk { atRise 9 with sup := { (atRise 9).sup with perstN := false } } = true) ∧
    (dbgState ct { sv with sec := { sv.sec with open_ := true } } ≠ .sealed ∧ sv.sec.st ≠ .locked ∧
      sv.que.mps.getD 3 1 = 0 ∧ (setMp 3 2 sv).que.mps.getD 3 1 = 2) ∧
    ((inMode .dormant sv).sup.mode = .dormant ∧ jtagUp (inMode .dormant sv) = true ∧ (inMode .drain sv).sup.mode = .drain) := by
  decide +kernel

/-- A line of the cache with every sector valid, and sector 1 dirty. -/
def held : Dp := setWay (wayKey 1 0) { valid := true, tag := tagOf 1, sv := 0xF, sd := 2, d1 := 9 }
  { sv with map := { sv.map with cache := [⟨0, 0, false, false, []⟩] } }

/-- A host read of 64-byte line 5 in a phase. -/
def rd (p : RdPhase) : Read :=
  ⟨1, 5, .host, 0, 0, true, p, 0, .direct, true, false, false, false, false, false, false, 0, none, none, none, none, none⟩

/-- A datapath with one read. -/
def withRead (r : Read) : Dp := { sv with acc := { sv.acc with reads := [r] } }

/-- The hypotheses of ReadsReturnClearAndLatch, WritesLeaveProtectedFieldsAlone and RegisterWritesAct. -/
theorem test_hyp_registers :
    (portOpen .host sv = true ∧ writesHeld ct sv = false ∧ writesHeld ct (inMode .drain sv) = true ∧
      portOpen .host (inMode .drain sv) = true) ∧
    ((findReg 0).map (fun h => (h.word, latching h)) = some (0, false)) ∧
    ((findReg 0x10).map (fun h => (h.word, latching h)) = some (0, true) ∨
      (findReg 8).map (fun h => (h.word, latching h)) = some (0, true)) ∧
    (inWindows 0x43FFFC 1 = true ∧ inWindows 0x43FFFC 2 = false ∧ inWindows 0 16 = true) ∧
    (((findReg 0).map fun h => h.reg.flds.any fun f => !fieldLoads true f) = some true) ∧
    ((findReg 0x6FFFC).isNone = true ∧ inMsix 0x6FFFC = false ∧ inCxl 0x6FFFC = false ∧ inWindow 0x6FFFC = true) := by
  decide +kernel

/-- The hypotheses of HeldSectorIsAnsweredAtOnce, HostRequestsAreHandled and RequestsOutsideServiceAreRejected: the second sector of line 1 is at 0x140. -/
theorem test_hyp_host_requests :
    HostReady held 0x140 5 ∧ 0 < held.hif.hr ∧ 0 < held.hif.hw ∧ 0 < held.hif.drs ∧ 0 < held.hif.ndr ∧ held.acc.pend = [] ∧
    held.acc.reads = [] ∧ held.sec.heldSectors = [] ∧ heldValue held 5 = some (9, false) ∧
    memOpen (inMode .dormant sv) = true ∧ (inMode .drain sv).sup.mode = .drain ∧ memOpen (inMode .drain sv) = true ∧
    hdmDecode (inMode .fallow sv) 0x140 = some (0, 0x140) ∧ hdmDecode sv 0x8000000000000 = none ∧
    memOpen { sv with hif := { sv.hif with memActive := false } } = true ∧ (7 : BitVec 64) ≠ BitVec.allOnes 64 := by
  unfold HostReady
  decide +kernel

/-- The hypotheses of WriteHitIsTheHeldValue, WritesAreHeldToTheCeiling and BucketsClassesAndHorizonFollowTheirTables. -/
theorem test_hyp_writes :
    findWay held (secLine 5) = some (wayKey 1 0) ∧
    mergeFree { sv with hif := { sv.hif with hw := 4000 } } < wOf { sv with hif := { sv.hif with hw := 4000 } } ∧
    (64 * dSectors sv + 64 * (wOf sv + 1) ≤ ceilBytes ct ∧ wOf sv + 1 ≤ mergeFree sv) ∧
    wOf { sv with hif := { sv.hif with hw := 256 } } ≤ 256 ∧ readBucket 1000 true ≠ 30 ∧ readBucket 1001 true = 30 ∧
    readBucket 199 true = 0 ∧ readBucket 200 true = 1 ∧ readBucket 899 true = 28 := by decide +kernel

/-- A change record of page 3. -/
def chg3 : ChgRec := .entry 1 3 77

/-- A datapath with a read and its lookup in the queue of pseudo-channel 3. -/
def looking (r : Read) : Dp :=
  { withRead r with hbm := { sv.hbm with queue := [⟨3, 1, 2, 0, .hostRead 1, 1, true⟩] } }

/-- The hypotheses of MappingReadsReturn. -/
theorem test_hyp_mapping_reads :
    readTurn (looking (rd (.map false false))) 1 = true ∧ readTurn (withRead (rd (.map false false))) 1 = false ∧
    (findRead (readOver ct 1 (looking (rd (.map false false)))) 1 = some (rd (.map false false)) ∧
      (rd (.map false false)).phase = .map false false ∧ (rd (.map true true)).phase = .map true true) ∧
    cacheLine (readOver ct 1 (looking (rd (.map false false)))) 0 = none ∧
    journalEntry { sv with jrn := { sv.jrn with open_ := [chg3] } } 3 = some 77 ∧
    journalEntry sv 3 = none ∧
    (((cacheLine sv (3 : Page).toNat).any (·.pinned)) = false ∧
      ((cacheLine { sv with map := { sv.map with cache := [⟨3, 77, false, false, [(1, 77)]⟩] } } (3 : Page).toNat).any (·.pinned)) = true) ∧
    sv.que.mps.getD 2 1 = 0 ∧ (3 : Page).toNat ∈ ({ sv.map with lost := [3] }).lost := by decide +kernel

/-- R167: an HBM word with no bit wrong reads as written, and one with a wrong byte is corrected. -/
theorem test_hbm_codes : (∀ vas ∈ ([0, 0xA5, 0xFF] : List Nat),
      hbmDecode (hbmEncode 0x1234 (BitVec.ofNat 8 vas)) (BitVec.ofNat 8 vas) = (.good, 0x1234)) ∧
    hbmRead 5 0xA5 0xFF00 = (.corrected, 5) := by decide +kernel

/-- At every address of an entry its word reads as stored with no bit wrong, and is past correction with the same bit of two bytes
wrong: wherever the layout places a page, each case of MappingReadsReturn is met. -/
theorem test_hyp_map_word : ∀ vas : BitVec 8, hbmRead (mapWord sv false 0) vas 0 = (.good, mapWord sv false 0) ∧
    (hbmRead (mapWord sv false 0) vas 0x0101).1 = .uncorrectable := by decide +kernel

/-- A media operation of a kind, issued. -/
def op (k : MopKind) : Mop := { id := 0, chan := 16, set := 127, row := 5, req := 0, kind := k, code := 0, issued := some 1 }

/-- A read at the media with its operation. -/
def atMedia (k : MopKind) : Dp := { withRead (rd .media) with mops := [op k] }

/-- A codeword image of page 0, position 1, in key slot 0. -/
def image1 : Image := outerEncode 5 (metaWord (hostLabel 0 0 1) 0)

set_option maxRecDepth 20000 in
/-- The hypotheses of SectorsAndCodewordsAnswer. -/
theorem test_hyp_codewords :
    (findRead (atMedia (.sector 1 1)) 1 = some (rd .media) ∧
      issuedMop (atMedia (.sector 1 1)) (fun k => match k with | .sector t _ => t = 1 | _ => false) = some (op (.sector 1 1)) ∧
      absentMop (atMedia (.sector 1 1)) 16 0 = some (op (.sector 1 1))) ∧
    issuedMop (atMedia (.codeword 1)) (· = .codeword 1) = some (op (.codeword 1)) ∧
    (outerDecode image1 (wantLabel sv (secLine 5) image1)).cls.good = true ∧
    rebuildImage sv (readPlace (rd .media)).1 (readPlace (rd .media)).2 (image1 :: List.replicate 15 0) = image1 ∧
    (({ rd .media with peersOut := true }).escalated = false ∧ (rd .media).kind = .host) := by decide +kernel

/-- A granted data programme on channel 16, warp 3. -/
def prog1 : Prog :=
  { id := 0, kind := .data 0, chan := 16, set := 127, row := 5, image := 0, st := .granted, retried := false, abandoned := false,
    begun := false, granted := 0, dataEnd := 0, mark := 0, told := false }

/-- Channels whose packages are present and whose clock runs. -/
def chans1 : List Chan := List.replicate 17 { present := 0xF, used := 0xF, ck := true }

/-- A datapath with that programme and some media operations. -/
def withProg (ms : List Mop) : Dp :=
  { sv with mops := ms, mrg := { sv.mrg with progs := [prog1] }, chans := chans1 }

/-- The same while the programme's partition is reset. -/
def withReset : Dp := { withProg [op (.reset 0)] with mrg := { sv.mrg with progs := [{ prog1 with st := .resetting }] } }

/-- The hypotheses of ReadyFramesEndProgrammes: frames of partition 31 with each result. -/
theorem test_hyp_programmes :
    unitIsolated sv 16 3 = false ∧ unitIsolated { sv with chans := List.replicate 17 { isolated := true } } 16 3 = true ∧
    flyingProg (withProg []) 16 127 = some prog1 ∧ prog1.st = .granted ∧ prog1.told = false ∧
    (frameOk 574 = true ∧ 32 * 3 + framePart 574 = 127 ∧ frameResult 574 = .verified) ∧
    (frameOk 958 = true ∧ framePart 958 = 31 ∧ frameResult 958 = .verifyFailed) ∧
    (frameOk 766 = true ∧ framePart 766 = 31 ∧ frameResult 766 = .discarded) ∧
    (frameOk 894 = true ∧ framePart 894 = 31 ∧ frameResult 894 = .resetDone) ∧
    frameOk 0 = false ∧ resetOut withReset 16 127 = some (op (.reset 0)) ∧
    ((withReset.mrg.progs.find? fun p => p.chan = 16 && p.set = 127 && (p.st = .resetting || p.st = .overrun)) =
      some { prog1 with st := .resetting }) := by decide +kernel

/-- A short burst of zeros, whose CRC is zero. -/
def burst0 : ShortBurst := {}

/-- The hypotheses of ChannelFaultsAreHandled. -/
theorem test_hyp_faults :
    ((chanOf sv 16).isolated = false ∧ (chanOf sv 16).stuck = false) ∧
    ((withProg [op (.status 3)]).mops.find? fun m => m.chan = 16 && m.kind = .status 3 && m.issued.isSome) =
      some (op (.status 3)) ∧
    (shortOk burst0 = true ∧ shortOk { burst0 with crc := 1 } = false ∧ ({ burst0 with absent := true }).absent = true) ∧ engineBusy (withProg []) 16 = true ∧
    10000 ≤ elapsed (chanOf (withProg []) 16).tick 10000 := by decide +kernel

/-- A status read that waits at channel 16. -/
def wait1 : Mop := { id := 1, chan := 16, set := 96, row := 0, req := 4, kind := .status 3, code := 0, issued := none }

/-- A datapath whose clocks run, with that read. -/
def port1 : Dp := pruneMops { sv with mops := [wait1], chans := chans1 }

/-- The hypotheses of ChannelPortsAndRightsRotate. -/
theorem test_hyp_ports :
    ((chanOf port1 16).isolated = false ∧ (chanOf port1 16).ck = true ∧ ringWinner port1 16 = some (4, .mop wait1)) ∧
    (ringOffers port1 16 ≠ []) ∧
    (127 < stripeSets (cfgN sv) ∧ lifted sv = false ∧ rightHeld sv 127 0 = false ∧ nextHolder sv 127 0 = 1) ∧
    (rb (crSet ct 0x300000 1) 0x300000 0 = true ∧ pkgLive (withProg []) 16 3 = true ∧ serving sv = true) := by
  decide +kernel

/-- An ASSEMBLING entry of line 1 that holds one sector. -/
def ent : MEntry := { blankEntry 0 1 0 0 with sv := 2 }

/-- A datapath with entries of line 1. -/
def withEntries (es : List MEntry) : Dp := { sv with mrg := { sv.mrg with entries := es } }

/-- The same with page 0 mapped to stripe 0. -/
def mapped0 (d : Dp) : Dp := { d with map := { d.map with copyA := [(0, mkEntry 0 0 0 0)] } }

/-- Every channel isolated. -/
def noChans (d : Dp) : Dp := { d with chans := List.replicate 17 { isolated := true } }

/-- A parity delta of stripe 5. -/
def dlt (closed recompute : Bool) : Delta := { id := 0, stripe := 5, delta := 0, contrib := 0, opened := 0, closed := closed, reading := closed, recompute := recompute, entry := 0 }

/-- A datapath with that delta and the reads of its close. -/
def withDelta (x : Delta) : Dp := { sv with mops := [op (.oldParity 0)], mrg := { sv.mrg with deltas := [x] } }

set_option maxRecDepth 20000 in
/-- The hypotheses of MergeEntriesFillAndClose. -/
theorem test_hyp_merge :
    (heldEccs ct [] sv = sv ∧ serving sv = true ∧ findEntry (withEntries [ent]) 0 = some ent ∧ ent.st = .assembling ∧ ent.sv ≠ 0xF ∧ ent.reading = false ∧
      pageLost sv (linePage ent.line).toNat = false ∧ earlierEntry (withEntries [ent]) ent = none) ∧
    earlierEntry (withEntries [{ ent with id := 1, st := .programming }, ent]) ent = some { ent with id := 1, st := .programming } ∧
    (entryValid (curEntry (withEntries [ent]) 0) = false ∧ entryValid (curEntry (mapped0 sv) 0) = true) ∧
    (unavailable (noChans sv) 0 (posChan 0 1) = true ∧ reconstructable (noChans sv) 0 (posChan 0 1) = false ∧
      unavailable sv 0 (posChan 0 1) = false) ∧
    allIssued { sv with mops := [op (.rmw 0)] } (.rmw 0) = true ∧
    ((withDelta (dlt false false)).mrg.deltas.find? fun x => x.stripe = 5 && !x.closed) = some (dlt false false) ∧
    ((withDelta (dlt true true)).mrg.deltas.find? fun x => x.stripe = 5 && x.closed && x.reading) = some (dlt true true) ∧
    allIssued (withDelta (dlt true false)) (.oldParity 0) = true ∧ (outerDecode 0 parityLabel).cls.good = true := by decide +kernel

/-- A pinned line of the mapping cache for page 3. -/
def pin (a b : Bool) : MapLine := ⟨3, 77, a, b, [(1, 77)]⟩

/-- The journal of a serving part. -/
def withJrn (f : Jrn → Jrn) : Dp := { sv with jrn := f sv.jrn }

/-- A datapath with the issued write of page 3 into a copy of the mapping in the queue of pseudo-channel 3. -/
def copying (copyB : Bool) : Dp := { sv with hbm := { sv.hbm with queue := [⟨3, 1, 2, 0, .mapWrite 3 copyB, 1, true⟩] } }

/-- The hypotheses of MappingChangesAreJournalled. -/
theorem test_hyp_mapping :
    (cacheLine { sv with map := { sv.map with cache := [pin true false] } } (3 : Page).toNat = some (pin true false) ∧
      (pin true false).chgs = (1, 77) :: [] ∧
      (pin true false).ackA = true ∧ (pin false false).ackB = false ∧ (pin true false).pinned = true) ∧
    ((∃ x ∈ (copying false).hbm.queue, x.use = .mapWrite (3 : Page).toNat false ∧ x.issued = true) ∧
      (∃ x ∈ (copying true).hbm.queue, x.use = .mapWrite (3 : Page).toNat true ∧ x.issued = true) ∧
      ∀ x ∈ (copying false).hbm.queue, ¬ (x.use = .mapWrite (3 : Page).toNat true ∧ x.issued = true)) ∧
    (wordEcc ct 0x58 0x26 1024 .ok sv = sv ∧ (withJrn fun j => { j with full := [chg3] }).jrn.full ≠ [] ∧
      sv.jrn.open_ = [] ∧ sv.jrn.late = [] ∧ journalOpen sv = true) ∧
    ((withJrn fun j => { j with ckptNext := 496 }).jrn.ckptNext ≠ 0 ∧ 496 + 496 < hostPages (cfgN sv) ∧
      sv.map.lost = []) ∧
    (numDurable sv 1 = true ∧ 40000 ≤ elapsed 0 40000 ∧ sv.mrg.deltas = [] ∧ sv.mrg.progs = []) := by decide +kernel

/-- A rewrite of page 3 from stripe 5. -/
def rw3 : Rewrite :=
  { page := 3, src := 5, dst := 6, inPlace := false, first := false, why := .refresh 3, copied := 0, dirty := 0, pass := 1,
    images := [], verified := 0, parityOut := false, fails := 0, horizon := 0, failChan := 31, retireSrc := false }

set_option maxRecDepth 20000 in
/-- The hypotheses of BackgroundWorkAndCleaningGoOn. -/
theorem test_hyp_background :
    ((takeWork ct 6 { sv with mh := { sv.mh with work := [{ prio := 6, kind := .parityCheck }] } }).isSome = true ∧
      ∀ q < 6, (takeWork ct q { sv with mh := { sv.mh with work := [{ prio := 6, kind := .parityCheck }] } }).isNone = true) ∧
    (findRewrite { sv with mh := { sv.mh with rewrites := [rw3] } } 3 = some rw3 ∧ nextCopy rw3 = some 0 ∧
      allIssued { sv with mops := [op (.copy 3)] } (.copy 3) = true) ∧
    (((atMedia (.harrow 5 0 none)).mops.find? fun m => m.chan = 16 && isScan m && m.issued.isSome) = none ∧
      ((atMedia (.harrow 5 0 none)).mops.find? fun m => m.chan = 16 && m.kind.isHarrow && m.issued.isSome) =
        some (op (.harrow 5 0 none)) ∧ stripeOwner sv 5 = none ∧
      (outerDecode 0 parityLabel).cls.bits < rg ct 0xE0500 16 8 ∧ lowMargin 0 = false) ∧
    (oldestDirty held = some (wayKey 1 0) ∧
      cleanDue ct { held with lc := { held.lc with flush := true } } (wayKey 1 0) = true) := by decide +kernel

/-- Page 3 mapped, its heat and wear given, tilling on. -/
def till (heat wear : Nat) : Dp :=
  { sv with
    map := { sv.map with copyA := [(3, mkEntry 5 0 0 0)], bitmap := true }
    mh := { sv.mh with heat := [(3, heat)], wear := [(5, wear)] } }

/-- The hypotheses of HealthAndHbmTimersAct. -/
theorem test_hyp_timers :
    (rb (crSet ct 0xE0200 0xFF0A0001) 0xE0200 31 = true ∧ 0 < spare (till 200 90000) ∧
      (till 200 90000).mh.rebActive = false ∧
      pageHot (crSet ct 0xE0200 0xFF0A0001) (till 200 90000) 3 = true ∧
      entryValid (curEntry (till 200 90000) 3) = true ∧ 0 < rg (crSet ct 0xE0200 0xFF0A0001) 0xE0200 24 7 * 1000) ∧
    (sv.sup.mode ≠ .off ∧ sv.mh.overLimit = false ∧ sv.mh.lapSaid = false ∧ serving sv = true) ∧
    (({ sv.hbm with state := 3 }).state = 3 ∧
      slotTurn { sv with hbm := { sv.hbm with slot := [(0, 40), (16, 8)] } } 0 = true) := by decide +kernel

/-- The supervisor changed. -/
def supv (f : Sup → Sup) (d : Dp) : Dp := { d with sup := f d.sup }

/-- The hypotheses of SupervisorRaisesTheRails. -/
theorem test_hyp_supervisor :
    mayRise ct (supv (fun s => { s with mode := .off, clock := 500000000 }) sv) = true ∧ sv.pst.writes = [] ∧
    (railUsed ct 11 = true ∧ (0 : BitVec 12).getLsbD 11 = false ∧ (0x7FF : BitVec 12) &&& ~~~0x7FF = 0) ∧
    (setBit (0x7FF : BitVec 12) 11 &&& ~~~setBit (0x7FF : BitVec 12) 11 = 0 ∧
      ((usedRails ct).all fun j => (setBit (0x7FF : BitVec 12) 11).getLsbD j && (setBit (0x7FF : BitVec 12) 11).getLsbD j) =
        true) := by decide +kernel

/-- The hypotheses of RiseStepsGoOnInOrder and RiseEndsInServiceWithTheLockSet. -/
theorem test_hyp_rise :
    (∀ n < 10, riseAt n (atRise n) = true) ∧ (atRise 1).sup.railsUp = true ∧ (atRise 2).hbm.trainFail = false ∧
    ((atRise 4).sec.running ≠ 2 ∧ (atRise 4).pst.dev.fwSelect = false ∧ imageOk ct img = true) ∧
    700 ≤ (atRise 9).fab.setPoint ∧ (sv.sup.isoDrain = none ∧ awake (supv (fun s => { s with isoReleased := false }) sv) = true) ∧
    (atRise 5).sec.retStep ≠ 9 ∧ riseAt 5 { atRise 5 with sec := { sv.sec with retStep := 9 } } = true ∧ ((atRise 9).sup.perstN = true ∧ (atRise 9).sec.extest = false) := by decide +kernel

/-- The hypotheses of PowerInputsActByMode and DrainSealsAndPowerGoesDown. -/
theorem test_hyp_power :
    (sv.sup.mrLow = false ∧ ({ sv.sup with mrLow := true }).mrLow = true ∧ pressDead sv = false ∧ sv.sup.isoReleased = true ∧
      ({ sv.sup with isoReleased := false }).isoReleased = false ∧ sv.sup.drainAfterWake = none ∧ sv.pst.storing = [] ∧
      (∀ p ∈ sv.mrg.progs, p.st = .pending → partitionFree sv p.chan p.set = true)) ∧
    (sv.sup.aux = true ∧ sv.sup.pwrFailN = true ∧ serving sv = true ∧ linkUp sv = true ∧ sv.sup.btnDead = false ∧
      sv.sup.perstN = true) ∧
    ((inMode .drain sv).sup.mode = .drain ∧ drainQuiet (inMode .drain sv) = true ∧
      (drainNext (inMode .drain sv)).isNone = true ∧ sv.pst.writes = [] ∧ sv.sup.downActive = false) ∧
    (railUsed ct 11 = true ∧ sv.sup.psEn.getLsbD 11 = true ∧ sv.sup.pg.getLsbD 11 = true ∧ sv.sup.upActive = false) ∧
    (clrBit (0x800 : BitVec 12) 11 = 0 ∧ clrBit (0x801 : BitVec 12) 11 ≠ 0 ∧ (0x800 : BitVec 12).getLsbD 11 = true) ∧
    recordReady ct (supv (fun s => { s with mode := .off, recordDue := true, pg := 0 }) sv) = true ∧
    ((379 : BitVec 16).toInt < 380 ∧ sv.sup.s31Broken = false ∧ (inMode .off sv).sup.mode = .off) := by decide +kernel

/-- The hypotheses of DormantAndFallowAreEntered. -/
theorem test_hyp_dormant :
    (linkUp sv = true ∧ serving sv = true ∧ sv.sup.warm = false ∧ sv.sup.dormReq = none ∧
      sv.sup.isoReleased = true ∧ sv.sup.fallowing = false) ∧ dormantClean sv = true ∧
    wakeDone (supv (fun s => { s with waking := true }) { inMode .dormant sv with chans := chans1 }) = true ∧
    ((inMode .dormant sv).sup.mode = .dormant ∧ sv.sup.waking = false ∧ sv.sup.drainAfterWake = none ∧ sv.acc.held = []) ∧
    ({ sv.thm with cut := 5 }).cut ≠ 0 ∧
    fallowCond (crSet ct 0xE0100 0x80000000) { sv with glb := { sv.glb with config := 0 } } = true := by decide +kernel

/-- The hypotheses of ReadingsAndVoltagesAct and HigherCutsActAtOnce. -/
theorem test_hyp_thermal :
    (((atMedia (.temperature 3)).mops.find? fun m => m.chan = 16 && m.kind = .temperature 3 && m.issued.isSome) =
      some (op (.temperature 3)) ∧ (sensorOf sv 103).broken = false ∧ 36 + 4 * 16 + 3 = 103 ∧
      ((slotFails ct 16 0xFF (atMedia (.temperature 3))).mops.find? fun m =>
        m.chan = 16 && m.kind = .temperature 3 && m.issued.isSome) = some (op (.temperature 3)) ∧
      (sensorOf (slotFails ct 16 0xFF (atMedia (.temperature 3))) 103).broken = false ∧
      shortOk burst0 = true ∧ inRange (respByte burst0.bytes 0 ++ respByte burst0.bytes 1) = true ∧ inRange 0x7FFF = false) ∧
    (fabricLive sv = true ∧ sv.sup.mode ≠ .dormant ∧ deadZones (updateZones ct (takeReadings ct [] sv)) < 5) ∧
    (sv.sup.fallowing = false ∧ ({ sv.fab with target := 750 }).setPoint ≠ ({ sv.fab with target := 750 }).target ∧
      779 + 20 < sv.fab.setPoint ∧ sv.fab.setPoint ≤ 780 + 20) ∧
    ((let d := { sv with thm := { sv.thm with tc := 600 } }; d.thm.cut < lawCut ct false (excessDie ct d) (excessMedia ct d)) ∧
      lawCut ct false (excessDie ct sv) (excessMedia ct sv) ≤ sv.thm.cut ∧ ({ sv.thm with hold := some 0 }).hold.isSome = true) := by
  decide +kernel

/-- A message of an SRAM error, and the same accepted. -/
def msg1 : Msg := ⟨0x61, 0x29, 2, 0, 0⟩

/-- The accepted message. -/
def acc1 : Accepted := ⟨msg1, 1, false⟩

/-- The hypotheses of ProcessorsAndActionsGoOn, MessagesAreAcceptedAndStamped and RecorderAndBandwidthAdvance. -/
theorem test_hyp_collector :
    (sv.que.mps.getD 3 1 = 0 ∧ (setMp 3 3 sv).que.mps.getD 3 1 = 3 ∧ sv.sup.mode ≠ .off ∧ sv.sup.mode ≠ .dormant) ∧
    (slotOk ct none = false ∧ imageOk ct img = true ∧ sv.pst.dev.fwSelect = false) ∧
    (takeMsg 0x61 { sv with flt := { sv.flt with inq := [msg1] } }).isSome = true ∧ sv.flt.inq = [] ∧
    (inputGrant { sv with flt := { sv.flt with inq := [msg1] } } = some (sourceInput (0x61 : BitVec 8).toNat) ∧
      inputGrant sv ≠ some (sourceInput (0x61 : BitVec 8).toNat) ∧ sv.sup.isoReleased = true) ∧
    ((retireLoc msg1).isSome = true ∧ ({ sv.flt with logQ := [(acc1, [])] }).logQ = (acc1, []) :: []) ∧
    (smGet [] ({ sv.flt with outq := [(0x61, [msg1])] }).outq (0x61 : BitVec 8).toNat = msg1 :: [] ∧
      smGet 0 ({ sv.flt with dropped := [(0x61, 1)] }).dropped (0x61 : BitVec 8).toNat = 1 ∧
      (smGet [] sv.flt.outq 0x61).length < 4 ∧ sv.flt.received < 0xFFFFFFFF) ∧
    (({ sv.flt with recent := [acc1] }).recent.head? = some acc1 ∧ acc1.stamp ≠ BitVec.allOnes 64) ∧
    (serving sv = true ∧ sampleMin (crSet ct 0x40000 0x01000000) ≠ 0 ∧ pmuFrozen (crSet ct 0x2000000 1) = true ∧
      sv.pmu.bwWindow ≤ 3) := by decide +kernel

/-- The hypotheses of LinkEventsAct and HostInterfaceControlsAct. -/
theorem test_hyp_link :
    (linkResult 0 6 16 2 [.rateFails, .rateFails, .rateFails, .lanesFail] = (5, 8, 2) ∧ linkSupported 5 8 2 = true ∧
      linkResult 4 6 16 2 [] = (5, 16, 2) ∧ (4 : BitVec 4).getLsbD 2 = true ∧
      linkSupported 6 16 2 = true ∧ sv.sup.downActive = false ∧ sv.sup.perstN = true ∧ serving sv = true ∧ sv.sup.refclk = true ∧ linkUp sv = true) ∧
    (({ sv.hif with pcieSecure := true, ideSecure := true }).ideSecure = true ∧ sv.hif.sub ≠ 2 ∧ ({ sv.hif with sub := 2 }).sub = 2 ∧ sv.acc.pend = [] ∧
      sv.acc.held = []) ∧
    (sv.hif.vecPend.getLsbD 95 = false ∧ ({ sv.hif with vecPend := setBit 0 95 }).vecPend.getLsbD 95 = true) ∧
    (noCredits sv = false ∧ sv.hif.memActive = true) ∧
    (let d := { sv with hif := { sv.hif with decoders := List.replicate 4 {} } };
      commitOk ct d 0 { size := 268435456 } = true ∧ commitOk ct d 3 { size := 268435456 } = false ∧
      (decoderAt d 3).committed = false) := by decide +kernel

/-- A part that answers SPDM, with a session and a key set. -/
def spdm : Dp :=
  { sv with sec := { sv.sec with runImage := some img }, hif := { sv.hif with sessions := 3, ideKeys := [(7, some 9)] } }

/-- The hypotheses of DoeAndKeysAreAnswered; that a portion starts within the certificate chain is a hypothesis, since the
chain's length is a constant of the part. -/
theorem test_hyp_doe :
    spdm.sup.mode ≠ .dormant ∧ linkUp spdm = true ∧ spdmLive spdm = true ∧
    (dormantExit ct .doeOrSideband spdm).hif.sessions < 4 ∧ ideKmLive spdm = true ∧
    keySlotNo true true true = 7 ∧ (smGet none (dormantExit ct .doeOrSideband spdm).hif.ideKeys 7).isSome = true := by decide +kernel

/-- A maintenance request on line 1. -/
def mnt (o : BitVec 3) : Mnt := ⟨o, 0, false, 1, 1, 0, 0, false, false, [], [], false, true⟩

/-- The hypotheses of MaintenanceTakesItsSteps and LineOperationsChangeTheirWay. -/
theorem test_hyp_maintenance :
    (inHand (hand 0x0200 [1, 1] sv) 0x0200 = true ∧ sv.lc.queue = [] ∧ sv.lc.cur = none ∧
      mntRefused ct sv (mntOf 1 1) = false ∧ (1 : BitVec 64).extractLsb' 35 22 = 0 ∧ (1 : BitVec 64).extractLsb' 35 29 = 0) ∧
    (serving held = true ∧ mntNext held (mnt 5) = some 1 ∧ lineFilling held 1 = false) ∧
    (findWay held 1 = some (wayKey 1 0) ∧ (getWay (setWay (wayKey 1 0) { valid := true, tag := tagOf 1 } sv) (wayKey 1 0)).sd = 0 ∧
      lockedInSet held 1 < rg ct 0xC0030 0 4) := by decide +kernel

/-- The hypotheses of the invariants: a step that goes on from a state with the lock set, the registers in their ranges and
canonical, and the fuse blown. -/
theorem test_hyp_invariants :
    (st sv).ctl.cfgLocked = true ∧ RangesOk (st sv).ctl ∧ CtlWf (st sv).ctl ∧ (∃ t, step (st sv) = .next t) ∧
      ({ ct with returnedFuse := true }).returnedFuse = true ∧ touchesCtl .nop = false ∧
      (∀ i, (st sv).pending.head? = some i → ¬ Misreads ct i) ∧ ∃ t, exec .nop (st sv) = .next t := by
  refine ⟨rfl, ?_, ⟨List.Pairwise.nil, fun _ h => nomatch h⟩, ⟨_, rfl⟩, rfl, rfl, (fun _ h => nomatch h), ⟨_, rfl⟩⟩
  unfold RangesOk
  decide +kernel

/-- The hypotheses of BucketsClassesAndHorizonFollowTheirTables, ResetAndWorkedExamplesHold, LockedDecodersHoldUntilConventionalReset and
RegisterInstancesDoNotOverlap. -/
theorem test_hyp_tables :
    (entryMask (mkEntry 5 1 2 0) = 0 ∧ entryMask (mkEntry 5 1 2 0x7FFF) ≠ 0 ∧ entryRecent (mkEntry 5 1 2 0x7FFF) = 2 ∧
      entryMask (mkEntry 5 1 2 0x7FFF) ||| BitVec.ofNat 16 (2 ^ 15) = 0xFFFF ∧
      (entryMask (mkEntry 5 1 2 0x7FFF)).getLsbD 15 = false ∧
      entryMask (mkEntry 5 1 2 1) ||| BitVec.ofNat 16 (2 ^ 15) ≠ 0xFFFF) ∧
    (let d := { sv with hif := { sv.hif with decoders := [{}, {}, {}, { committed := true, lock := true }] } };
      (decoderAt d 3).committed = true ∧ (decoderAt d 3).lock = true) ∧
    (∃ r ∈ regTable, regHas r 0 0 0) := by
  refine ⟨by decide +kernel, by decide +kernel, ?_⟩
  unfold regHas
  decide +kernel

/-- Each well-formedness check refuses a number past the last (R33, R35, R344, R411, R425, R430). -/
theorem test_wf_refuses :
    (Instr.alertN 17).wf = false ∧ (Instr.stsResponse 16 4 burst0 true).wf = false ∧ (Instr.programmingRight 128).wf = false ∧
    (Instr.railOnStep 12).wf = false ∧ (Instr.heartbeat 4 none).wf = false ∧ (Instr.queueReset 64).wf = false ∧
    (Instr.refreshSlot 32 0).wf = false ∧ (Instr.vectorUnmask 96).wf = false ∧
    (Instr.replay (List.replicate 18 0) []).wf = false ∧ (Instr.decoderCommitClear 4).wf = false ∧
    (Instr.counterWrite 24 0 0).wf = false ∧ (Instr.counterWrite 0 8 0).wf = false ∧
    (Instr.lowWordRead .host 0x2010000).wf = false ∧ (Instr.rcRead .host 0 0).wf = false ∧
    (Instr.blockTimeout false 17).wf = false ∧ (Instr.zoneUpdate [⟨105, 0⟩]).wf = false ∧
    (Instr.speedMeasurement 8 0).wf = false ∧ (Instr.mediaTraining []).wf = false ∧ (Instr.dbgAccess (.halt 4)).wf = false := by
  decide

/-- The last number each check takes is well-formed. -/
theorem test_wf_takes :
    (Instr.alertN 16).wf = true ∧ (Instr.stsResponse 16 3 burst0 true).wf = true ∧ (Instr.programmingRight 127).wf = true ∧
    (Instr.railOnStep 11).wf = true ∧ (Instr.queueReset 63).wf = true ∧ (Instr.vectorUnmask 95).wf = true ∧
    (Instr.counterWrite 23 7 0).wf = true ∧ (Instr.zoneUpdate [⟨104, 0⟩]).wf = true := by decide

/-- The table gives no row bits, so no word spells a command. -/
theorem test_decode_none : decodeTableWord 16 0xFFFF = none := rfl

/-- The register and instance at an offset, as R428's example gives them. -/
theorem test_register_offsets :
    (findReg 0x270018).map (fun h => (h.i, h.j, h.word)) = some (7, 2, 0) ∧
    (findReg 0x40C004).map (fun h => (h.i, h.j, h.word)) = some (12, 0, 0) ∧
    (findReg 0x41AF4).map (fun h => (h.i, h.j, h.word)) = some (5, 30, 1) ∧
    (findReg 0x30480).map (fun h => (h.i, h.word)) = some (0x20, 0) := by decide +kernel

/-- The datapath of a next state. -/
def after (o : Host.Outcome State Fault Refusal) : Dp := match o with
  | .next t => t.dp
  | _ => Dp.reset

/-- R254, R178: a read of a sector the line cache holds is answered with its value. -/
theorem test_read_of_held_sector :
    (after (exec (.memrd 0x140 .ok .ok) (st held))).out.head? = some (.resp 0 (.memData 5 9 false)) := by decide +kernel

/-- R355, R341: MODE_FALLOW_ENTER in SERVE leaves FALLOW with cause 0x0F. -/
theorem test_fallow_enter :
    (after (exec .modeFallowEnter (st (hand 0x0902 [] sv)))).sup.mode = .fallow ∧
    (after (exec .modeFallowEnter (st (hand 0x0902 [] sv)))).sup.cause = 0x0F := by decide +kernel

/-- R356: PWR_FAIL_N in SERVE begins DRAIN with cause 0x02. -/
theorem test_power_fail : (after (exec .pwrFailNAsserted (st sv))).sup.mode = .drain ∧
    (after (exec .pwrFailNAsserted (st sv))).sup.cause = 0x02 := by decide +kernel

/-- R246: Bus Master Enable cleared holds a message; R119: Global Persistent Flush phase 1 is acknowledged. -/
theorem test_link_events : (msix 5 (after (exec (.busMasterEnable false) (st sv)))).hif.heldWrites = [.message 5] ∧
    (after (exec .gpfPhase1 (st sv))).out = [.gpfAck 1] := by decide +kernel

/-- R53: AES-256 as FIPS 197 gives it for its example key and block. -/
theorem test_aes : aes256 0x000102030405060708090a0b0c0d0e0f101112131415161718191a1b1c1d1e1f 0x00112233445566778899aabbccddeeff =
    0x8ea2b7ca516745bfeafc49904b496089 := by decide +kernel

/-- R395: SHA-384 as FIPS 180-4 gives it for the three bytes abc. -/
theorem test_sha : sha384 [0x61, 0x62, 0x63] =
    0xcb00753f45a35e8bb5a03d699ac65007272c32ab0eded1631a8b605a43ff5bed8086072ba1e7cc2358baeca134c825a7 := by decide +kernel

/-- R381: HMAC-SHA-384 as RFC 4231 gives it for its first test. -/
theorem test_hmac : hmac384 (List.replicate 20 0x0B) [0x48, 0x69, 0x20, 0x54, 0x68, 0x65, 0x72, 0x65] =
    0xafd03944d84895626b0825f4ab46907f15f9dadbe4101ec682aa034c7cebc59cfaea9ea9076ede7f4af152e8b2fa9cb6 := by decide +kernel

/-- R91: XTS-AES-256 as IEEE 1619 gives it for the first block of data unit 0xFF (its vector 10); the two keys are its key 1 and
its key 2. -/
theorem test_xts : xtsBlock
    0x27182818284590452353602874713526624977572470936999595749669676273141592653589793238462643383279502884197169399375105820974944592
    0xFF 0 0x000102030405060708090a0b0c0d0e0f = 0x1c3b3a102f770386e4836c99e370cf9b := by decide +kernel

/-- R170: a wrong bit of a group of the parameter store is corrected. -/
theorem test_pst_code : pstDecode 0x8000 = some 0 := by decide +kernel

/-- The three balls the spec places by name (R444). -/
theorem test_balls :
    (ballAt 34 7 = .mc 4 (.csN 2) ∧ rowName 34 = ['A', 'T']) ∧ (ballAt 21 51 = .mc 13 (.dq 9) ∧ rowName 21 = ['A', 'B']) ∧
    (ballAt 49 28 = .mc 8 (.ck false) ∧ rowName 49 = ['B', 'L']) := by decide +kernel

/-- R132: the horizon is eight bits wide and wraps. -/
theorem test_horizon_wraps :
    (after (exec .horizonTick (st { sv with mh := { sv.mh with now := 0xFF } }))).mh.now = 0 := by decide +kernel

/-- R303, R302: counter 16 counts by one. -/
theorem test_counter : cntValue (cntInc 16 ct) 16 = 1 ∧ cntValue (cntInc 16 ct) 17 = 0 := by decide +kernel

/-- R14: with no command waiting a step is the block's tick. -/
theorem test_idle_step : step (st sv) = .next (tick (st sv)) := rfl

/-- R14: a waiting command runs, leaves the queue, and takes no time. -/
theorem test_step : (after (step { st sv with pending := [.gpfPhase1] })).now = 0 ∧
    (match step { st sv with pending := [.gpfPhase1] } with
      | .next t => t.pending == []
      | _ => false) = true := by decide +kernel

end Sys2Proof.Tests
end

section
/-! SUPPORT. What leaves the HDM decoders as they are (R261): the outputs, counts and answers of the host interface, the link
going down, FLR, and the start of a warm RISE. -/

namespace Sys2Proof.Laws

open Sys2Proof.Machine

/-- A chain of changes that each leave the decoders leaves them. -/
theorem foldl_decoders {α : Type} (l : List α) (f : Dp → α → Dp) (h : ∀ d a, (f d a).hif.decoders = d.hif.decoders) (d : Dp) :
    (l.foldl f d).hif.decoders = d.hif.decoders :=
  List.foldlRecOn (motive := fun x => x.hif.decoders = d.hif.decoders) l f rfl fun x hx a _ => (h x a).trans hx

/-- A chain of changes that each leave the host interface leaves it. -/
theorem foldl_hif {α : Type} (l : List α) (f : Dp → α → Dp) (h : ∀ d a, (f d a).hif = d.hif) (d : Dp) :
    (l.foldl f d).hif = d.hif :=
  List.foldlRecOn (motive := fun x => x.hif = d.hif) l f rfl fun x hx a _ => (h x a).trans hx

@[simp] theorem raise_hif (src kind addr aux master access : Nat) (d : Dp) :
    (raise src kind addr aux master access d).hif = d.hif := by
  obtain ⟨flt, e⟩ := raise_frame src kind addr aux master access d
  rw [e]

@[simp] theorem pmuOthers_hif (c : Ctl) (u code k : Nat) (d : Dp) : (pmuOthers c u code k d).hif = d.hif := by
  obtain ⟨pmu, e⟩ := pmuOthers_frame c u code k d
  rw [e]

@[simp] theorem pmuBytes_hif (p k : Nat) (d : Dp) : (pmuBytes p k d).hif = d.hif := by
  unfold pmuBytes
  split <;> rfl

@[simp] theorem msix_decoders (v : Nat) (d : Dp) : (msix v d).hif.decoders = d.hif.decoders := by
  unfold msix
  split
  · rfl
  · split <;> rfl

@[simp] theorem pmuAdd_decoders (c : Ctl) (u n k : Nat) (d : Dp) : (pmuAdd c u n k d).hif.decoders = d.hif.decoders := by
  unfold pmuAdd
  dsimp only
  split
  · rfl
  · split
    · exact msix_decoders 71 _
    · rfl

@[simp] theorem pmuTicks_decoders (c : Ctl) (u code k : Nat) (d : Dp) :
    (pmuTicks c u code k d).hif.decoders = d.hif.decoders := by
  unfold pmuTicks
  extract_lets d1
  have h1 : d1.hif = d.hif := by
    unfold d1
    split
    · exact pmuOthers_hif c u code k d
    · rfl
  split
  · rw [h1]
  · rw [foldl_decoders, h1]
    intro e n
    split
    · split
      · rfl
      · exact pmuAdd_decoders c u n k e
    · rfl

@[simp] theorem pmuCount_decoders (c : Ctl) (u code k : Nat) (d : Dp) :
    (pmuCount c u code k d).hif.decoders = d.hif.decoders := by
  unfold pmuCount
  split
  · rfl
  · exact pmuTicks_decoders c u code k d

/-! The answers of the host interface. -/

@[simp] theorem closeWait_decoders (tag : Nat) (d : Dp) : (closeWait tag d).hif.decoders = d.hif.decoders := rfl

@[simp] theorem useS2m_decoders (tag : Nat) (r : Resp) (d : Dp) : (useS2m tag r d).hif.decoders = d.hif.decoders := rfl

@[simp] theorem recordRead_decoders (c : Ctl) (line : SecAddr) (lat : Nat) (ceiling : Bool) (d : Dp) :
    (recordRead c line lat ceiling d).hif.decoders = d.hif.decoders := by
  unfold recordRead
  dsimp only
  split
  · split
    · rfl
    · simp
  · simp

@[simp] theorem putSample_decoders (c : Ctl) (x : Sample) (d : Dp) : (putSample c x d).hif.decoders = d.hif.decoders := by
  unfold putSample
  dsimp only
  split
  · rfl
  · split
    · exact msix_decoders 71 _
    · rfl

@[simp] theorem recordAnswer_decoders (c : Ctl) (p : Pend) (r : Resp) (d : Dp) :
    (recordAnswer c p r d).hif.decoders = d.hif.decoders := by
  unfold recordAnswer
  extract_lets lat rd fault ceiling d1 d2 d3 kind
  have h1 : d1.hif.decoders = d.hif.decoders := by unfold d1; split <;> simp
  have h2 : d2.hif.decoders = d1.hif.decoders := by unfold d2; split <;> simp
  have h3 : d3.hif.decoders = d2.hif.decoders := by unfold d3; split <;> simp
  rw [← h1, ← h2, ← h3]
  split
  · exact putSample_decoders c _ d3
  · rfl

@[simp] theorem giveCredit_decoders (c : Ctl) (d : Dp) : (giveCredit c d).hif.decoders = d.hif.decoders := by
  obtain ⟨b, e⟩ := updWithhold_frame c d
  unfold giveCredit
  rw [e]
  dsimp only
  split
  · split <;> rfl
  · rfl

@[simp] theorem freeEntry_decoders (c : Ctl) (d : Dp) : (freeEntry c d).hif.decoders = d.hif.decoders := by
  unfold freeEntry
  split
  · rfl
  · split
    · rfl
    · exact giveCredit_decoders c d

@[simp] theorem sendAnswer_decoders (c : Ctl) (p : Pend) (r : Resp) (d : Dp) :
    (sendAnswer c p r d).hif.decoders = d.hif.decoders := by
  unfold sendAnswer
  extract_lets d1 d2 d3 d4
  have h1 : d1.hif.decoders = d.hif.decoders := by unfold d1; split <;> rfl
  have h2 : d2.hif.decoders = d1.hif.decoders := by
    unfold d2
    split
    · split <;> simp
    · rfl
  have h3 : d3.hif.decoders = d2.hif.decoders := recordAnswer_decoders c p r d2
  have h4 : d4.hif.decoders = d3.hif.decoders := by
    unfold d4
    split
    · split <;> rfl
    · rfl
  rw [freeEntry_decoders, h4, h3, h2, h1]

@[simp] theorem stallAnswer_decoders (c : Ctl) (p : Pend) (r : Resp) (d : Dp) :
    (stallAnswer c p r d).hif.decoders = d.hif.decoders := by
  unfold stallAnswer
  split
  · rfl
  · split
    · rfl
    · exact pmuCount_decoders c 0 0x20 1 _

theorem flushGo_decoders (c : Ctl) (ps kept : List Pend) (d : Dp) : (flushGo c ps kept d).hif.decoders = d.hif.decoders := by
  induction ps generalizing kept d with
  | nil => rfl
  | cons p ps ih =>
    unfold flushGo
    split
    · exact ih _ d
    · split
      · exact ih _ d
      · split
        · rw [ih, sendAnswer_decoders]
        · rw [ih, stallAnswer_decoders]

theorem gpfSettle_decoders (d : Dp) : (gpfSettle d).hif.decoders = d.hif.decoders := by
  unfold gpfSettle
  split
  · rfl
  · split <;> rfl

theorem flushAnswers_decoders (c : Ctl) (d : Dp) : (flushAnswers c d).hif.decoders = d.hif.decoders := by
  rw [flushAnswers, gpfSettle_decoders, flushGo_decoders]

/-! The resets of R262. -/

/-- R261, R262: the link going down leaves every decoder. -/
theorem linkDown_decoders (c : Ctl) (d : Dp) : (linkDown c d).hif.decoders = d.hif.decoders := flushAnswers_decoders c _

/-- R261: FLR leaves every decoder. -/
theorem flrDp_decoders (d : Dp) : (flrDp d).hif.decoders = d.hif.decoders := by
  unfold flrDp
  dsimp only
  split
  · split <;> rfl
  · rfl

/-- R261: a hot reset leaves every decoder. -/
theorem hotResets_decoders (c : Ctl) (d : Dp) : (hotResets c d).2.hif.decoders = d.hif.decoders := by
  unfold hotResets
  split
  · exact (flrDp_decoders _).trans (linkDown_decoders c d)
  · rfl

/-! The exit from DORMANT and the start of a warm RISE, in which PERST_N goes on (R360). -/

theorem startStore_hif (told : Bool) (d : Dp) : (startStore told d).hif = d.hif := by
  unfold startStore
  split <;> rfl

theorem everyPackage_hif (kind : Nat → MopKind) (d : Dp) : (everyPackage kind d).hif = d.hif := by
  refine foldl_hif _ _ (fun d k => foldl_hif _ _ (fun d w => ?_) d) d
  split
  · exact addMop_hif ..
  · rfl

theorem everyChannel_hif (f : Chan → Chan) (d : Dp) : (everyChannel f d).hif = d.hif := by
  refine foldl_hif _ _ (fun d k => ?_) d
  split <;> rfl

theorem wakeMedia_hif (d : Dp) : (wakeMedia d).hif = d.hif := by
  rw [wakeMedia, everyPackage_hif, everyPackage_hif, everyChannel_hif, dropMops_hif]

theorem beginWake_decoders (c : Ctl) (cause : BitVec 8) (d : Dp) : (beginWake c cause d).hif.decoders = d.hif.decoders := by
  unfold beginWake
  split
  · rfl
  · rw [wakeMedia_hif, moveVcore_hif]

theorem setMode_decoders (m : Mode) (cause : BitVec 8) (d : Dp) : (setMode m cause d).hif.decoders = d.hif.decoders := by
  unfold setMode
  dsimp only
  split
  · exact msix_decoders 72 _
  · rfl

theorem closeDebug_hif (d : Dp) : (closeDebug d).hif = d.hif := by
  unfold closeDebug
  split <;> rfl

theorem writesLost_hif (d : Dp) : (writesLost d).hif = d.hif := by
  unfold writesLost
  split
  · rfl
  · split
    · rfl
    · split <;> rfl

/-- A warm RISE starts with the host's decoders (R360). -/
theorem wipe_warm_decoders (d : Dp) : (wipe true d).hif.decoders = d.hif.decoders := by
  show (writesLost d).hif.decoders = d.hif.decoders
  rw [writesLost_hif]

theorem damaged_hif (cls : Nat) (d : Dp) : (damaged cls d).hif = d.hif := raise_hif ..

theorem meetDamaged_hif (pages : List Nat) (d : Dp) : (meetDamaged pages d).hif = d.hif := by
  refine foldl_hif _ _ (fun d p => ?_) d
  split
  · exact damaged_hif ..
  · rfl

theorem pagesRead_hif (pages : List Nat) (d : Dp) : (pagesRead pages d).hif = d.hif := by
  rw [pagesRead, meetDamaged_hif]
  refine foldl_hif _ _ (fun d p => ?_) d
  split <;> rfl

theorem countRead_hif (x : Ctl × Dp) (n : Nat) : (countRead x n).2.hif = x.2.hif := by
  unfold countRead
  extract_lets mended _ _ d
  have h : d.hif = x.2.hif := by unfold d; split <;> rfl
  split
  · exact h
  · rw [← h]
    exact damaged_hif 7 d

theorem storeRead_hif (x : Ctl × Dp) : (storeRead x).2.hif = x.2.hif :=
  List.foldlRecOn (motive := fun y => y.2.hif = x.2.hif) (List.range 32) countRead (pagesRead_hif _ x.2)
    fun y hy n _ => (countRead_hif y n).trans hy

theorem applyRepairs_hif (all : Bool) (d : Dp) : (applyRepairs all d).hif = d.hif :=
  foldl_hif _ _ (fun _ _ => raise_hif ..) _

theorem beginFill_hif (d : Dp) : (beginFill d).hif = d.hif := applyRepairs_hif true d

theorem seedLfsrs_hif (d : Dp) : (seedLfsrs d).hif = d.hif := rfl

theorem setLog_hif (sev : Nat) (l : EvLog) (d : Dp) : (setLog sev l d).hif = d.hif := by
  unfold setLog
  split <;> rfl

theorem eventRecord_decoders (c : Ctl) (sev text value : Nat) (d : Dp) :
    (eventRecord c sev text value d).hif.decoders = d.hif.decoders := by
  unfold eventRecord writeEvent
  extract_lets l _ d1 d2
  have h : d2.hif.decoders = d.hif.decoders := by
    unfold d2 d1
    rw [pmuCount_decoders, setLog_hif]
  split
  · rw [msix_decoders, h]
  · exact h

theorem loadSecurity_decoders (c : Ctl) (d : Dp) : (loadSecurity c d).hif.decoders = d.hif.decoders := by
  unfold loadSecurity
  extract_lets bad r0 r1 r1' r2 r st _ _ d1 d2
  have h : d2.hif.decoders = d.hif.decoders := by
    unfold d2
    split
    · exact eventRecord_decoders c 2 12 16 d1
    · rfl
  split
  · rw [eventRecord_decoders, h]
  · exact h

theorem startWarmRise_decoders (cause : BitVec 8) (c : Ctl) (d : Dp) :
    (startWarmRise cause c d).2.hif.decoders = d.hif.decoders := by
  unfold startWarmRise
  extract_lets x c1 d1
  have h : d1.hif.decoders = d.hif.decoders := by
    rw [storeRead_hif, wipe_warm_decoders, setMode_decoders, closeDebug_hif]
  rw [loadSecurity_decoders, seedLfsrs_hif, beginFill_hif, h]

theorem tryWarmRise_decoders (c : Ctl) (d : Dp) : (tryWarmRise c d).2.hif.decoders = d.hif.decoders := by
  unfold tryWarmRise
  split
  · exact startWarmRise_decoders _ c d
  · rfl

end Sys2Proof.Laws
end

section
/-! PROOF. Locked decoders hold until a conventional reset (R261). -/

namespace Sys2Proof.Laws

open Sys2Proof.Machine

/-- R259: a commit finds a committed decoder and changes nothing. -/
theorem commitsDecoder_committed {n : Nat} {d : Dp} (x : Decoder) (c : Ctl) (h : (decoderAt d n).committed = true) :
    commitsDecoder n x c d = d := by
  simp [commitsDecoder, h]

/-- R261: a clearing of Commit finds a locked decoder and changes nothing. -/
theorem clearsDecoder_locked {n : Nat} {d : Dp} (h : (decoderAt d n).committed = true) (h' : (decoderAt d n).lock = true) :
    clearsDecoder n d = d := by
  simp [clearsDecoder, h, h']

/-- R262: what PERST_N does to the function leaves every decoder cleared. -/
theorem conventionalReset_decoders (c : Ctl) (d : Dp) :
    (flrBoth c (clearDecoders d)).2.hif.decoders = List.replicate 4 {} := flrDp_decoders _

/-- R261: PERST_N clears every decoder, whatever follows it: nothing more, the exit from DORMANT, or a warm RISE. -/
theorem perstAsserts_decoders (c : Ctl) {d : Dp} (ha : d.sup.aux = true) (hp : d.sup.perstN = true) (hm : d.sup.mode ≠ .off) :
    (perstAsserts c d).2.hif.decoders = List.replicate 4 {} := by
  unfold perstAsserts
  rw [if_neg (by simp [ha, hp])]
  extract_lets _ d1 _ x d2
  have hx : x.2.hif.decoders = List.replicate 4 {} := conventionalReset_decoders c (linkDown c d1)
  have h2 : d2.hif.decoders = List.replicate 4 {} := by rw [startStore_hif, hx]
  rw [if_neg hm]
  split
  · exact hx
  · split
    · exact (beginWake_decoders ..).trans h2
    · exact (tryWarmRise_decoders ..).trans h2

/-- Settles O58: a locked decoder stops both commands on it, each part of a hot reset and of FLR leaves the decoders, and no
part of PERST_N after their clearing writes them again. -/
theorem lockedDecodersHoldUntilConventionalReset : Obligations.LockedDecodersHoldUntilConventionalReset := by
  intro s
  refine ⟨fun n base size skip iw ig lock hc hl => ⟨⟨_, rfl, ?_⟩, ⟨_, rfl, ?_⟩⟩, ⟨_, rfl, ?_⟩, ⟨_, rfl, ?_⟩,
    fun ha hp hm => ⟨_, rfl, ?_⟩⟩
  · exact congrArg (decoderAt · n) (commitsDecoder_committed _ s.ctl hc)
  · exact congrArg (decoderAt · n) (clearsDecoder_locked hc hl)
  · exact hotResets_decoders s.ctl s.dp
  · show (if linkUp s.dp = true then flrBoth s.ctl s.dp else (s.ctl, s.dp)).2.hif.decoders = s.dp.hif.decoders
    split
    · exact flrDp_decoders s.dp
    · rfl
  · exact perstAsserts_decoders s.ctl ha hp hm

end Sys2Proof.Laws
end

section
/-! PROOF. Debug access is denied outside service (R405). -/

namespace Sys2Proof.Laws

open Sys2Proof.Machine

/-- R405: a denied access drives one word of zeros out of the port. -/
@[simp] theorem deny_out (d : Dp) : (deny d).out = d.out ++ [.jtag 0] := rfl

/-- R405: with the port powered, DORMANT and RISE deny the access before the debug state is looked at. -/
theorem debugAccess_of_dormant_or_rise (op : DbgOp) (c : Ctl) {d : Dp} (hj : jtagUp d = true)
    (hm : d.sup.mode = .dormant ∨ d.sup.mode = .rise) : debugAccess op c d = (c, deny d) := by
  have powered : ¬ ((!jtagUp d) = true ∨ d.sup.mode = .off) := by
    rcases hm with hm | hm <;> simp [hj, hm]
  simp only [debugAccess, Bool.or_eq_true, decide_eq_true_eq, if_neg powered, if_pos hm]

/-- R405: in OFF the port is unpowered, and an access does nothing. -/
theorem debugAccess_of_off (op : DbgOp) (c : Ctl) {d : Dp} (hm : d.sup.mode = .off) : debugAccess op c d = (c, d) := by
  simp [debugAccess, hm]

/-- DBG_ACCESS always completes, and its effect is debugAccess on the control state and the datapath. -/
theorem exec_dbgAccess (op : DbgOp) (s : State) :
    exec (.dbgAccess op) s =
      .next { s with ctl := (debugAccess op s.ctl s.dp).1, dp := (debugAccess op s.ctl s.dp).2 } := rfl

/-- Settles O60: DORMANT and RISE deny whatever the debug state, and OFF leaves the state as it was. -/
theorem debugAccessIsDeniedOutsideService : Obligations.DebugAccessIsDeniedOutsideService := by
  intro s op
  constructor
  · intro hj hm
    have denied := debugAccess_of_dormant_or_rise op s.ctl hj hm
    exact ⟨_, exec_dbgAccess op s, by rw [denied], by rw [denied, deny_out]⟩
  · intro hm
    rw [exec_dbgAccess, debugAccess_of_off op s.ctl hm]

end Sys2Proof.Laws
end

section
/-! SUPPORT. Where the words of the register map lie (R428): `hitDef` and `regAt` invert one another on a register whose
indices fit in their strides, and each register of the map is clear of those listed after it. -/

namespace Sys2Proof.Laws

open Sys2Proof.Machine

/-- The stride of index k of a register; 0 without that index. -/
def regStride (r : RegDef) (k : Nat) : Nat := ((r.dims[k]?).map (·.1)).getD 0

/-- How many values index k of a register takes; 1 without that index. -/
def regCount (r : RegDef) (k : Nat) : Nat := ((r.dims[k]?).map (·.2)).getD 1

/-- The bytes that one value of the first index takes, from its first word to the end of its last. -/
def instSpan (r : RegDef) : Nat := (regCount r 1 - 1) * regStride r 1 + 4 * r.words

/-- The bytes from a register's base to the end of its last word. -/
def regSpan (r : RegDef) : Nat := (regCount r 0 - 1) * regStride r 0 + instSpan r

/-- An index whose every value has its own stride of bytes, at least the span; or no index, with its one value 0. -/
abbrev IndexFits (n st span : Nat) : Prop := n = 1 ∧ st = 0 ∨ span ≤ st

/-- The words of a register lie on the word grid, and each of its indices fits in its stride. -/
abbrev RegFits (r : RegDef) : Prop :=
  (4 ∣ r.off ∧ 4 ∣ regStride r 0 ∧ 4 ∣ regStride r 1) ∧
    IndexFits (regCount r 0) (regStride r 0) (instSpan r) ∧ IndexFits (regCount r 1) (regStride r 1) (4 * r.words)

/-- A register clear of another: it ends before the other begins, or the two share the stride of their first index and,
within each stride, the one ends before the other begins. -/
abbrev ClearOf (r r' : RegDef) : Prop :=
  r.off + regSpan r ≤ r'.off ∨
    regStride r 0 = regStride r' 0 ∧ r.off % regStride r 0 + instSpan r ≤ r'.off % regStride r 0 ∧
      r'.off % regStride r 0 + instSpan r' ≤ regStride r 0

theorem regTable_fits : ∀ r ∈ regTable, RegFits r := by decide +kernel

theorem regTable_clear : regTable.Pairwise ClearOf := by decide +kernel

theorem regAt_eq (r : RegDef) (i j w : Nat) :
    regAt r i j w = r.off + (i * regStride r 0 + (j * regStride r 1 + 4 * w)) := by
  simp only [regAt, regStride, Nat.add_assoc]

theorem regHas_iff (r : RegDef) (i j w : Nat) :
    regHas r i j w ↔ i < regCount r 0 ∧ j < regCount r 1 ∧ w < r.words := Iff.rfl

/-- `hitDef` for any number of indices: without an index its stride is 0, and dividing by 0 leaves all as remainder. -/
theorem hitDef_eq (r : RegDef) (off : Nat) :
    hitDef r off =
      if off < r.off ∨ off % 4 ≠ 0 then none
      else if (off - r.off) / regStride r 0 < regCount r 0 ∧
          (off - r.off) % regStride r 0 / regStride r 1 < regCount r 1 ∧
          (off - r.off) % regStride r 0 % regStride r 1 / 4 < r.words then
        some ⟨r, (off - r.off) / regStride r 0, (off - r.off) % regStride r 0 / regStride r 1,
          (off - r.off) % regStride r 0 % regStride r 1 / 4⟩
      else none := by
  obtain ⟨name, base, dims, words, flds⟩ := r
  match dims with
  | [] => simp [hitDef, regStride, regCount]
  | [_] => simp [hitDef, regStride, regCount]
  | _ :: _ :: _ => simp [hitDef, regStride, regCount]

/-- A digit and a remainder are read back by division, where the index fits. -/
theorem digit_and_rest {n st span i x : Nat} (fits : IndexFits n st span) (hi : i < n) (hx : x < span) :
    (i * st + x) / st = i ∧ (i * st + x) % st = x := by
  rcases fits with ⟨rfl, rfl⟩ | le
  · simp [Nat.lt_one_iff.1 hi]
  · exact (Nat.div_mod_unique (by omega)).2 ⟨by rw [Nat.mul_comm, Nat.add_comm], by omega⟩

/-- What lies at digit i stays below the span of all n digits. -/
theorem digit_lt {n st span i x : Nat} (hi : i < n) (hx : x < span) : i * st + x < (n - 1) * st + span :=
  Nat.add_lt_add_of_le_of_lt (Nat.mul_le_mul_right st (by omega)) hx

theorem word_lt_instSpan {r : RegDef} {i j w : Nat} (has : regHas r i j w) :
    j * regStride r 1 + 4 * w < instSpan r := by
  obtain ⟨-, hj, hw⟩ := (regHas_iff ..).1 has
  exact digit_lt hj (by omega)

/-- A word of a register is found at its own offset. -/
theorem hitDef_regAt {r : RegDef} {i j w : Nat} (fits : RegFits r) (has : regHas r i j w) :
    hitDef r (regAt r i j w) = some ⟨r, i, j, w⟩ := by
  obtain ⟨⟨hoff, h0, h1⟩, fits0, fits1⟩ := fits
  obtain ⟨hi, hj, hw⟩ := (regHas_iff ..).1 has
  obtain ⟨di, ri⟩ := digit_and_rest fits0 hi (word_lt_instSpan has)
  obtain ⟨dj, rj⟩ := digit_and_rest fits1 hj (show 4 * w < 4 * r.words by omega)
  have aligned : 4 ∣ regAt r i j w := by
    rw [regAt_eq]
    exact hoff.add ((h0.mul_left i).add ((h1.mul_left j).add (Nat.dvd_mul_right 4 w)))
  have inside : ¬ (regAt r i j w < r.off ∨ regAt r i j w % 4 ≠ 0) := by rw [regAt_eq] at *; omega
  have rest : regAt r i j w - r.off = i * regStride r 0 + (j * regStride r 1 + 4 * w) := by rw [regAt_eq]; omega
  rw [hitDef_eq, if_neg inside, rest, di, ri, dj, rj, Nat.mul_div_cancel_left w (by decide), if_pos ⟨hi, hj, hw⟩]

/-- What is found at an offset is a word of the register, and lies there. -/
theorem regAt_of_hitDef {r : RegDef} {off : Nat} {h : RegHit} (fits : RegFits r) (found : hitDef r off = some h) :
    regHas r h.i h.j h.word ∧ regAt r h.i h.j h.word = off := by
  obtain ⟨⟨hoff, h0, h1⟩, -, -⟩ := fits
  rw [hitDef_eq, Option.ite_none_left_eq_some, Option.ite_none_right_eq_some] at found
  obtain ⟨inside, has, here⟩ := found
  obtain rfl := Option.some.inj here
  refine ⟨has, ?_⟩
  have split0 := Nat.div_add_mod' (off - r.off) (regStride r 0)
  have split1 := Nat.div_add_mod' ((off - r.off) % regStride r 0) (regStride r 1)
  have aligned : 4 ∣ (off - r.off) % regStride r 0 % regStride r 1 := by
    rw [Nat.dvd_mod_iff h1, Nat.dvd_mod_iff h0]
    omega
  rw [regAt_eq, Nat.mul_div_cancel' aligned, split1, split0]
  omega

/-- Within its first stride, a word lies past the residue of its register's base by its place at its first index. -/
theorem regAt_mod_stride {r : RegDef} {i j w : Nat} (has : regHas r i j w)
    (fits : r.off % regStride r 0 + instSpan r ≤ regStride r 0) :
    regAt r i j w % regStride r 0 = r.off % regStride r 0 + (j * regStride r 1 + 4 * w) := by
  have inst := word_lt_instSpan has
  rw [regAt_eq, Nat.add_left_comm, Nat.mul_add_mod', ← Nat.mod_add_mod]
  exact Nat.mod_eq_of_lt (by omega)

/-- No word of a register lies where a word of a register it is clear of does. -/
theorem regAt_ne_of_clearOf {r r' : RegDef} {i j w i' j' w' : Nat} (clear : ClearOf r r') (has : regHas r i j w)
    (has' : regHas r' i' j' w') : regAt r i j w ≠ regAt r' i' j' w' := by
  have inst := word_lt_instSpan has
  intro eq
  rcases clear with before | ⟨same, before, fits⟩
  · have inside : i * regStride r 0 + (j * regStride r 1 + 4 * w) < regSpan r := digit_lt has.1 inst
    rw [regAt_eq, regAt_eq] at eq
    omega
  · have residue := regAt_mod_stride has (by omega)
    have residue' := regAt_mod_stride has' (by rwa [← same])
    rw [eq, same, residue', ← same] at residue
    omega

/-- Settles O57: the word is found at its offset by its own register, and no register listed before it has a word there. -/
theorem registerInstancesDoNotOverlap : Obligations.RegisterInstancesDoNotOverlap := by
  intro r hr i j w has
  obtain ⟨before, after, parts⟩ := List.append_of_mem hr
  have clear : ∀ r' ∈ before, ClearOf r' r := by
    obtain ⟨-, -, across⟩ := List.pairwise_append.1 (parts ▸ regTable_clear)
    exact fun r' hr' => across r' hr' r List.mem_cons_self
  have unfound : ∀ r' ∈ before, hitDef r' (regAt r i j w) = none := by
    intro r' hr'
    rw [Option.eq_none_iff_forall_ne_some]
    intro h found
    have fits : RegFits r' := regTable_fits r' (parts ▸ List.mem_append_left _ hr')
    obtain ⟨has', there⟩ := regAt_of_hitDef fits found
    exact regAt_ne_of_clearOf (clear r' hr') has' has there
  exact List.findSome?_eq_some_iff.2 ⟨before, r, after, parts, hitDef_regAt (regTable_fits r hr) has, unfound⟩

end Sys2Proof.Laws
end

section
/-! SUPPORT. The fields of a register word (R9): which bits a field has, that the fields of a register do not overlap, and
what a write makes of the bits of a field that loads and of one that does not. -/

namespace Sys2Proof.Laws

open Sys2Proof.Machine

/-- Bit j of word w of a register is one of a field's when the field's limits enclose it. -/
theorem fieldMask_getLsbD (w j : Nat) (f : Fld) :
    (fieldMask w f).getLsbD j = decide (j < 32 ∧ f.lsb ≤ 32 * w + j ∧ 32 * w + j ≤ f.msb) := by
  unfold fieldMask fieldLo
  split
  · rw [BitVec.getLsbD_ofNat, Nat.testBit_mul_two_pow, Nat.testBit_two_pow_sub_one, ← Bool.decide_and, ← Bool.decide_and,
      decide_eq_decide]
    omega
  · rw [BitVec.ofNat_eq_ofNat, BitVec.getLsbD_zero, eq_comm, decide_eq_false_iff_not]
    omega

/-- Two fields with no bit in common. -/
abbrev Apart (f g : Fld) : Prop := f.msb < g.lsb ∨ g.msb < f.lsb

theorem regTable_apart : ∀ r ∈ regTable, r.flds.Pairwise Apart := by decide +kernel

/-- A bit of a field is no bit of a field apart from it. -/
theorem fieldMask_apart {f g : Fld} {w j : Nat} (apart : Apart f g) (h : (fieldMask w f).getLsbD j = true) :
    (fieldMask w g).getLsbD j = false := by
  rw [fieldMask_getLsbD, decide_eq_true_eq] at h
  rw [fieldMask_getLsbD, decide_eq_false_iff_not]
  rcases apart with apart | apart <;> omega

/-- A write of a field that does not load, or has not the bit, leaves the bit. -/
theorem loadOne_getLsbD_kept {locked : Bool} {h : RegHit} {f : Fld} {j : Nat} (data a : Word)
    (kept : fieldLoads locked f = true → (fieldMask h.word f).getLsbD j = false) :
    (loadOne locked h data a f).getLsbD j = a.getLsbD j := by
  unfold loadOne
  split
  · rename_i loads
    rw [BitVec.getLsbD_or, BitVec.getLsbD_and, BitVec.getLsbD_and, kept loads, BitVec.getLsbD_not, kept loads]
    by_cases hj : j < 32
    · simp [hj]
    · simp [BitVec.getLsbD_of_ge a j (by omega)]
  · rfl

/-- A bit that no field that loads has keeps its value through a chain of fields. -/
theorem loadFields_getLsbD_kept {locked : Bool} {h : RegHit} {j : Nat} (data : Word) {l : List Fld} (a : Word)
    (kept : ∀ f ∈ l, fieldLoads locked f = true → (fieldMask h.word f).getLsbD j = false) :
    (l.foldl (loadOne locked h data) a).getLsbD j = a.getLsbD j :=
  List.foldlRecOn (motive := fun x => x.getLsbD j = a.getLsbD j) l _ rfl
    fun x hx f hf => (loadOne_getLsbD_kept data x (kept f hf)).trans hx

/-- A write leaves the bits that no field that loads has. -/
theorem loadWord_getLsbD_kept {locked : Bool} {h : RegHit} {j : Nat} (old data : Word)
    (kept : ∀ f ∈ h.reg.flds, fieldLoads locked f = true → (fieldMask h.word f).getLsbD j = false) :
    (loadWord locked h old data).getLsbD j = old.getLsbD j :=
  loadFields_getLsbD_kept data old kept

/-- R9, R437: a write leaves the bits of a field that does not load, since no other field has them. -/
theorem loadWord_getLsbD_of_not_loads {locked : Bool} {h : RegHit} {f : Fld} {j : Nat} (old data : Word)
    (hr : h.reg ∈ regTable) (hf : f ∈ h.reg.flds) (still : fieldLoads locked f = false)
    (hj : (fieldMask h.word f).getLsbD j = true) : (loadWord locked h old data).getLsbD j = old.getLsbD j := by
  refine loadWord_getLsbD_kept old data fun g hg loads => ?_
  have ne : f ≠ g := fun e => by simp [← e, still] at loads
  have : Std.Symm Apart := ⟨fun _ _ => Or.symm⟩
  exact fieldMask_apart ((regTable_apart _ hr).forall hf hg ne) hj

/-- R9: the bits of a field that loads become those of the value that its description gives. -/
theorem loadWord_getLsbD_of_loads {locked : Bool} {h : RegHit} {f : Fld} {j : Nat} (old data : Word)
    (hr : h.reg ∈ regTable) (hf : f ∈ h.reg.flds) (loads : fieldLoads locked f = true)
    (hj : (fieldMask h.word f).getLsbD j = true) :
    (loadWord locked h old data).getLsbD j =
      (loadField h.reg.name h.i f.lsb (fieldOf h.word f data) * 2 ^ fieldLo h.word f).testBit j := by
  obtain ⟨before, after, parts⟩ := List.append_of_mem hf
  have apart := parts ▸ regTable_apart _ hr
  obtain ⟨-, cons, -⟩ := List.pairwise_append.1 apart
  obtain ⟨rest, -⟩ := List.pairwise_cons.1 cons
  have hj32 : j < 32 := by
    rw [fieldMask_getLsbD, decide_eq_true_eq] at hj
    exact hj.1
  rw [loadWord, parts, List.foldl_append, List.foldl_cons,
    loadFields_getLsbD_kept data _ fun g hg _ => fieldMask_apart (rest g hg) hj]
  rw [loadOne, if_pos loads, BitVec.getLsbD_or, BitVec.getLsbD_and, BitVec.getLsbD_and, BitVec.getLsbD_not, hj,
    BitVec.getLsbD_ofNat]
  simp [hj32]

/-- Bits lo to lo + n − 1 of a word, as a number, from the bits themselves. -/
theorem bits_testBit (w : Word) (lo n k : Nat) : (bits w lo n).testBit k = (decide (k < n) && w.getLsbD (lo + k)) := by
  rw [bits, Nat.testBit_mod_two_pow, Nat.testBit_div_two_pow, Nat.add_comm]
  rfl

theorem bits_lt (w : Word) (lo n : Nat) : bits w lo n < 2 ^ n := Nat.mod_lt _ (Nat.two_pow_pos n)

/-- A field of a register word of 32 bits after a write: kept, or the value of its description. -/
theorem bits_loadWord {h : RegHit} {f : Fld} (locked : Bool) (old data : Word) (hr : h.reg ∈ regTable) (hf : f ∈ h.reg.flds)
    (hw : h.word = 0) (hm : f.msb < 32) :
    bits (loadWord locked h old data) f.lsb (f.msb + 1 - f.lsb) =
      if fieldLoads locked f then loadField h.reg.name h.i f.lsb (fieldOf 0 f data) % 2 ^ (f.msb + 1 - f.lsb)
      else bits old f.lsb (f.msb + 1 - f.lsb) := by
  have inside : ∀ k, k < f.msb + 1 - f.lsb → (fieldMask h.word f).getLsbD (f.lsb + k) = true := by
    intro k hk
    rw [fieldMask_getLsbD, decide_eq_true_eq]
    omega
  refine Nat.eq_of_testBit_eq fun k => ?_
  rw [bits_testBit]
  by_cases hk : k < f.msb + 1 - f.lsb
  · rw [decide_eq_true hk, Bool.true_and]
    split
    · rename_i loads
      rw [loadWord_getLsbD_of_loads old data hr hf loads (inside k hk), Nat.testBit_mod_two_pow, decide_eq_true hk, hw]
      simp [fieldLo, Nat.testBit_mul_two_pow]
    · rename_i still
      rw [loadWord_getLsbD_of_not_loads old data hr hf (by simpa using still) (inside k hk), bits_testBit, decide_eq_true hk,
        Bool.true_and]
  · rw [decide_eq_false hk, Bool.false_and]
    split
    · rw [Nat.testBit_mod_two_pow, decide_eq_false hk, Bool.false_and]
    · rw [bits_testBit, decide_eq_false hk, Bool.false_and]

/-- The value of a field of a word is below the power of its width. -/
theorem fieldOf_lt (f : Fld) (w : Word) (hl : f.lsb ≤ f.msb) : fieldOf 0 f w < 2 ^ (f.msb + 1 - f.lsb) := by
  refine Nat.lt_pow_two_of_testBit _ fun k hk => ?_
  have out : (w &&& fieldMask 0 f).getLsbD (k + f.lsb) = false := by
    rw [BitVec.getLsbD_and, fieldMask_getLsbD, decide_eq_false (by omega), Bool.and_false]
  rw [fieldOf, Nat.testBit_div_two_pow]
  simpa [fieldLo, BitVec.getLsbD] using out

end Sys2Proof.Laws
end

section
/-! PROOF. Writes leave protected fields alone (R9, R437). -/

namespace Sys2Proof.Laws

open Sys2Proof.Machine

/-- Settles O16: bit by bit, a bit of the field is in no field that loads. -/
theorem writesLeaveProtectedFieldsAlone : Obligations.WritesLeaveProtectedFieldsAlone := by
  intro off h f locked old data found hf still
  refine BitVec.eq_of_getLsbD_eq fun j _ => ?_
  rw [BitVec.getLsbD_and, BitVec.getLsbD_and]
  cases hj : (fieldMask h.word f).getLsbD j with
  | false => rw [Bool.and_false, Bool.and_false]
  | true => rw [loadWord_getLsbD_of_not_loads old data (findReg_mem found).1 hf still hj]

end Sys2Proof.Laws
end

section
/-! SUPPORT. What the moves of the control state do to the register file: a word loads, or words go back to their reset
values. -/

namespace Sys2Proof.Laws

open Sys2Proof.Machine

/-- Of a register file cut down by a test of the offsets, a word that passes is as it was, and another at its reset value. -/
theorem crGet_filter (c : Ctl) (p : Nat × Word → Bool) (q : Nat → Bool) (hp : ∀ e, p e = q e.1) (c' : Ctl)
    (h : c'.cr = c.cr.filter p) (off : Nat) : crGet c' off = if q off then crGet c off else resetWord off := by
  unfold crGet
  rw [h]
  induction c.cr with
  | nil => simp [smGet]
  | cons e m ih =>
    obtain ⟨k, v⟩ := e
    rw [List.filter_cons, hp]
    by_cases hk : off = k
    · subst hk
      cases hq : q off with
      | false => simpa [hq] using ih
      | true => simp [smGet]
    · cases hq : q k with
      | false => simpa [hq, smGet, hk] using ih
      | true => simpa [smGet, hk] using ih

/-- FLR puts the queue registers at their reset values, and no other. -/
theorem crGet_flrCtl (c : Ctl) (off : Nat) : crGet (flrCtl c) off = if inCmq off then resetWord off else crGet c off := by
  rw [crGet_filter c (fun e => !inCmq e.1) (fun off => !inCmq off) (fun _ => rfl) (flrCtl c) rfl]
  cases inCmq off <;> rfl

/-- A RISE leaves a word as it was or puts it at its reset value. -/
theorem crGet_riseCtl (warm : Bool) (c : Ctl) (off : Nat) :
    crGet (riseCtl warm c) off = crGet c off ∨ crGet (riseCtl warm c) off = resetWord off := by
  rw [crGet_filter c _ (fun off => (0x10000 ≤ off && off < 0x20000) || (warm && off = 0x100000)) (fun _ => rfl)
    (riseCtl warm c) rfl]
  split
  · exact .inl rfl
  · exact .inr rfl

/-- With no word stored, every word is at its reset value. -/
theorem crGet_nil {c : Ctl} (h : c.cr = []) (off : Nat) : crGet c off = resetWord off := by
  rw [crGet, h]
  rfl

@[simp] theorem cntWrite_cr (n v : Nat) (c : Ctl) : (cntWrite n v c).cr = c.cr := by
  unfold cntWrite
  split <;> rfl

@[simp] theorem cntWrite_cfgLocked (n v : Nat) (c : Ctl) : (cntWrite n v c).cfgLocked = c.cfgLocked := by
  unfold cntWrite
  split <;> rfl

@[simp] theorem cntWrite_returnedFuse (n v : Nat) (c : Ctl) : (cntWrite n v c).returnedFuse = c.returnedFuse := by
  unfold cntWrite
  split <;> rfl

theorem advanceFw_cr (d : Dp) (c : Ctl) : (advanceFw d c).cr = c.cr := by
  unfold advanceFw
  split
  · exact cntWrite_cr ..
  · rfl

theorem advanceFw_cfgLocked (d : Dp) (c : Ctl) : (advanceFw d c).cfgLocked = c.cfgLocked := by
  unfold advanceFw
  split
  · exact cntWrite_cfgLocked ..
  · rfl

theorem lockSet_cr {a b : Ctl} (h : LockSet a b) : b.cr = a.cr := by
  obtain ⟨d, rfl⟩ := h
  exact advanceFw_cr d a

/-- The word at an offset depends on the register file alone. -/
theorem crGet_congr {a b : Ctl} (h : b.cr = a.cr) (off : Nat) : crGet b off = crGet a off := by rw [crGet, crGet, h]

theorem rg_congr {a b : Ctl} {off : Nat} (h : crGet b off = crGet a off) (lo n : Nat) : rg b off lo n = rg a off lo n := by
  rw [rg, rg, h]

end Sys2Proof.Laws
end

section
/-! PROOF. Locked fields hold their values (R10, R437). -/

namespace Sys2Proof.Laws

open Sys2Proof.Machine

/-- A bit of the RWL fields of a word is a bit of one RWL field of its register. -/
theorem rwlMask_getLsbD {off j : Nat} {h : RegHit} (found : findReg off = some h) (hj : (rwlMask off).getLsbD j = true) :
    ∃ f ∈ h.reg.flds, f.acc = .rwl ∧ (fieldMask h.word f).getLsbD j = true := by
  have gather : ∀ (l : List Fld) (m : Word),
      (l.foldl (fun m f => if f.acc = .rwl then m ||| fieldMask h.word f else m) m).getLsbD j = true →
      m.getLsbD j = true ∨ ∃ f ∈ l, f.acc = .rwl ∧ (fieldMask h.word f).getLsbD j = true := by
    intro l
    induction l with
    | nil => exact fun m hm => .inl hm
    | cons g l ih =>
      intro m hm
      rcases ih _ hm with hm | ⟨f, hf, both⟩
      · dsimp only at hm
        split at hm
        · rw [BitVec.getLsbD_or, Bool.or_eq_true] at hm
          exact hm.imp_right fun hg => ⟨g, List.mem_cons_self, by assumption, hg⟩
        · exact .inl hm
      · exact .inr ⟨f, List.mem_cons_of_mem _ hf, both⟩
  unfold rwlMask at hj
  rw [found] at hj
  exact (gather _ 0 hj).resolve_left (by simp)

/-- A register with an RWL field lies before the queue window. -/
theorem regTable_rwl_below : ∀ r ∈ regTable, ∀ f ∈ r.flds, f.acc = .rwl → r.off + regSpan r ≤ 0x400000 := by decide +kernel

/-- The queue window has no RWL field. -/
theorem rwlMask_of_inCmq {off : Nat} (h : inCmq off = true) : rwlMask off = 0 := by
  refine BitVec.eq_of_getLsbD_eq fun j _ => ?_
  rw [BitVec.ofNat_eq_ofNat, BitVec.getLsbD_zero, Bool.eq_false_iff]
  intro hj
  obtain ⟨x, found⟩ : ∃ x, findReg off = some x := by
    cases found : findReg off with
    | none => simp [rwlMask, found] at hj
    | some x => exact ⟨x, rfl⟩
  obtain ⟨f, hf, rwl, -⟩ := rwlMask_getLsbD found hj
  obtain ⟨r, hr, here⟩ := List.exists_of_findSome?_eq_some found
  obtain ⟨rfl, -⟩ := hitDef_some here
  obtain ⟨has, at_⟩ := regAt_of_hitDef (regTable_fits _ hr) here
  have below := regTable_rwl_below _ hr f hf rwl
  have inside : x.i * regStride x.reg 0 + (x.j * regStride x.reg 1 + 4 * x.word) < regSpan x.reg :=
    digit_lt has.1 (word_lt_instSpan has)
  rw [regAt_eq] at at_
  simp only [inCmq, Bool.and_eq_true, decide_eq_true_eq] at h
  omega

/-- R10: a write under the lock leaves the RWL bits of its word. -/
theorem loadWord_rwl {off : Nat} {h : RegHit} (found : findReg off = some h) (old data : Word) :
    loadWord true h old data &&& rwlMask off = old &&& rwlMask off := by
  refine BitVec.eq_of_getLsbD_eq fun j _ => ?_
  rw [BitVec.getLsbD_and, BitVec.getLsbD_and]
  cases hj : (rwlMask off).getLsbD j with
  | false => rw [Bool.and_false, Bool.and_false]
  | true =>
    obtain ⟨f, hf, rwl, inF⟩ := rwlMask_getLsbD found hj
    have still : fieldLoads true f = false := by simp [fieldLoads, rwl]
    rw [loadWord_getLsbD_of_not_loads old data (findReg_mem found).1 hf still inF]

theorem sameRwl_of_cr {a b : Ctl} (h : b.cr = a.cr) : SameRwl a b := fun off => by rw [crGet_congr h]

theorem sameRwl_trans {a b c : Ctl} (h : SameRwl a b) (h' : SameRwl b c) : SameRwl a c := fun off => (h' off).trans (h off)

/-- No move sets the lock; and one that starts and ends under the lock keeps the RWL fields. -/
theorem CtlMove.keeps_rwl {mr : Prop} {a b : Ctl} (m : CtlMove mr a b) (locked : b.cfgLocked = true) :
    a.cfgLocked = true ∧ SameRwl a b := by
  induction m with
  | same c => exact ⟨locked, sameRwl_of_cr rfl⟩
  | load c off h data found =>
    refine ⟨locked, fun off' => ?_⟩
    by_cases he : off' = off
    · subst he
      have lk : c.cfgLocked = true := locked
      rw [crGet_crSet, lk, loadWord_rwl found]
    · rw [crGet_crSet_ne _ _ _ _ he]
  | damagedMask c m => exact ⟨locked, sameRwl_of_cr rfl⟩
  | count c n v => exact ⟨by rwa [cntWrite_cfgLocked] at locked, sameRwl_of_cr (cntWrite_cr n v c)⟩
  | slots c m h => exact ⟨locked, sameRwl_of_cr rfl⟩
  | flr c =>
    refine ⟨locked, fun off => ?_⟩
    rw [crGet_flrCtl]
    split
    · rename_i inside
      simp [rwlMask_of_inCmq inside]
    · rfl
  | rise c warm => exact absurd locked (by simp [riseCtl])
  | aux c => exact absurd locked (by simp [riseCtl])
  | opens c => exact ⟨locked, sameRwl_of_cr rfl⟩
  | fuse c => exact ⟨locked, sameRwl_of_cr rfl⟩
  | trans x y ih ih' =>
    obtain ⟨mid, second⟩ := ih' locked
    obtain ⟨start, first⟩ := ih mid
    exact ⟨start, sameRwl_trans first second⟩

/-- Settles O48: each move that ends under the lock began under it and kept the RWL fields; the setting of the lock at the end of
RISE changes no register. -/
theorem lockedFieldsHoldTheirValues : Obligations.LockedFieldsHoldTheirValues := by
  intro s t _ stepped locked
  rcases step_ctl s t stepped with moved | set
  · exact (moved.keeps_rwl locked).2
  · exact sameRwl_of_cr (lockSet_cr set)

end Sys2Proof.Laws
end

section
/-! PROOF. Every step keeps the register file canonical (log entry 4). -/

namespace Sys2Proof.Laws

open Sys2Proof.Machine

theorem ctlWf_iff (c : Ctl) : CtlWf c ↔ Rising none c.cr ∧ ∀ e ∈ c.cr, e.2 ≠ resetWord e.1 := by
  rw [CtlWf, rising_iff]

/-- A stored word keeps the canonical form. -/
theorem ctlWf_crSet {c : Ctl} (off : Nat) (v : Word) (h : CtlWf c) : CtlWf (crSet c off v) := by
  rw [ctlWf_iff] at h ⊢
  refine ⟨rising_crSet c off v h.1, fun e he => ?_⟩
  have cases : e = (off, v) ∧ v ≠ resetWord off ∨ e ∈ c.cr := by
    unfold crSet smSet at he
    dsimp only at he
    split at he
    · exact .inr (mem_smErase he)
    · exact (mem_smPut he).imp_left fun eq => ⟨eq, by assumption⟩
  rcases cases with ⟨rfl, ne⟩ | he
  · exact ne
  · exact h.2 e he

/-- Words put back to their reset values keep the canonical form. -/
theorem ctlWf_filter {c c' : Ctl} {p : Nat × Word → Bool} (h : CtlWf c) (e : c'.cr = c.cr.filter p) : CtlWf c' := by
  rw [CtlWf, e]
  exact ⟨h.1.filter _, fun e he => h.2 e (List.mem_of_mem_filter he)⟩

theorem ctlWf_congr {c c' : Ctl} (h : CtlWf c) (e : c'.cr = c.cr) : CtlWf c' := by rwa [CtlWf, e]

/-- Every move keeps the canonical form. -/
theorem CtlMove.keeps_wf {mr : Prop} {a b : Ctl} (m : CtlMove mr a b) (wf : CtlWf a) : CtlWf b := by
  induction m with
  | same c => exact wf
  | load c off h data found => exact ctlWf_crSet _ _ wf
  | damagedMask c m => exact wf
  | count c n v => exact ctlWf_congr wf (cntWrite_cr n v c)
  | slots c m h => exact wf
  | flr c => exact ctlWf_filter wf rfl
  | rise c warm => exact ctlWf_filter wf rfl
  | aux c => exact ⟨List.Pairwise.nil, fun e he => absurd he List.not_mem_nil⟩
  | opens c => exact wf
  | fuse c => exact wf
  | trans x y ih ih' => exact ih' (ih wf)

/-- Settles O50: every move keeps the form, and the setting of the lock changes no register. -/
theorem everyStepKeepsTheRegisterFileCanonical : Obligations.EveryStepKeepsTheRegisterFileCanonical := by
  intro s t wf stepped
  rcases step_ctl s t stepped with moved | set
  · exact moved.keeps_wf wf
  · exact ctlWf_congr wf (lockSet_cr set)

end Sys2Proof.Laws
end

section
/-! PROOF. Every step keeps the register ranges. -/

namespace Sys2Proof.Laws

open Sys2Proof.Machine

/-- A field with a range: its register at its offset, and the values its description admits. -/
structure RangedField where
  off : Nat
  hit : RegHit
  fld : Fld
  ok : Nat → Prop

/-- What keeps a field within its range: it lies whole in one word outside the queue window, its reset value is in the range,
and so is every value that loads. -/
structure RangedField.Kept (x : RangedField) : Prop where
  found : findReg x.off = some x.hit
  mem : x.fld ∈ x.hit.reg.flds
  word : x.hit.word = 0
  msb : x.fld.msb < 32
  outside : inCmq x.off = false
  reset : x.ok (bits (resetWord x.off) x.fld.lsb (x.fld.msb + 1 - x.fld.lsb))
  loads : ∀ data, x.ok (loadField x.hit.reg.name x.hit.i x.fld.lsb (fieldOf 0 x.fld data) % 2 ^ (x.fld.msb + 1 - x.fld.lsb))

/-- The field's value as the register file has it. -/
def RangedField.value (x : RangedField) (c : Ctl) : Nat := rg c x.off x.fld.lsb (x.fld.msb + 1 - x.fld.lsb)

/-- Every move keeps a field within its range. -/
theorem CtlMove.keeps_range {mr : Prop} {a b : Ctl} (m : CtlMove mr a b) {x : RangedField} (kept : x.Kept)
    (ok : x.ok (x.value a)) : x.ok (x.value b) := by
  have reset : ∀ {c : Ctl}, crGet c x.off = resetWord x.off → x.ok (x.value c) := by
    intro c h
    rw [RangedField.value, rg, h]
    exact kept.reset
  have same : ∀ {c c' : Ctl}, x.ok (x.value c) → crGet c' x.off = crGet c x.off → x.ok (x.value c') := by
    intro c c' h e
    rwa [RangedField.value, rg_congr e]
  induction m with
  | same c => exact ok
  | load c off h data found =>
    by_cases he : x.off = off
    · subst he
      obtain rfl : x.hit = h := Option.some.inj (kept.found.symm.trans found)
      rw [RangedField.value, rg, crGet_crSet,
        bits_loadWord _ _ _ (findReg_mem found).1 kept.mem kept.word kept.msb]
      split
      · exact kept.loads data
      · exact ok
    · exact same ok (crGet_crSet_ne _ _ _ _ he)
  | damagedMask c m => exact ok
  | count c n v => exact same ok (crGet_congr (cntWrite_cr n v c) _)
  | slots c m h => exact ok
  | flr c => exact same ok (by rw [crGet_flrCtl, kept.outside]; rfl)
  | rise c warm => exact (crGet_riseCtl warm c x.off).elim (same ok) reset
  | aux c => exact reset (crGet_nil rfl _)
  | opens c => exact ok
  | fuse c => exact ok
  | trans _ _ ih ih' => exact ih' (ih ok)

theorem clampTo_mod {lo hi v n : Nat} (h : lo ≤ hi) (hn : hi < 2 ^ n) :
    lo ≤ clampTo lo hi v % 2 ^ n ∧ clampTo lo hi v % 2 ^ n ≤ hi := by
  have range : lo ≤ clampTo lo hi v ∧ clampTo lo hi v ≤ hi := by
    unfold clampTo
    omega
  rwa [Nat.mod_eq_of_lt (by omega)]

theorem max_one_mod {v n : Nat} (hn : 1 < 2 ^ n) (h : v < 2 ^ n) : 1 ≤ max 1 v % 2 ^ n := by
  rw [Nat.mod_eq_of_lt (by omega)]
  omega

/-- FAB_VCORE's set point (R23). -/
def vcoreField : RangedField :=
  ⟨0xA0000, ⟨⟨.fabVcore, 0xA0000, [], 1, [⟨29, 20, .ro, 0⟩, ⟨19, 16, .ro, 3⟩, ⟨9, 0, .rwl, 0x320⟩]⟩, 0, 0, 0⟩,
    ⟨9, 0, .rwl, 0x320⟩, fun v => 700 ≤ v ∧ v ≤ 900⟩

/-- DRN_CTL's width (R115). -/
def drainField : RangedField :=
  ⟨0xC0840, ⟨⟨.drnCtl, 0xC0840, [], 1, [⟨2, 0, .rwl, 3⟩]⟩, 0, 0, 0⟩, ⟨2, 0, .rwl, 3⟩, fun v => 1 ≤ v⟩

/-- PD_CTL's ceiling (R98). -/
def ceilingField : RangedField :=
  ⟨0xC0800, ⟨⟨.pdCtl, 0xC0800, [], 1, [⟨23, 16, .rw, 0x32⟩, ⟨15, 8, .rw, 0xA⟩, ⟨5, 0, .rwl, 0x18⟩]⟩, 0, 0, 0⟩,
    ⟨5, 0, .rwl, 0x18⟩, fun v => 4 ≤ v ∧ v ≤ 32⟩

/-- HZN_CTL's tick (R132). -/
def horizonField : RangedField :=
  ⟨0xE0300, ⟨⟨.hznCtl, 0xE0300, [], 1, [⟨15, 8, .rw, 0x90⟩, ⟨7, 0, .rwl, 0x3C⟩]⟩, 0, 0, 0⟩,
    ⟨7, 0, .rwl, 0x3C⟩, fun v => 60 ≤ v ∧ v ≤ 240⟩

/-- LC_LOCK_CTL's limit (R183). -/
def lockLimitField : RangedField :=
  ⟨0xC0030, ⟨⟨.lcLockCtl, 0xC0030, [], 1, [⟨3, 0, .rwl, 0xC⟩]⟩, 0, 0, 0⟩, ⟨3, 0, .rwl, 0xC⟩, fun v => v ≤ 12⟩

/-- SUP_CTL's time in OFF (R363). -/
def minOffField : RangedField :=
  ⟨0x10004, ⟨⟨.supCtl, 0x10004, [], 1, [⟨7, 0, .rwl, 0x32⟩]⟩, 0, 0, 0⟩, ⟨7, 0, .rwl, 0x32⟩, fun v => 1 ≤ v⟩

theorem vcoreField_kept : vcoreField.Kept where
  found := by decide +kernel
  mem := by decide
  word := rfl
  msb := by decide
  outside := rfl
  reset := by unfold vcoreField; decide +kernel
  loads _ := clampTo_mod (by decide) (by decide)

theorem drainField_kept : drainField.Kept where
  found := by decide +kernel
  mem := by decide
  word := rfl
  msb := by decide
  outside := rfl
  reset := by unfold drainField; decide +kernel
  loads data := max_one_mod (by decide) (fieldOf_lt drainField.fld data (by decide))

theorem ceilingField_kept : ceilingField.Kept where
  found := by decide +kernel
  mem := by decide
  word := rfl
  msb := by decide
  outside := rfl
  reset := by unfold ceilingField; decide +kernel
  loads _ := clampTo_mod (by decide) (by decide)

theorem horizonField_kept : horizonField.Kept where
  found := by decide +kernel
  mem := by decide
  word := rfl
  msb := by decide
  outside := rfl
  reset := by unfold horizonField; decide +kernel
  loads _ := clampTo_mod (by decide) (by decide)

theorem lockLimitField_kept : lockLimitField.Kept where
  found := by decide +kernel
  mem := by decide
  word := rfl
  msb := by decide
  outside := rfl
  reset := by unfold lockLimitField; decide +kernel
  loads data := (Nat.mod_le _ _).trans (Nat.min_le_left 12 _)

theorem minOffField_kept : minOffField.Kept where
  found := by decide +kernel
  mem := by decide
  word := rfl
  msb := by decide
  outside := rfl
  reset := by unfold minOffField; decide +kernel
  loads data := max_one_mod (by decide) (fieldOf_lt minOffField.fld data (by decide))

/-- The stated ranges are those of the six fields. -/
theorem rangesOk_iff (c : Ctl) : RangesOk c ↔ vcoreField.ok (vcoreField.value c) ∧ drainField.ok (drainField.value c) ∧
    ceilingField.ok (ceilingField.value c) ∧ horizonField.ok (horizonField.value c) ∧
    lockLimitField.ok (lockLimitField.value c) ∧ minOffField.ok (minOffField.value c) := Iff.rfl

/-- Every move keeps the stated ranges. -/
theorem CtlMove.keeps_ranges {mr : Prop} {a b : Ctl} (m : CtlMove mr a b) (ok : RangesOk a) : RangesOk b := by
  obtain ⟨vcore, drain, ceiling, horizon, lock, off⟩ := (rangesOk_iff a).1 ok
  exact (rangesOk_iff b).2 ⟨m.keeps_range vcoreField_kept vcore, m.keeps_range drainField_kept drain,
    m.keeps_range ceilingField_kept ceiling, m.keeps_range horizonField_kept horizon, m.keeps_range lockLimitField_kept lock,
    m.keeps_range minOffField_kept off⟩

theorem rangesOk_congr {a b : Ctl} (h : b.cr = a.cr) (ok : RangesOk a) : RangesOk b := by
  simpa only [RangesOk, rg, crGet_congr h] using ok

/-- Settles O49: every move keeps each field's range, and the setting of the lock changes no register. -/
theorem everyStepKeepsTheRegisterRanges : Obligations.EveryStepKeepsTheRegisterRanges := by
  intro s t ok stepped
  rcases step_ctl s t stepped with moved | set
  · exact moved.keeps_ranges ok
  · exact rangesOk_congr (lockSet_cr set) ok

end Sys2Proof.Laws
end

section
/-! SUPPORT. What a counter's value rests on: its own 64 slots, which neither the read of the store at a RISE nor a write of
another counter touches. -/

namespace Sys2Proof.Laws

open Sys2Proof.Machine

theorem cntCurrent_congr {c c' : Ctl} {n : Nat} (h : ∀ i < 64, cntSlot c' n i = cntSlot c n i) :
    cntCurrent c' n = cntCurrent c n := by
  unfold cntCurrent
  refine List.foldl_ext _ _ _ fun a i hi => ?_
  rw [cntValid, cntValid, h i (List.mem_range.1 hi)]

/-- R303: the value of a counter rests on its own slots. -/
theorem cntValue_congr {c c' : Ctl} {n : Nat} (h : ∀ i < 64, cntSlot c' n i = cntSlot c n i) : cntValue c' n = cntValue c n := by
  unfold cntValue
  rw [cntCurrent_congr h]
  split
  · rfl
  · refine List.foldl_ext _ _ _ fun a i hi => ?_
    rw [h i (List.mem_range.1 hi)]

/-- R302: the slot that the next write takes is one of the counter's 64, where its current one is. -/
theorem cntNext_lt (c : Ctl) (n : Nat) : (cntNext c n).1 < 64 := by
  unfold cntNext
  split
  · exact Nat.mod_lt _ (by decide)
  · decide

/-- R302: the write of a counter leaves the slots of every other. -/
theorem cntSlot_cntWrite_ne {n m : Nat} (v : Nat) (c : Ctl) (ne : m ≠ n) (i : Nat) (hi : i < 64) :
    cntSlot (cntWrite n v c) m i = cntSlot c m i := by
  unfold cntWrite
  split
  · rfl
  · have := cntNext_lt c n
    rw [cntSlot_putCount, if_neg (by omega)]

theorem countRead_cnt (x : Ctl × Dp) (n : Nat) : (countRead x n).1.cnt = x.1.cnt := by
  unfold countRead
  dsimp only
  split <;> rfl

theorem countReads_cnt (l : List Nat) (x : Ctl × Dp) : (l.foldl countRead x).1.cnt = x.1.cnt := by
  induction l generalizing x with
  | nil => rfl
  | cons n l ih => exact (ih _).trans (countRead_cnt x n)

/-- Reading the store leaves every slot of every counter. -/
theorem storeRead_cnt (x : Ctl × Dp) : (storeRead x).1.cnt = x.1.cnt := by
  unfold storeRead
  generalize pagesRead _ x.2 = d
  exact countReads_cnt _ (x.1, d)

/-- The slots of every counter but the first after a RISE that may start: those that the changed bits leave. -/
theorem cntSlot_riseStarts {c : Ctl} {d : Dp} (errs : List PstErr) (may : mayRise c d = true) {m i : Nat} (ne : m ≠ 1) (hi : i < 64) :
    ∃ d', cntSlot (riseStarts errs c d).1 m i = cntSlot (errs.foldl bitsChange (riseCtl false c, d')).1 m i := by
  unfold riseStarts
  rw [if_neg (by simp [may])]
  dsimp only
  generalize seedLfsrs _ = d1
  refine ⟨d1, ?_⟩
  rw [cntInc, cntSlot_cntWrite_ne _ _ ne i hi, cntSlot, storeRead_cnt]
  rfl

end Sys2Proof.Laws
end

section
/-! REFUTATION. Fuse and counters only grow: the claim quantifies over every number, but counters are those below 32 (R301), and a
RISE_START whose operand names counter 40 changes the slots that the model keeps under that number. `Misreads` looks at the
32 counters alone, so that nothing excuses the loss. -/

namespace Sys2Proof.Laws

open Sys2Proof.Machine

/-- Control fields with one written slot under number 40, of value 1. -/
def countedForty : Ctl := { Ctl.reset with cnt := [(2560, countSlot 40 1 1)] }

/-- The bits of that slot all change to 0. -/
def erasedForty : List PstErr := [.counter 40 0 (countGroup (countSlot 40 1 1))]

/-- In OFF with power good for 500 ms: a RISE may start. -/
def readyToRise : Dp := { Dp.reset with sup := { Sup.reset with pwrFailN := true, clock := 500000000 } }

theorem readyToRise_may : mayRise countedForty readyToRise = true := by decide +kernel

theorem countedForty_value : cntValue countedForty 40 = 1 := by decide +kernel

/-- The changed bits leave slot 0 of number 40 as one never written. -/
theorem erasedForty_slot (d : Dp) (n i : Nat) :
    cntSlot (erasedForty.foldl bitsChange (riseCtl false countedForty, d)).1 n i =
      if n * 64 + i = 2560 then {} else cntSlot countedForty n i := by
  have blank : countOf (countGroup (cntSlot (riseCtl false countedForty) 40 0) ^^^ countGroup (countSlot 40 1 1)) = {} := by
    decide +kernel
  show cntSlot (putCount 40 0 _ (riseCtl false countedForty)) n i = _
  rw [blank, cntSlot_putCount]
  rfl

/-- Nothing of the 32 counters reads otherwise. -/
theorem erasedForty_not_misreads : ¬ Misreads countedForty (.riseStart erasedForty) := by
  rintro ⟨n, hn, i, hi, reads⟩
  refine reads ?_
  have slot := erasedForty_slot Dp.reset n i
  rw [if_neg (by omega)] at slot
  exact congrArg readCount slot

/-- No slot of number 40 is written once those bits have changed. -/
theorem erasedForty_value : cntValue (riseStarts erasedForty countedForty readyToRise).1 40 = 0 := by
  have none_left : cntValue { countedForty with cnt := [] } 40 = 0 := by decide +kernel
  rw [← none_left]
  refine cntValue_congr fun i hi => ?_
  obtain ⟨d, slot⟩ := cntSlot_riseStarts erasedForty readyToRise_may (m := 40) (by decide) hi
  rw [slot, erasedForty_slot]
  split
  · rfl
  · rename_i ne
    simp only [cntSlot, countedForty, smGet, if_neg ne]

/-- What the claim says of a RISE_START at the front of the queue that nothing excuses. -/
theorem riseStart_grows (grows : Obligations.FuseAndCountersOnlyGrow) {errs : List PstErr} {c : Ctl} (d : Dp)
    (clear : ¬ Misreads c (.riseStart errs)) (n : Nat) : cntValue c n ≤ cntValue (riseStarts errs c d).1 n :=
  (grows ⟨c, d, [.riseStart errs]⟩ ⟨(riseStarts errs c d).1, (riseStarts errs c d).2, []⟩ rfl).2
    (fun _ front => Option.some.inj front ▸ clear) n

/-- Refutes O51: a RISE_START that changes bits of the slot under number 40, which is no spread counter, lowers its value from 1 to
0, while no slot of the 32 counters reads otherwise. -/
theorem not_fuseAndCountersOnlyGrow : ¬ Obligations.FuseAndCountersOnlyGrow := by
  intro grows
  have grown := riseStart_grows grows readyToRise erasedForty_not_misreads 40
  rw [erasedForty_value, countedForty_value] at grown
  exact absurd grown (by decide)

end Sys2Proof.Laws
end

section
/-! PROOF. Placement permutes the stripes (R53): a Feistel network is injective whatever its round function, and the walk along
the cycles of a permutation into a part of its domain is injective on that part. -/

namespace Sys2Proof.Laws

open Sys2Proof.Machine

/-- Two halves joined give both back. -/
theorem append_halves_inj {l r l' r' : BitVec 16} (h : l ++ r = l' ++ r') : l = l' ∧ r = r' := by
  have high := congrArg (BitVec.extractLsb' 16 16) h
  have low := congrArg (BitVec.extractLsb' 0 16) h
  rw [BitVec.extractLsb'_append_eq_left, BitVec.extractLsb'_append_eq_left] at high
  rw [BitVec.extractLsb'_append_eq_right, BitVec.extractLsb'_append_eq_right] at low
  exact ⟨high, low⟩

/-- A word is known by its halves. -/
theorem eq_of_halves {x y : BitVec 32} (high : x.extractLsb' 16 16 = y.extractLsb' 16 16)
    (low : x.extractLsb' 0 16 = y.extractLsb' 0 16) : x = y := by
  refine BitVec.eq_of_getLsbD_eq fun j hj => ?_
  by_cases h : j < 16
  · have bit := congrArg (BitVec.getLsbD · j) low
    simpa [BitVec.getLsbD_extractLsb', h] using bit
  · have bit := congrArg (BitVec.getLsbD · (j - 16)) high
    simpa [BitVec.getLsbD_extractLsb', show j - 16 < 16 by omega, show 16 + (j - 16) = j by omega] using bit

/-- The rounds of the network can be undone one by one. -/
theorem feistel_inj (key : BitVec 256) (n : Nat) (i : BitVec 2) {l r l' r' : BitVec 16}
    (h : feistel key n i l r = feistel key n i l' r') : l = l' ∧ r = r' := by
  induction n generalizing i l r l' r' with
  | zero => exact append_halves_inj h
  | succ n ih =>
    obtain ⟨right, left⟩ := ih (i + 1) h
    subst right
    exact ⟨(BitVec.xor_left_inj _).1 left, rfl⟩

theorem permKey_injective (key : BitVec 256) : Function.Injective (permKey key) := by
  intro x y h
  obtain ⟨high, low⟩ := feistel_inj key 4 0 h
  exact eq_of_halves high low

theorem permKey_bijective (key : BitVec 256) : Function.Bijective (permKey key) := by
  have : Finite (BitVec 32) := Finite.of_injective BitVec.toFin fun _ _ e => BitVec.eq_of_toFin_eq e
  exact Finite.injective_iff_bijective.1 (permKey_injective key)

/-- The walk stops at the first place of the cycle in the 31-bit domain, or where its fuel ends. -/
theorem permWalk_eq (key : BitVec 256) (n : Nat) (s : BitVec 32) : ∃ k ≤ n,
    permWalk key n s = ((permKey key)^[k] s).extractLsb' 0 31 ∧ (∀ i < k, 2 ^ 31 ≤ ((permKey key)^[i] s).toNat) ∧
      (k < n → ((permKey key)^[k] s).toNat < 2 ^ 31) := by
  induction n generalizing s with
  | zero => exact ⟨0, le_rfl, rfl, fun i hi => absurd hi (Nat.not_lt_zero i), fun h => absurd h (lt_irrefl 0)⟩
  | succ n ih =>
    unfold permWalk
    split
    · rename_i here
      exact ⟨0, Nat.zero_le _, rfl, fun i hi => absurd hi (Nat.not_lt_zero i), fun _ => here⟩
    · rename_i outside
      obtain ⟨k, le, eq, before, stops⟩ := ih (permKey key s)
      refine ⟨k + 1, Nat.succ_le_succ le, eq, fun i hi => ?_, fun h => stops (Nat.lt_of_succ_lt_succ h)⟩
      cases i with
      | zero => exact Nat.not_lt.1 outside
      | succ i => exact before i (Nat.lt_of_succ_lt_succ hi)

/-- An injection of the words of 32 bits comes back to any of them within 2³² steps. -/
theorem iterate_returns {f : BitVec 32 → BitVec 32} (inj : Function.Injective f) (x : BitVec 32) :
    ∃ p, 1 ≤ p ∧ p ≤ 2 ^ 32 ∧ f^[p] x = x := by
  obtain ⟨a, b, ne, same⟩ := Fintype.exists_ne_map_eq_of_card_lt (fun i : Fin (2 ^ 32 + 1) => (f^[i.val] x).toFin)
    (by simp only [Fintype.card_fin]; omega)
  have eq : f^[a.val] x = f^[b.val] x := BitVec.eq_of_toFin_eq same
  have back : ∀ i j : Nat, i < j → f^[i] x = f^[j] x → f^[j - i] x = x := by
    intro i j lt h
    refine (inj.iterate i) ?_
    rw [← Function.iterate_add_apply, h]
    congr 1
    omega
  rcases Nat.lt_or_gt_of_ne fun e => ne (Fin.ext e) with lt | lt
  · exact ⟨b - a, by omega, by omega, back a b lt eq⟩
  · exact ⟨a - b, by omega, by omega, back b a lt eq.symm⟩

/-- Where a walk first comes back into a part of the domain, from within the part, is known by where it began. -/
theorem firstReturn_inj {f : BitVec 32 → BitVec 32} (inj : Function.Injective f) {x y : BitVec 32} {k m : Nat}
    (hx : x.toNat < 2 ^ 31) (le : k ≤ m) (out : ∀ i < m, 2 ^ 31 ≤ (f^[i + 1] y).toNat) (same : f^[k + 1] x = f^[m + 1] y) :
    x = y := by
  have start : x = f^[m - k] y := by
    refine (inj.iterate (k + 1)) ?_
    rw [same, ← Function.iterate_add_apply]
    congr 1
    omega
  rcases Nat.eq_or_lt_of_le le with rfl | lt
  · simpa using start
  · have outside := out (m - k - 1) (by omega)
    rw [show m - k - 1 + 1 = m - k by omega, ← start] at outside
    omega

/-- R53: a cursor position is a number of the 31-bit domain. -/
theorem cursor_lt (cur : BitVec 31) : ((0 : BitVec 1) ++ cur).toNat < 2 ^ 31 := by
  rw [BitVec.toNat_append]
  simpa using cur.isLt

/-- The candidate of a cursor position is the first place in the 31-bit domain after it along its cycle. -/
theorem candidate_eq (key : BitVec 256) (cur : BitVec 31) : ∃ k,
    candidate key cur = ((permKey key)^[k + 1] ((0 : BitVec 1) ++ cur)).extractLsb' 0 31 ∧
      (∀ i < k, 2 ^ 31 ≤ ((permKey key)^[i + 1] ((0 : BitVec 1) ++ cur)).toNat) ∧
      ((permKey key)^[k + 1] ((0 : BitVec 1) ++ cur)).toNat < 2 ^ 31 := by
  obtain ⟨k, le, eq, before, stops⟩ := permWalk_eq key (2 ^ 32) (permKey key ((0 : BitVec 1) ++ cur))
  refine ⟨k, eq, before, ?_⟩
  rcases Nat.lt_or_eq_of_le le with lt | full
  · exact stops lt
  · obtain ⟨p, pos, within, back⟩ := iterate_returns (permKey_injective key) ((0 : BitVec 1) ++ cur)
    have outside := before (p - 1) (by omega)
    rw [← Function.iterate_succ_apply, Nat.succ_eq_add_one, show p - 1 + 1 = p by omega, back] at outside
    exact absurd (cursor_lt cur) (Nat.not_lt.2 outside)

/-- A word of the 31-bit domain is known by its 31 low bits. -/
theorem eq_of_low_bits {x y : BitVec 32} (hx : x.toNat < 2 ^ 31) (hy : y.toNat < 2 ^ 31)
    (h : x.extractLsb' 0 31 = y.extractLsb' 0 31) : x = y := by
  have nums := congrArg BitVec.toNat h
  simp only [BitVec.extractLsb'_toNat, Nat.shiftRight_zero, Nat.mod_eq_of_lt hx, Nat.mod_eq_of_lt hy] at nums
  exact BitVec.eq_of_toNat_eq nums

theorem candidate_injective (key : BitVec 256) : Function.Injective (candidate key) := by
  intro a b h
  obtain ⟨k, eqA, outA, inA⟩ := candidate_eq key a
  obtain ⟨m, eqB, outB, inB⟩ := candidate_eq key b
  have same := eq_of_low_bits inA inB (eqA.symm.trans (h.trans eqB))
  have joined : (0 : BitVec 1) ++ a = (0 : BitVec 1) ++ b := by
    rcases Nat.le_total k m with le | le
    · exact firstReturn_inj (permKey_injective key) (cursor_lt a) le outB same
    · exact (firstReturn_inj (permKey_injective key) (cursor_lt b) le outA same.symm).symm
  have low := congrArg (BitVec.extractLsb' 0 31) joined
  rwa [BitVec.extractLsb'_append_eq_right, BitVec.extractLsb'_append_eq_right] at low

/-- Settles O52: perm is an injection of a finite type, and the walk along its cycles is injective. -/
theorem placementPermutesTheStripes : Obligations.PlacementPermutesTheStripes :=
  fun key => ⟨permKey_bijective key, candidate_injective key⟩

end Sys2Proof.Laws
end

section
/-! SUPPORT. The outer code (R163): its checks are linear, a sealed image passes them, and each part of a sealed image is what was
sealed. -/

namespace Sys2Proof.Laws

open Sys2Proof.Machine

/-- The remainder by a generator is linear. -/
theorem polyRem_xor {w r : Nat} (g : BitVec r) (v v' : BitVec w) (n : Nat) (a a' : BitVec r) :
    polyRem g (v ^^^ v') n (a ^^^ a') = polyRem g v n a ^^^ polyRem g v' n a' := by
  have feedback : ∀ p q : Bool, (if (p ^^ q) then g else 0) = (if p then g else 0) ^^^ (if q then g else 0) := by
    intro p q
    cases p <;> cases q <;> simp
  have step : ∀ (x : BitVec r) (b : Bool), (if b then x <<< 1 ^^^ g else x <<< 1) = x <<< 1 ^^^ (if b then g else 0) := by
    intro x b
    cases b <;> simp
  induction n generalizing a a' with
  | zero => rfl
  | succ n ih =>
    unfold polyRem
    dsimp only
    rw [← ih, step, step, step, BitVec.msb_xor, BitVec.getLsbD_xor, BitVec.shiftLeft_xor_distrib]
    have bits : ((a.msb ^^ a'.msb) ^^ (v.getLsbD n ^^ v'.getLsbD n)) =
        ((a.msb ^^ v.getLsbD n) ^^ (a'.msb ^^ v'.getLsbD n)) := by
      cases a.msb <;> cases a'.msb <;> cases v.getLsbD n <;> cases v'.getLsbD n <;> rfl
    rw [bits, feedback]
    congr 1
    simp only [BitVec.xor_assoc, xor_swap]

theorem crc24_xor (m m' : BitVec 2112) : crc24 (m ^^^ m') = crc24 m ^^^ crc24 m' := polyRem_xor _ m m' 2112 0 0

theorem bchCheck_xor (m m' : BitVec 2136) : bchCheck (m ^^^ m') = bchCheck m ^^^ bchCheck m' := polyRem_xor _ m m' 2136 0 0

theorem imgCrc_xor (i i' : Image) : imgCrc (i ^^^ i') = imgCrc i ^^^ imgCrc i' := BitVec.extractLsb'_xor
theorem imgBch_xor (i i' : Image) : imgBch (i ^^^ i') = imgBch i ^^^ imgBch i' := BitVec.extractLsb'_xor
theorem imgMeta_xor (i i' : Image) : imgMeta (i ^^^ i') = imgMeta i ^^^ imgMeta i' := BitVec.extractLsb'_xor
theorem imgData_xor (i i' : Image) : imgData (i ^^^ i') = imgData i ^^^ imgData i' := BitVec.extractLsb'_xor

/-- The message that the BCH check bits are of: data, metadata and CRC. -/
def imgMessage (i : Image) : BitVec 2136 := imgData i ++ imgMeta i ++ imgCrc i

theorem imgMessage_eq (i : Image) : (toPoly i).extractLsb' 168 2136 = imgMessage i := BitVec.extractLsb'_append_eq_left

theorem imgMessage_xor (i i' : Image) : imgMessage (i ^^^ i') = imgMessage i ^^^ imgMessage i' := by
  rw [imgMessage, imgData_xor, imgMeta_xor, imgCrc_xor, imgMessage, imgMessage, BitVec.xor_append, BitVec.xor_append]

/-- A word that passes both checks of the outer code. -/
def IsCodeword (i : Image) : Prop := bchCheck (imgMessage i) = imgBch i ∧ crc24 (i.extractLsb' 192 2112) = imgCrc i

/-- The exclusive-OR of codewords is a codeword. -/
theorem isCodeword_xor {i i' : Image} (h : IsCodeword i) (h' : IsCodeword i') : IsCodeword (i ^^^ i') := by
  obtain ⟨bch, crc⟩ := h
  obtain ⟨bch', crc'⟩ := h'
  refine ⟨?_, ?_⟩
  · rw [imgMessage_xor, bchCheck_xor, bch, bch', imgBch_xor]
  · rw [BitVec.extractLsb'_xor, crc24_xor, crc, crc', imgCrc_xor]

/-- The parts of what is sealed. -/
theorem outerEncode_parts (d : BitVec 2048) (m : BitVec 64) : imgData (outerEncode d m) = d ∧ imgMeta (outerEncode d m) = m ∧
    imgBch (outerEncode d m) = bchCheck (d ++ m ++ crc24 (d ++ m)) ∧ imgCrc (outerEncode d m) = crc24 (d ++ m) ∧
    (outerEncode d m).extractLsb' 192 2112 = d ++ m := by
  unfold imgData imgMeta imgBch imgCrc outerEncode
  dsimp only
  generalize bchCheck _ = b
  generalize crc24 _ = c
  refine ⟨?_, ?_, ?_, BitVec.extractLsb'_append_eq_right, ?_⟩ <;> erw [BitVec.extractLsb'_append_eq_of_le (by decide)]
  · erw [BitVec.extractLsb'_append_eq_of_le (by decide)]
    exact BitVec.extractLsb'_append_eq_left
  · erw [BitVec.extractLsb'_append_eq_of_le (by decide)]
    exact BitVec.extractLsb'_append_eq_right
  · exact BitVec.extractLsb'_append_eq_right
  · exact BitVec.extractLsb'_append_eq_left

/-- What is sealed is a codeword. -/
theorem outerEncode_isCodeword (d : BitVec 2048) (m : BitVec 64) : IsCodeword (outerEncode d m) := by
  obtain ⟨data, meta', bch, crc, body⟩ := outerEncode_parts d m
  exact ⟨by rw [imgMessage, data, meta', crc, bch], by rw [body, crc]⟩

/-- With no remainder the BCH part of a decode changes nothing. -/
theorem bchDecode_of_remainder {i : Image} (rem : bchRemainder i = 0) : bchDecode i = some (i, 0) := by
  unfold bchDecode
  dsimp only
  rw [if_pos rem]

theorem bchRemainder_of_isCodeword {i : Image} (h : IsCodeword i) : bchRemainder i = 0 := by
  rw [bchRemainder, imgMessage_eq, h.1, BitVec.xor_self, BitVec.ofNat_eq_ofNat]

/-- A decode whose BCH part, CRC and label are known. The definition is opened at the function and not at its value, which the
kernel would compute. -/
theorem outerDecode_of_bchDecode {i w : Image} {n : Nat} {want : Label} (bch : bchDecode i = some (w, n))
    (crc : crcPasses w = true) (label : imgLabelBits w = metaWord want 0) :
    outerDecode i want = ⟨if n = 0 then .clean else .corrected n, w⟩ := by
  have opened := Eq.refl outerDecode
  conv at opened => rhs; delta outerDecode
  rw [congrFun (congrFun opened i) want, bch]
  generalize crcPasses = passes at crc
  dsimp only
  rw [crc, if_neg (by decide), if_neg (not_not.2 label)]

/-- A codeword with the label that is wanted decodes CLEAN, to itself (R164). -/
theorem outerDecode_of_isCodeword {i : Image} {want : Label} (h : IsCodeword i) (label : imgLabelBits i = metaWord want 0) :
    outerDecode i want = ⟨.clean, i⟩ :=
  outerDecode_of_bchDecode (bchDecode_of_remainder (bchRemainder_of_isCodeword h)) (decide_eq_true h.2) label

/-! The label bits (R160, R161). -/

/-- The top bit of a slice of 16 falls to its mask, and the rest stays: of one part of 15 bits, or of four or two parts. -/
theorem slice_and (p : BitVec 1) (x : BitVec 15) : (p ++ x) &&& ((0 : BitVec 1) ++ BitVec.allOnes 15) = (0 : BitVec 1) ++ x := by
  rw [BitVec.and_append, BitVec.and_allOnes, BitVec.ofNat_eq_ofNat, BitVec.and_zero]

theorem slice_and_four (p : BitVec 1) (s : BitVec 6) (a : BitVec 1) (q f : BitVec 4) : (p ++ s ++ a ++ q ++ f) &&&
    ((0 : BitVec 1) ++ BitVec.allOnes 6 ++ BitVec.allOnes 1 ++ BitVec.allOnes 4 ++ BitVec.allOnes 4) =
      (0 : BitVec 1) ++ s ++ a ++ q ++ f := by
  simp only [BitVec.and_append, BitVec.and_allOnes, BitVec.ofNat_eq_ofNat, BitVec.and_zero]

theorem slice_and_two (p t : BitVec 1) (z : BitVec 14) : (p ++ t ++ z) &&&
    ((0 : BitVec 1) ++ BitVec.allOnes 1 ++ BitVec.allOnes 14) = (0 : BitVec 1) ++ t ++ z := by
  simp only [BitVec.and_append, BitVec.and_allOnes, BitVec.ofNat_eq_ofNat, BitVec.and_zero]

theorem slices_and (a b c d a' b' c' d' : BitVec 16) :
    (a ++ b ++ c ++ d) &&& (a' ++ b' ++ c' ++ d') = (a &&& a') ++ (b &&& b') ++ (c &&& c') ++ (d &&& d') := by
  simp only [BitVec.and_append]

/-- The poison bits fall to the mask of the label bits, and the label stays. -/
theorem metaWord_and (l : Label) (poison : BitVec 4) : metaWord l poison &&& 0x7FFF7FFF7FFF7FFF = metaWord l 0 := by
  have clear : ∀ n, (0 : BitVec 4).extractLsb' n 1 = 0 := fun n => by simp
  refine (slices_and _ _ _ _ 0x7FFF 0x7FFF 0x7FFF 0x7FFF).trans ?_
  unfold metaWord
  rw [clear, clear, clear, clear]
  exact congrArg₂ (· ++ ·) (congrArg₂ (· ++ ·) (congrArg₂ (· ++ ·) (slice_and_four ..) (slice_and ..)) (slice_and ..))
    (slice_and_two ..)

/-- The label bits of what is sealed. -/
theorem outerEncode_label (d : BitVec 2048) (l : Label) (poison : BitVec 4) :
    imgLabelBits (outerEncode d (metaWord l poison)) = metaWord l 0 := by
  obtain ⟨-, meta', -⟩ := outerEncode_parts d (metaWord l poison)
  rw [imgLabelBits, meta', metaWord_and]

theorem imgLabelBits_xor (i i' : Image) : imgLabelBits (i ^^^ i') = imgLabelBits i ^^^ imgLabelBits i' := by
  rw [imgLabelBits, imgMeta_xor, imgLabelBits, imgLabelBits]
  exact BitVec.eq_of_getLsbD_eq fun j _ => by simp [Bool.and_xor_distrib_right]

end Sys2Proof.Laws
end

section
/-! PROOF. The parity of sealed images is a codeword (R40, R163, R164), and sealed sectors read back (R88, R91, R160). -/

namespace Sys2Proof.Laws

open Sys2Proof.Machine

theorem foldl_xor (l : List Image) (a : Image) : l.foldl (fun a b => a ^^^ b) a = a ^^^ xorImages l := by
  induction l generalizing a with
  | nil => simp [xorImages]
  | cons x l ih =>
    rw [xorImages, List.foldl_cons, List.foldl_cons, ih, ih, BitVec.ofNat_eq_ofNat, BitVec.zero_xor, BitVec.xor_assoc]

theorem xorImages_cons (x : Image) (l : List Image) : xorImages (x :: l) = x ^^^ xorImages l := by
  rw [xorImages, List.foldl_cons, foldl_xor, BitVec.ofNat_eq_ofNat, BitVec.zero_xor]

/-- The exclusive-OR of images, none of them or more, keeps what the exclusive-OR of two keeps. -/
theorem xorImages_rec {P : Image → Prop} (zero : P 0) (xor : ∀ i i', P i → P i' → P (i ^^^ i')) (l : List Image)
    (h : ∀ i ∈ l, P i) : P (xorImages l) := by
  induction l with
  | nil => exact zero
  | cons x l ih =>
    rw [xorImages_cons]
    exact xor _ _ (h x List.mem_cons_self) (ih fun i hi => h i (List.mem_cons_of_mem _ hi))

/-- R40: with one image replaced, the old one and the new one are exchanged in the exclusive-OR. -/
theorem xorImages_setAt (l : List Image) (j : Nat) (x : Image) (hj : j < l.length) :
    xorImages (setAt l j x) = xorImages l ^^^ l.getD j 0 ^^^ x := by
  induction l generalizing j with
  | nil => exact absurd hj (Nat.not_lt_zero j)
  | cons y l ih =>
    cases j with
    | zero =>
      rw [setAt, xorImages_cons, xorImages_cons, List.getD_cons_zero, BitVec.xor_comm y, BitVec.xor_assoc (xorImages l),
        BitVec.xor_self, BitVec.xor_zero, BitVec.xor_comm]
    | succ j =>
      rw [setAt, xorImages_cons, xorImages_cons, List.getD_cons_succ, ih j (Nat.lt_of_succ_lt_succ hj), BitVec.xor_assoc,
        BitVec.xor_assoc, BitVec.xor_assoc]

/-- The line at a position of a page has that page and that position (R36). -/
theorem pageLine_parts (p : Page) {j : Nat} (hj : j < 16) : linePage (pageLine p j) = p ∧ linePos (pageLine p j) = j := by
  refine ⟨BitVec.extractLsb'_append_eq_left, ?_⟩
  have low : (pageLine p j).extractLsb' 0 4 = BitVec.ofNat 4 j := BitVec.extractLsb'_append_eq_right
  rw [linePos, low, BitVec.toNat_ofNat, Nat.mod_eq_of_lt hj]

theorem sealedImage_isCodeword (key : BitVec 512) (slot : BitVec 6) (l : LineAddr) (poison : BitVec 4) (v : Nat → Sector) :
    IsCodeword (sealedImage key slot l poison v) := outerEncode_isCodeword _ _

theorem sealedImage_label (key : BitVec 512) (slot : BitVec 6) (p : Page) {j : Nat} (hj : j < 16) (poison : BitVec 4)
    (v : Nat → Sector) : imgLabelBits (sealedImage key slot (pageLine p j) poison v) = metaWord (hostLabel slot p j) 0 := by
  obtain ⟨page, pos⟩ := pageLine_parts p hj
  rw [sealedImage, outerEncode_label, page, pos]

/-- The label bits of the exclusive-OR of images are those of the images in exclusive-OR. -/
theorem imgLabelBits_xorImages (l : List Image) :
    imgLabelBits (xorImages l) = (l.map imgLabelBits).foldr (fun a b => a ^^^ b) 0 := by
  induction l with
  | nil => simp [xorImages, imgLabelBits, imgMeta]
  | cons x l ih => rw [xorImages_cons, imgLabelBits_xor, ih, List.map_cons, List.foldr_cons]

/-- The exclusive-OR of two labels, field by field. -/
def labelXor (l l' : Label) : Label :=
  ⟨l.slot ^^^ l'.slot, l.area ^^^ l'.area, l.position ^^^ l'.position, l.format ^^^ l'.format, l.tag ^^^ l'.tag⟩

theorem slices_xor (a b c d a' b' c' d' : BitVec 16) :
    (a ++ b ++ c ++ d) ^^^ (a' ++ b' ++ c' ++ d') = (a ^^^ a') ++ (b ^^^ b') ++ (c ^^^ c') ++ (d ^^^ d') := by
  simp only [BitVec.xor_append]

theorem slice_xor (p p' : BitVec 1) (x x' : BitVec 15) : (p ++ x) ^^^ (p' ++ x') = (p ^^^ p') ++ (x ^^^ x') := BitVec.xor_append

theorem slice_xor_four (p p' : BitVec 1) (s s' : BitVec 6) (a a' : BitVec 1) (q q' f f' : BitVec 4) :
    (p ++ s ++ a ++ q ++ f) ^^^ (p' ++ s' ++ a' ++ q' ++ f') =
      (p ^^^ p') ++ (s ^^^ s') ++ (a ^^^ a') ++ (q ^^^ q') ++ (f ^^^ f') := by
  simp only [BitVec.xor_append]

theorem slice_xor_two (p p' t t' : BitVec 1) (z z' : BitVec 14) :
    (p ++ t ++ z) ^^^ (p' ++ t' ++ z') = (p ^^^ p') ++ (t ^^^ t') ++ (z ^^^ z') := by
  simp only [BitVec.xor_append]

/-- The metadata word is linear. -/
theorem metaWord_xor (l l' : Label) (poison poison' : BitVec 4) :
    metaWord l poison ^^^ metaWord l' poison' = metaWord (labelXor l l') (poison ^^^ poison') := by
  unfold metaWord labelXor
  simp only [BitVec.extractLsb'_xor]
  exact (slices_xor ..).trans (congrArg₂ (· ++ ·) (congrArg₂ (· ++ ·) (congrArg₂ (· ++ ·) (slice_xor_four ..) (slice_xor ..))
    (slice_xor ..)) ((slice_xor_two ..).trans (congrArg (_ ++ ·) BitVec.xor_self)))

/-- The labels of one page differ in the position alone (R161). -/
theorem hostLabel_eq (slot : BitVec 6) (p : Page) (j : Nat) :
    metaWord (hostLabel slot p j) 0 = metaWord (hostLabel slot p 0) 0 ^^^ metaWord ⟨0, 0, BitVec.ofNat 4 j, 0, 0⟩ 0 := by
  rw [metaWord_xor]
  simp [hostLabel, labelXor]

/-- An even number of words with a part in common: in their exclusive-OR that part is gone. -/
theorem foldr_xor_shared {α : Type} (b : BitVec 64) (f : α → BitVec 64) (l : List α) :
    (l.map fun a => b ^^^ f a).foldr (fun x y => x ^^^ y) 0 =
      (if l.length % 2 = 0 then 0 else b) ^^^ (l.map f).foldr (fun x y => x ^^^ y) 0 := by
  induction l with
  | nil => simp
  | cons a l ih =>
    rw [List.map_cons, List.foldr_cons, ih, List.map_cons, List.foldr_cons, List.length_cons]
    rcases Nat.mod_two_eq_zero_or_one l.length with even | odd
    · rw [if_pos even, if_neg (by omega), BitVec.ofNat_eq_ofNat, BitVec.zero_xor, BitVec.xor_assoc]
    · rw [if_neg (by omega), if_pos (by omega), BitVec.xor_assoc, xor_swap (f a), xor_twice, BitVec.ofNat_eq_ofNat,
        BitVec.zero_xor]

/-- The 16 labels of a page, in exclusive-OR, are the parity label: no bit is set (R161). -/
theorem pageLabels_xor (slot : BitVec 6) (p : Page) :
    ((List.range 16).map fun j => metaWord (hostLabel slot p j) 0).foldr (fun a b => a ^^^ b) 0 = metaWord parityLabel 0 := by
  rw [List.map_congr_left fun j _ => hostLabel_eq slot p j, foldr_xor_shared, if_pos (by rw [List.length_range]),
    BitVec.ofNat_eq_ofNat, BitVec.zero_xor]
  decide

/-- The sealed images of the lines of a page. -/
def pageImages (key : BitVec 512) (slot : BitVec 6) (p : Page) (poison : Nat → BitVec 4) (v : Nat → Nat → Sector) : List Image :=
  (List.range 16).map fun j => sealedImage key slot (pageLine p j) (poison j) (v j)

theorem pageImages_getD (key : BitVec 512) (slot : BitVec 6) (p : Page) (poison : Nat → BitVec 4) (v : Nat → Nat → Sector)
    {j : Nat} (hj : j < 16) : (pageImages key slot p poison v).getD j 0 = sealedImage key slot (pageLine p j) (poison j) (v j) := by
  simp [pageImages, List.getD_eq_getElem?_getD, hj]

theorem zero_isCodeword : IsCodeword 0 := by
  have h := isCodeword_xor (outerEncode_isCodeword 0 0) (outerEncode_isCodeword 0 0)
  rwa [BitVec.xor_self] at h

/-- The parity of a page's sealed images has the parity label. -/
theorem pageParity_label (key : BitVec 512) (slot : BitVec 6) (p : Page) (poison : Nat → BitVec 4) (v : Nat → Nat → Sector) :
    imgLabelBits (xorImages (pageImages key slot p poison v)) = metaWord parityLabel 0 := by
  have labels : (pageImages key slot p poison v).map imgLabelBits =
      (List.range 16).map fun j => metaWord (hostLabel slot p j) 0 := by
    rw [pageImages, List.map_map]
    exact List.map_congr_left fun j hj => sealedImage_label key slot p (List.mem_range.1 hj) _ _
  rw [imgLabelBits_xorImages, labels, pageLabels_xor]

/-- The parity of a page's sealed images is a codeword: each of them is, and the code is linear. -/
theorem pageParity_isCodeword (key : BitVec 512) (slot : BitVec 6) (p : Page) (poison : Nat → BitVec 4)
    (v : Nat → Nat → Sector) : IsCodeword (xorImages (pageImages key slot p poison v)) := by
  refine xorImages_rec zero_isCodeword (fun _ _ => isCodeword_xor) _ fun i hi => ?_
  obtain ⟨j, -, rfl⟩ := List.mem_map.1 hi
  exact sealedImage_isCodeword ..

/-- Settles O53: sealing makes codewords, the code is linear, and the labels of a page cancel. -/
theorem parityOfSealedImagesIsACodeword : Obligations.ParityOfSealedImagesIsACodeword := by
  intro key slot p poison v imgs eq
  obtain rfl : imgs = pageImages key slot p poison v := eq
  refine ⟨fun j hj => ?_, ?_, fun j hj => ?_⟩
  · rw [pageImages_getD _ _ _ _ _ hj]
    exact outerDecode_of_isCodeword (sealedImage_isCodeword ..) (sealedImage_label key slot p hj _ _)
  · exact outerDecode_of_isCodeword (pageParity_isCodeword ..) (pageParity_label ..)
  · rw [xorImages_setAt _ _ _ (by simpa [pageImages] using hj), BitVec.xor_comm, xor_twice]

end Sys2Proof.Laws
end

section
/-! PROOF. Sealed sectors read back (R88, R91, R160, R162). -/

namespace Sys2Proof.Laws

open Sys2Proof.Machine

/-- Each of four equal parts joined. -/
theorem four_parts {w : Nat} (a b c d : BitVec w) : (a ++ b ++ c ++ d).extractLsb' (w + w + w) w = a ∧
    (a ++ b ++ c ++ d).extractLsb' (w + w) w = b ∧ (a ++ b ++ c ++ d).extractLsb' w w = c ∧
    (a ++ b ++ c ++ d).extractLsb' 0 w = d := by
  refine ⟨?_, ?_, ?_, BitVec.extractLsb'_append_eq_right⟩ <;> rw [BitVec.extractLsb'_append_eq_of_le (by omega)]
  · rw [BitVec.extractLsb'_append_eq_of_le (by omega), Nat.add_sub_cancel, Nat.add_sub_cancel]
    exact BitVec.extractLsb'_append_eq_left
  · rw [BitVec.extractLsb'_append_eq_of_le (by omega), Nat.add_sub_cancel, Nat.sub_self]
    exact BitVec.extractLsb'_append_eq_right
  · rw [Nat.sub_self]
    exact BitVec.extractLsb'_append_eq_right

/-- A word is its four equal parts joined. -/
theorem four_parts_joined {w : Nat} (x : BitVec (w + w + w + w)) : x.extractLsb' (w + w + w) w ++ x.extractLsb' (w + w) w ++
    x.extractLsb' w w ++ x.extractLsb' 0 w = x := by
  rw [BitVec.extractLsb'_append_extractLsb'_eq_extractLsb' rfl, BitVec.extractLsb'_append_extractLsb'_eq_extractLsb' rfl,
    BitVec.extractLsb'_append_extractLsb'_eq_extractLsb' (Nat.zero_add w).symm, BitVec.extractLsb'_eq_self]

/-- A sector is its four blocks (R91). -/
theorem secBlocks_joined (d : Sector) : secBlock d 0 ++ secBlock d 1 ++ secBlock d 2 ++ secBlock d 3 = d :=
  four_parts_joined (w := 128) d

/-- The blocks of four blocks joined. -/
theorem secBlock_joined (a b c d : BitVec 128) : secBlock (a ++ b ++ c ++ d) 0 = a ∧ secBlock (a ++ b ++ c ++ d) 1 = b ∧
    secBlock (a ++ b ++ c ++ d) 2 = c ∧ secBlock (a ++ b ++ c ++ d) 3 = d := four_parts a b c d

/-- Decryption undoes the encryption of a sector (R91). -/
theorem xtsSectorInv_xtsSector (key : BitVec 512) (line : LineAddr) (k : Nat) (d : Sector) :
    xtsSectorInv key line k (xtsSector key line k d) = d := by
  unfold xtsSectorInv xtsSector
  dsimp only
  obtain ⟨b0, b1, b2, b3⟩ := secBlock_joined (xtsBlock key line (BitVec.ofNat 4 (4 * k + 0)) (secBlock d 0))
    (xtsBlock key line (BitVec.ofNat 4 (4 * k + 1)) (secBlock d 1)) (xtsBlock key line (BitVec.ofNat 4 (4 * k + 2)) (secBlock d 2))
    (xtsBlock key line (BitVec.ofNat 4 (4 * k + 3)) (secBlock d 3))
  rw [b0, b1, b2, b3]
  simp only [xtsBlockInv_xtsBlock]
  exact secBlocks_joined d

/-- The slices of a metadata word (R160). -/
theorem metaWord_slices (l : Label) (poison : BitVec 4) :
    (metaWord l poison).extractLsb' 48 16 = poison.extractLsb' 0 1 ++ l.slot ++ l.area ++ l.position ++ l.format ∧
    (metaWord l poison).extractLsb' 32 16 = poison.extractLsb' 1 1 ++ l.tag.extractLsb' 0 15 ∧
    (metaWord l poison).extractLsb' 16 16 = poison.extractLsb' 2 1 ++ l.tag.extractLsb' 15 15 ∧
    (metaWord l poison).extractLsb' 0 16 = poison.extractLsb' 3 1 ++ l.tag.extractLsb' 30 1 ++ (0 : BitVec 14) :=
  four_parts (w := 16) _ _ _ _

/-- The top bit of a slice of one, four or two parts after its poison bit (R160). -/
theorem poison_top (poison : BitVec 4) (n : Nat) (x : BitVec 15) :
    (poison.extractLsb' n 1 ++ x).getLsbD 15 = poison.getLsbD n := by
  simp only [BitVec.getLsbD_append, BitVec.getLsbD_extractLsb', Nat.reduceLT, Nat.reduceSub, ↓reduceIte, decide_true,
    Bool.true_and, Nat.add_zero]

theorem poison_top_four (poison : BitVec 4) (n : Nat) (s : BitVec 6) (a : BitVec 1) (q f : BitVec 4) :
    (poison.extractLsb' n 1 ++ s ++ a ++ q ++ f).getLsbD 15 = poison.getLsbD n := by
  simp only [BitVec.getLsbD_append, BitVec.getLsbD_extractLsb', Nat.reduceLT, Nat.reduceSub, ↓reduceIte, decide_true,
    Bool.true_and, Nat.add_zero]

theorem poison_top_two (poison : BitVec 4) (n : Nat) (t : BitVec 1) (z : BitVec 14) :
    (poison.extractLsb' n 1 ++ t ++ z).getLsbD 15 = poison.getLsbD n := by
  simp only [BitVec.getLsbD_append, BitVec.getLsbD_extractLsb', Nat.reduceLT, Nat.reduceSub, ↓reduceIte, decide_true,
    Bool.true_and, Nat.add_zero]

/-- The poison bits stand in the top bits of the slices (R160). -/
theorem metaWord_poison (l : Label) (poison : BitVec 4) {k : Nat} (hk : k < 4) :
    ((metaWord l poison).extractLsb' (48 - 16 * k) 16).getLsbD 15 = poison.getLsbD k := by
  obtain ⟨s0, s1, s2, s3⟩ := metaWord_slices l poison
  match k, hk with
  | 0, _ => exact (congrArg (BitVec.getLsbD · 15) s0).trans (poison_top_four ..)
  | 1, _ => exact (congrArg (BitVec.getLsbD · 15) s1).trans (poison_top ..)
  | 2, _ => exact (congrArg (BitVec.getLsbD · 15) s2).trans (poison_top ..)
  | 3, _ => exact (congrArg (BitVec.getLsbD · 15) s3).trans (poison_top_two ..)

/-- The key slot stands in the first slice (R161). -/
theorem metaWord_slot (l : Label) (poison : BitVec 4) : ((metaWord l poison).extractLsb' 48 16).extractLsb' 9 6 = l.slot := by
  refine (congrArg (BitVec.extractLsb' 9 6) (metaWord_slices l poison).1).trans ?_
  rw [BitVec.extractLsb'_append_eq_of_le (by decide), BitVec.extractLsb'_append_eq_of_le (by decide),
    BitVec.extractLsb'_append_eq_of_le (by decide)]
  exact BitVec.extractLsb'_append_eq_right

/-- Sector k of four sectors joined. -/
theorem sector_joined (s : Nat → Sector) {k : Nat} (hk : k < 4) :
    (s 0 ++ s 1 ++ s 2 ++ s 3).extractLsb' (1536 - 512 * k) 512 = s k := by
  obtain ⟨s0, s1, s2, s3⟩ := four_parts (s 0) (s 1) (s 2) (s 3)
  match k, hk with
  | 0, _ => exact s0
  | 1, _ => exact s1
  | 2, _ => exact s2
  | 3, _ => exact s3

/-- Settles O54: the image keeps what is sealed part by part, and decryption undoes encryption. -/
theorem sealedSectorsReadBack : Obligations.SealedSectorsReadBack := by
  intro d slot l poison v i sealed_ k hk
  obtain ⟨data, meta', -⟩ := outerEncode_parts (xtsSector (slotKeys d slot) l 0 (v 0) ++ xtsSector (slotKeys d slot) l 1 (v 1) ++
    xtsSector (slotKeys d slot) l 2 (v 2) ++ xtsSector (slotKeys d slot) l 3 (v 3))
    (metaWord (hostLabel slot (linePage l) (linePos l)) poison)
  rw [← sealedImage, ← sealed_] at data meta'
  constructor
  · rw [plainSector, imgSlice, meta', metaWord_slot, imgSector, data,
      sector_joined (fun k => xtsSector (slotKeys d slot) l k (v k)) hk]
    exact xtsSectorInv_xtsSector ..
  · rw [imgPoison, imgSlice, meta', metaWord_poison _ _ hk]

end Sys2Proof.Laws
end
section
/-! PROOF. Completion entries and the words that build a packet: the entry a completion posts at its queue's tail (R281,
R282, R284), and what each kind of word written to a queue's window leaves in the queue (R270 to R273). -/

namespace Sys2Proof.Laws

open Sys2Proof.Machine

/-- The first word of a completion entry (R282). -/
def entryHead (k code : Nat) (opcode tag : BitVec 16) (phase : Bool) : BitVec 64 :=
  BitVec.ofNat 16 code ++ opcode ++ tag ++ BitVec.ofBool phase ++ (0 : BitVec 1) ++ BitVec.ofNat 6 k ++ (0 : BitVec 8)

/-- The tail of a ring behind an entry, and the phase that turns over with the ring (R281). -/
def postedQueue (size : Nat) (q : Queue) : Queue :=
  { q with tail := (q.tail + 1) % size, phase := if (q.tail + 1) % size = 0 then !q.phase else q.phase }

/-- A completion entry that nothing holds back: the write at the tail, the tail moved on, the message. -/
theorem postEntry_sent {c : Ctl} {k code : Nat} {d : Dp} (opcode tag : BitVec 16) (quiet : Bool) (rs : List (BitVec 64))
    (master : d.hif.busMaster = true) (unmasked : d.hif.vecMask.getLsbD k = false)
    (uncounted : code = 0 ∨ pmuFrozen c = true) :
    postEntry c k code opcode tag quiet rs d =
      { modQ k (postedQueue (ringSize c k)) d with
        out := d.out ++ [.hostWrite (BitVec.ofNat 64 (ringBase c k + (qOf d k).tail * 32))
          [entryHead k code opcode tag (qOf d k).phase, rs.getD 0 0, rs.getD 1 0, rs.getD 2 0]] ++
          (if quiet then [] else [.msix k]) } := by
  have bit : (if (qOf d k).phase then (1 : BitVec 1) else 0) = BitVec.ofBool (qOf d k).phase := by
    cases (qOf d k).phase <;> rfl
  have count : ∀ d', (if code = 0 then d' else pmuCount c 23 0x12 1 d') = d' := fun d' => by
    rcases uncounted with h | h
    · exact if_pos h
    · rw [pmuCount_frozen h, ite_self]
  have written : ∀ a ws, hostWrite a ws d = emit (.hostWrite a ws) d := fun a ws => if_pos master
  have moved : ∀ o, modQ k (fun q => { q with
      tail := ((qOf d k).tail + 1) % ringSize c k
      phase := if ((qOf d k).tail + 1) % ringSize c k = 0 then !q.phase else q.phase }) (emit o d) =
      emit o (modQ k (postedQueue (ringSize c k)) d) := fun o =>
    modQ_congr (d := emit o d) (g := postedQueue (ringSize c k)) rfl
  unfold postEntry
  dsimp only
  rw [count, bit, written, moved]
  cases quiet with
  | true => simp only [emit, modQ_out, entryHead, if_true, List.append_nil]
  | false =>
    rw [if_neg Bool.false_ne_true, msix_sent (d := emit _ (modQ k (postedQueue (ringSize c k)) d)) unmasked master]
    simp only [emit, modQ_out, entryHead, Bool.false_eq_true, if_false]

/-- The completion of a queue's command is the entry of its queue, the hand empty. -/
theorem complete_ofQueue {c : Ctl} {d : Dp} {x : Cmd} {k : Nat} (cur : d.que.cur = some x) (queue : x.queue = some k)
    (st : Status) (rs : List (BitVec 64)) :
    complete c st rs d =
      postEntry c k st.code x.opcode x.tag x.quiet rs { d with que := { d.que with cur := none } } := by
  simp only [complete, completeAs, cur, queue]

/-- Settles O5: the entry that `postEntry_sent` names, at the tail of the command's own queue. -/
theorem completionIsPostedAtTheTail : Obligations.CompletionIsPostedAtTheTail := by
  unfold Obligations.CompletionIsPostedAtTheTail
  intro c d x k st rs q cur queue hq master unmasked quietly
  have uncounted : st.code = 0 ∨ pmuFrozen c = true := quietly.imp_left fun h => by rw [h]; rfl
  have sent := postEntry_sent (d := { d with que := { d.que with cur := none } }) x.opcode x.tag x.quiet rs master unmasked
    uncounted
  have moved : qOf (modQ k (postedQueue (ringSize c k)) { d with que := { d.que with cur := none } }) k =
      postedQueue (ringSize c k) q := by rw [qOf_modQ]; exact congrArg _ hq
  refine ⟨_, rfl, ?_⟩
  rw [complete_ofQueue cur queue, sent]
  refine ⟨rfl, congrArg Queue.tail moved, congrArg Queue.phase moved, ?_⟩
  subst hq
  rfl

/-- A write to an open window of a queue (R271): the queue as its word leaves it, the SRAM words it wrote recorded; a
commit is an exit trigger of DORMANT (R354). -/
theorem onQueue_open {c : Ctl} {d : Dp} {k : Nat} {q q' : Queue} {f : Queue → Queue} (isOpen : windowOpenQ c d k = true)
    (hq : qOf d k = q) (hf : f q = q') :
    onQueue k f c d =
      (if q'.cwp ≠ q.cwp then dormantExit c .queueCommit (queueWrote k q q' (modQ k (fun _ => q') d))
       else queueWrote k q q' (modQ k (fun _ => q') d)) := by
  have wrote : ∀ (old new : Queue) (d : Dp), qOf (queueWrote k old new d) k = qOf d k := fun old new d => by
    unfold queueWrote
    split
    · rfl
    · generalize List.range _ = l
      induction l generalizing d with
      | nil => rfl
      | cons i l ih => exact ih _
  have same : modQ k f d = modQ k (fun _ => q') d := modQ_congr (by rw [hq, hf])
  unfold onQueue
  rw [if_pos isOpen, hq, hf, same]
  dsimp only
  rw [wrote, qOf_modQ]

/-- A good data word with room for it goes to the tail of the open packet. -/
theorem takeData_good {w : QWord} {q : Queue} (isOpen : q.isOpen = true) (parity : w.parityOk = true)
    (wanted : q.have_ ≤ hdrWords q.header) (room : (q.wwp - q.crp).toNat < 1024) :
    takeData w true false q = storeWord w.word q := by
  have short : ¬ hdrWords q.header + 1 ≤ q.have_ := by omega
  have notFull : queueFull q = false := decide_eq_false (by omega)
  simp [takeData, wordFault, isOpen, parity, short, notFull]

/-- Good data words with room for them go to the tail of the open packet, in their order. -/
theorem foldl_takeData_good (ws : List QWord) (q : Queue) (isOpen : q.isOpen = true)
    (parity : ∀ w ∈ ws, w.parityOk = true) (wanted : q.have_ + ws.length ≤ hdrWords q.header + 1)
    (room : (q.wwp - q.crp).toNat + ws.length ≤ 1024) :
    ws.foldl (fun q w => takeData w true false q) q = ws.foldl (fun q w => storeWord w.word q) q := by
  induction ws generalizing q with
  | nil => rfl
  | cons w ws ih =>
    rw [List.length_cons] at wanted room
    have next : (q.wwp + 1 - q.crp).toNat = (q.wwp - q.crp).toNat + 1 := by
      bv_omega
    rw [List.foldl_cons, List.foldl_cons, takeData_good isOpen (parity w (by simp)) (by omega) (by omega)]
    refine ih (storeWord w.word q) isOpen (fun v hv => parity v (by simp [hv])) ?_ ?_
    · show q.have_ + 1 + ws.length ≤ hdrWords q.header + 1
      omega
    · show (q.wwp + 1 - q.crp).toNat + ws.length ≤ 1024
      omega

/-- The words of a data write leave the committed pointer where it is. -/
theorem foldl_storeWord_cwp (ws : List QWord) (q : Queue) :
    (ws.foldl (fun q w => storeWord w.word q) q).cwp = q.cwp := by
  induction ws generalizing q with
  | nil => rfl
  | cons w ws ih => exact ih (storeWord w.word q)

/-- A good word of 8 bytes opens a packet where none is open and the queue has room. -/
theorem beginWord_good {w : QWord} {q : Queue} (closed : q.isOpen = false) (parity : w.parityOk = true)
    (room : queueFull q = false) : beginWord w true false q = (q, true) := by
  simp [beginWord, wordFault, closed, parity, room]

/-- A good END word of a packet that has its words commits it. -/
theorem takeEnd_good {w : QWord} {q : Queue} (isOpen : q.isOpen = true) (parity : w.parityOk = true)
    (all : q.have_ = hdrWords q.header) (room : queueFull q = false) :
    takeEnd w true false q = commitPacket (storeWord w.word q) := by
  simp [takeEnd, wordFault, isOpen, parity, all, room]

/-- Settles O6: each word's effect on its queue, by `onQueue_open`. -/
theorem queueWordsBuildAPacket : Obligations.QueueWordsBuildAPacket := by
  unfold Obligations.QueueWordsBuildAPacket
  rintro s k q q' d window hq rfl
  have act : ∀ {f : Queue → Queue}, f q = q' →
      onDp (onQueue k f) s = .next (s.withDp (if q'.cwp ≠ q.cwp
        then dormantExit s.ctl .queueCommit (queueWrote k q q' (modQ k (fun _ => q') s.dp))
        else queueWrote k q q' (modQ k (fun _ => q') s.dp))) := fun {f} hf =>
    congrArg (fun d => Host.Outcome.next (s.withDp d)) (onQueue_open (f := f) window hq hf)
  refine ⟨fun w closed parity room after => ?_, fun off ws payload isOpen parity wanted room after => ?_,
    fun w isOpen parity all room moved after => ?_, fun w closed parity single room moved after => ?_⟩
  · have hf : takeBegin w true false q = q' := by
      rw [takeBegin, beginWord_good closed parity room, after]
      rfl
    have := act hf
    rwa [if_neg (by rw [after]; exact not_not_intro rfl)] at this
  · have hf : takeWrite off (8 * ws.length) ws false q = q' := by
      rw [takeWrite, if_pos payload, Nat.mul_div_cancel_left _ (by decide), List.take_length,
        foldl_takeData_good ws q isOpen parity wanted room, after]
    have := act hf
    rw [if_neg (by rw [after, foldl_storeWord_cwp]; exact not_not_intro rfl)] at this
    by_cases inside : off.toNat < 0x8000
    · rw [if_pos inside, ← this]
      exact congrArg (fun d => Host.Outcome.next (s.withDp d)) (if_neg (by omega))
    · rw [if_neg inside]
      exact congrArg (fun d => Host.Outcome.next (s.withDp d)) (if_pos (by omega))
  · have hf : takeEnd w true false q = q' := by
      rw [takeEnd_good isOpen parity all room, after]
      rfl
    have := act hf
    rwa [if_pos (by rw [after]; exact fun h => moved h.symm)] at this
  · have hf : takeBoth w true false q = q' := by
      rw [takeBoth, beginWord_good closed parity room, after]
      simp only [Bool.not_true, Bool.false_eq_true, if_false, if_pos single]
      rfl
    have := act hf
    rwa [if_pos (by rw [after]; exact fun h => moved h.symm)] at this

end Sys2Proof.Laws
end
section
/-! PROOF. Passphrases and erases: a wrong passphrase for Unlock (R389), the keys that a user passphrase wraps (R381, R383,
R385, R387), and the beginning and the commit point of the three erases (R390, R392). -/

namespace Sys2Proof.Laws

open Sys2Proof.Machine

/-- What every step of a fold keeps, the fold keeps. -/
theorem foldl_keeps {α β γ : Type} (p : β → γ) (f : β → α → β) (keeps : ∀ b a, p (f b a) = p b) (l : List α) (b : β) :
    p (l.foldl f b) = p b :=
  List.foldlRecOn l f (motive := fun x => p x = p b) rfl fun x hx a _ => (keeps x a).trans hx

/-- The capture of a first error depends on the fault collector alone. -/
theorem captureFirst_flt_congr {d e : Dp} (src : BitVec 8) (fe : FirstErr) (flt : d.flt = e.flt) :
    (captureFirst src fe d).flt = (captureFirst src fe e).flt := by
  unfold captureFirst
  rw [flt]
  split
  · exact flt
  · rfl

/-- A message's way into its source's queue depends on the fault collector alone. -/
theorem sendMsg_flt_congr {d e : Dp} (m : Msg) (flt : d.flt = e.flt) : (sendMsg m d).flt = (sendMsg m e).flt := by
  unfold sendMsg
  dsimp only
  rw [flt]
  split <;> rfl

/-- A message's effect on the fault collector depends on the collector and the time alone. -/
theorem raise_flt_congr {d e : Dp} (src kind addr aux master access : Nat) (flt : d.flt = e.flt) (now : d.now = e.now) :
    (raise src kind addr aux master access d).flt = (raise src kind addr aux master access e).flt := by
  unfold raise
  rw [now]
  exact sendMsg_flt_congr _ (captureFirst_flt_congr _ _ flt)

/-- What a wrong user passphrase leaves of a locked part (R389): one attempt fewer, and the answer held back. -/
theorem wrongPass_locked {d : Dp} {x : Cmd} (locked : d.sec.st = .locked) (cur : d.que.cur = some x) :
    wrongPass false d = { d with
      sec := { d.sec with
        userLeft := d.sec.userLeft - 1, st := if d.sec.userLeft ≤ 1 then .exhausted else .locked }
      que := { d.que with delayed := some (x, Ret.incorrectPassphrase.code, []) } } := by
  have counts : passCounts d = true := by simp [passCounts, locked]
  have counted : wrongCount false d = { d with sec := { d.sec with
      userLeft := d.sec.userLeft - 1, st := if d.sec.userLeft ≤ 1 then .exhausted else .locked } } := by
    simp [wrongCount, counts, locked, Nat.sub_eq_zero_iff_le]
  simp only [wrongPass, counted, cur]

/-- Unlock with a wrong passphrase, the command being in hand and the part locked (R389). -/
theorem unlockCmd_wrong {c : Ctl} {d : Dp} (ready : StdReady d 0x4503 0x20) (locked : d.sec.st = .locked)
    (given : passAt d 0 ≠ 0) (wrong : passOk false (passAt d 0) d = false) :
    unlockCmd c d = unlockWrong c (pmuCount c 22 0x12 1 d) := by
  obtain ⟨hand, free, len⟩ := ready
  simp [unlockCmd, hand, free, len, locked, wrong, show ¬ passAt d 0 = 0#256 from given]

/-- Settles O11. -/
theorem wrongUnlockIsCountedAndDelayed : Obligations.WrongUnlockIsCountedAndDelayed := by
  unfold Obligations.WrongUnlockIsCountedAndDelayed
  refine ⟨fun s x ready cur locked given wrong => ?_, fun s x delayed => ?_⟩
  · obtain ⟨pmu, hif, out, counted⟩ := pmuCount_frame s.ctl 22 0x12 1 s.dp
    have held := wrongPass_locked (d := { s.dp with pmu := pmu, hif := hif, out := out }) locked cur
    obtain ⟨flt, raised⟩ := raise_frame 0x68 0x3D 0 (s.dp.sec.userLeft - 1) 0x09 noAccess
      (wrongPass false (pmuCount s.ctl 22 0x12 1 s.dp))
    have sameFlt := raise_flt_congr (d := wrongPass false (pmuCount s.ctl 22 0x12 1 s.dp)) (e := s.dp)
      0x68 0x3D 0 (s.dp.sec.userLeft - 1) 0x09 noAccess (by rw [counted, held]) (by rw [counted, held])
    have left : (wrongPass false (pmuCount s.ctl 22 0x12 1 s.dp)).sec.userLeft = s.dp.sec.userLeft - 1 := by
      rw [counted, held]
    have effect : unlockCmd s.ctl s.dp = (cntInc 7 s.ctl, raise 0x68 0x3D 0 (s.dp.sec.userLeft - 1) 0x09 noAccess
        (wrongPass false (pmuCount s.ctl 22 0x12 1 s.dp))) := by
      rw [unlockCmd_wrong ready locked given wrong, unlockWrong, left]
    refine ⟨_, rfl, ?_⟩
    dsimp only
    rw [effect]
    dsimp only
    rw [sameFlt, raised, counted, held]
    exact ⟨rfl, rfl, rfl, rfl, rfl, rfl, cur, rfl, rfl⟩
  · refine congrArg Host.Outcome.next (congrArg (State.withDp s) ?_)
    simp only [delayed]
    rfl

/-- A key unwraps under the key it was wrapped with (R381). -/
theorem keyUnwrap_keyWrap (kek key : BitVec 256) : keyUnwrap kek (keyWrap kek key) = some key := by
  obtain ⟨check, rest⟩ := wrap_key 0xA6A6A6A6A6A6A6A6 key _ rfl
  unfold keyUnwrap keyWrap
  rw [wrapSteps_undone]
  dsimp only
  rw [check, rest, if_pos rfl]

/-- The steps of the unwrapping name one wrapped key each: they undo the wrapping of all 320-bit words. -/
theorem unwrapSteps_injective (kek : BitVec 256) (l : List Nat) :
    Function.Injective fun w : BitVec 320 => l.foldr (wrapStepInv kek) w := by
  have : Finite (BitVec 320) := Finite.of_injective BitVec.toFin fun _ _ e => BitVec.eq_of_toFin_eq e
  exact Finite.injective_iff_surjective.2 fun w => ⟨l.foldl (wrapStep kek) w, wrapSteps_undone kek l w⟩

/-- A word is the check value and the key that its parts are. -/
theorem checked_joined {w : BitVec 320} (check : w.extractLsb' 256 64 = 0xA6A6A6A6A6A6A6A6) :
    w = (0xA6A6A6A6A6A6A6A6 : BitVec 64) ++ w.extractLsb' 0 256 := by
  rw [← check]
  apply BitVec.eq_of_getLsbD_eq
  intro j hj
  rw [BitVec.getLsbD_append]
  split
  · rw [BitVec.getLsbD_extractLsb', decide_eq_true (by omega), Bool.true_and, Nat.zero_add]
  · rw [BitVec.getLsbD_extractLsb', decide_eq_true (by omega), Bool.true_and, show 256 + (j - 256) = j by omega]

/-- What unwraps to a key is that key wrapped (R381). -/
theorem eq_keyWrap_of_keyUnwrap {kek key : BitVec 256} {w : BitVec 320} (h : keyUnwrap kek w = some key) :
    w = keyWrap kek key := by
  unfold keyUnwrap at h
  dsimp only at h
  split at h
  next check =>
    have joined := checked_joined check
    rw [Option.some.inj h] at joined
    refine unwrapSteps_injective kek ((List.range 24).map (· + 1)) (joined.trans ?_)
    exact (wrapSteps_undone kek _ _).symm
  next => exact absurd h (by simp)

/-- The slots of a page of the processor's own flash have fixed places. -/
theorem slotKey_own {page : Nat} (own : page < 64) (d : Dp) (a : Nat) : slotKey d page a = 2 * page + a := by
  have : onMedia d page = false := by simp [onMedia]; omega
  rw [slotKey, this]
  rfl

/-- A security record of a page of the processor's own flash leaves the slots of other pages. -/
theorem modSec_slots {page n : Nat} (own : page < 64) (f : SecRec → SecRec) (d : Dp) (other : ∀ i < 2, n ≠ 2 * page + i) :
    smGet {} (modSec page f d).pst.slots n = smGet {} d.pst.slots n :=
  recordPage_slots _ _ _ _ _ fun i hi => by rw [slotKey_own own]; exact other i hi

/-- What a new user passphrase leaves, but for the count and the answer (R383, R385). -/
def userSet (salt : BitVec 128) (pass key : BitVec 256) (d : Dp) : Dp :=
  let d1 := modSec 16 (fun r => { r with userSet := true, userSalt := salt, userVer := verifierOf false salt pass }) d
  wrapMedia key { d1 with sec := { d1.sec with userKek := some (userKekOf salt pass), st := .unlocked } }

/-- The wrapped key that a new user passphrase leaves is the media master key under the user KEK (R383). -/
theorem userSet_wrapped (salt : BitVec 128) (pass key : BitVec 256) (d : Dp) :
    (userSet salt pass key d).pst.sec.wrapped = some (keyWrap (userKekOf salt pass) key) := by
  unfold userSet
  generalize userKekOf salt pass = kek
  generalize verifierOf false salt pass = ver
  rfl

/-- The salt that a new user passphrase leaves. -/
theorem userSet_salt (salt : BitVec 128) (pass key : BitVec 256) (d : Dp) :
    (userSet salt pass key d).pst.sec.userSalt = salt := rfl

/-- A new user passphrase is stored in page 16 alone. -/
theorem userSet_slots (salt : BitVec 128) (pass key : BitVec 256) (d : Dp) {n : Nat} (other : ∀ i < 2, n ≠ 2 * 16 + i) :
    smGet {} (userSet salt pass key d).pst.slots n = smGet {} d.pst.slots n := by
  unfold userSet wrapMedia
  generalize verifierOf false salt pass = ver
  rw [modSec_slots (by decide) _ _ other]
  dsimp only
  rw [modSec_slots (by decide) _ _ other]

/-- Setting a user passphrase is its effect with a drawn salt, the security and parameter records then left alone. -/
theorem setUser_effect {c : Ctl} {pass key : BitVec 256} {d : Dp} (held : d.sec.mediaKey = some key) :
    ∃ salt que pmu hif out, setUser c pass d =
      { userSet salt pass key (bump d) with que := que, pmu := pmu, hif := hif, out := out } := by
  obtain ⟨pmu, hif, out, counted⟩ := pmuCount_frame c 22 0x12 3
    (userSet ((draw256 d).1.extractLsb' 0 128) pass key (bump d))
  obtain ⟨que, hif', out', answered⟩ := mailboxReply_frame .success []
    (pmuCount c 22 0x12 3 (userSet ((draw256 d).1.extractLsb' 0 128) pass key (bump d)))
  refine ⟨(draw256 d).1.extractLsb' 0 128, que, pmu, hif', out', ?_⟩
  have opened : setUser c pass d = mailboxReply .success []
      (pmuCount c 22 0x12 3 (userSet ((draw256 d).1.extractLsb' 0 128) pass (d.sec.mediaKey.getD 0) (bump d))) := rfl
  rw [opened, held, Option.getD_some, answered, counted]

/-- Settles O12. -/
theorem userPassphraseWrapsTheMediaKey : Obligations.UserPassphraseWrapsTheMediaKey := by
  unfold Obligations.UserPassphraseWrapsTheMediaKey
  refine ⟨fun c pass key d d' set held => ?_, fun kek key w => ⟨keyUnwrap_keyWrap kek key, eq_keyWrap_of_keyUnwrap⟩⟩
  obtain ⟨salt, que, pmu, hif, out, effect⟩ := setUser_effect (c := c) (pass := pass) held
  rw [← set, effect]
  refine ⟨rfl, rfl, rfl, rfl, rfl, rfl, ?_, rfl, fun n other => ?_⟩
  · show ((userSet salt pass key (bump d)).pst.sec.wrapped.bind fun w =>
      keyUnwrap (userKekOf (userSet salt pass key (bump d)).pst.sec.userSalt pass) w) = some key
    rw [userSet_wrapped, userSet_salt, Option.bind_some, keyUnwrap_keyWrap]
  · exact userSet_slots salt pass key (bump d) fun i hi => slotKey_own (page := 16) (by decide) d i ▸ other i hi

end Sys2Proof.Laws
end
section
/-! PROOF. The three erases begin and commit (R390, R392). -/

namespace Sys2Proof.Laws

open Sys2Proof.Machine

/-- A command's step, from its effect on the datapath. -/
theorem onDp_step {s : State} {f : Ctl → Dp → Dp} {d : Dp} (effect : f s.ctl s.dp = d) :
    onDp f s = .next (s.withDp d) := effect ▸ rfl

/-- The step of an Oxsar command in hand, from its effect. -/
theorem hand_step {s : State} {f : Ctl → Dp → Dp} {x : Nat} {d : Dp} (hand : inHand s.dp x = true)
    (effect : f s.ctl s.dp = d) : whenHand x f s = .next (s.withDp d) := effect ▸ whenHand_in f hand

/-- The step of a standard command in hand and not delayed, from its effect. -/
theorem std_step {s : State} {f : Ctl → Dp → Dp} {x : Nat} {d : Dp} (hand : stdInHand s.dp x = true)
    (free : s.dp.que.delayed = none) (effect : f s.ctl s.dp = d) : whenStd x f s = .next (s.withDp d) :=
  effect ▸ whenStd_in f hand free

/-- An erase command with nothing in its way begins its erase (R390). -/
theorem eraseCmd_begins {c : Ctl} {op : BitVec 16} {kind : BitVec 2} {d : Dp} (idle : d.que.bg = none)
    (none_ : d.sec.erase = false) (len : d.que.mboxLen = 0) (st : d.sec.st = .disabled ∨ d.sec.st = .unlocked) :
    eraseCmd c op kind d = beginErase c op kind d := by
  have allowed : ¬ (d.sec.st ≠ .disabled ∧ d.sec.st ≠ .unlocked) := by rcases st with h | h <;> simp [h]
  rw [eraseCmd, unlessBusy_idle _ idle none_, withLen_ok _ len, if_neg allowed]

/-- A right passphrase carries its command out (R389). -/
theorem withPass_right {c : Ctl} {master : Bool} {off : Nat} {d : Dp} (f : Dp → Dp) (given : passAt d off ≠ 0)
    (right : passOk master (passAt d off) d = true) :
    withPass c master off f d = f (rightPass master (pmuCount c 22 0x12 1 d)) := by
  simp only [withPass, if_neg given, right, if_true]

/-- The background work that a commit of an erase stops leaves the security unit, its records and the cache. -/
theorem stopBackground_frame (d : Dp) :
    ∃ map hbm mh acc, stopBackground d = { d with map := map, hbm := hbm, mh := mh, acc := acc } := by
  have unheld : ∀ (l : List Rewrite) (d : Dp), ∃ map hbm,
      l.foldl (fun d r => unhold r.dst d) d = { d with map := map, hbm := hbm } := fun l => by
    induction l with
    | nil => exact fun d => ⟨_, _, rfl⟩
    | cons r l ih =>
      intro d
      obtain ⟨map, hbm, e⟩ := ih (unhold r.dst d)
      exact ⟨map, hbm, e⟩
  obtain ⟨map, hbm, e⟩ := unheld (d.mh.rewrites.filter fun r => !r.inPlace) d
  unfold stopBackground
  dsimp only
  rw [e]
  exact ⟨map, hbm, _, _, rfl⟩

/-- Clearing the mapping leaves the security unit, its records, the cache and the merge buffer. -/
theorem clearMapping_frame (d : Dp) :
    ∃ map jrn mh logs, clearMapping d = { d with map := map, jrn := jrn, mh := mh, logs := logs } ∧
      map.copyA = [] ∧ map.copyB = [] ∧ map.cache = [] := by
  have cursors : ∀ (l : List Nat) (chan : Nat) (d : Dp), ∃ mh,
      l.foldl (fun d s => setCursor s chan (2 ^ 24) d) d = { d with mh := mh } := fun l chan => by
    induction l with
    | nil => exact fun d => ⟨_, rfl⟩
    | cons s l ih =>
      intro d
      obtain ⟨mh, e⟩ := ih (setCursor s chan (2 ^ 24) d)
      exact ⟨mh, e⟩
  have units : ∀ (l : List (Nat × BitVec 4)) (d : Dp), ∃ mh,
      l.foldl (fun d r => (rebuildSets d r.2).foldl (fun d s => setCursor s r.1 (2 ^ 24) d) d) d = { d with mh := mh } :=
    fun l => by
      induction l with
      | nil => exact fun d => ⟨_, rfl⟩
      | cons r l ih =>
        intro d
        obtain ⟨mh, e⟩ := cursors (rebuildSets d r.2) r.1 d
        rw [List.foldl_cons, e]
        exact ih { d with mh := mh }
  obtain ⟨mh, e⟩ := units (rebuilds d) d
  unfold clearMapping
  dsimp only
  rw [e]
  exact ⟨_, _, _, _, rfl, rfl, rfl, rfl⟩

/-- What the emptying of the persistence domain leaves (R392 step 3): the security unit and its records, and of the cache
the ways that are locked, empty. -/
theorem emptyDomain_frame (d : Dp) :
    (emptyDomain d).pst = d.pst ∧ (emptyDomain d).sec = { d.sec with heldSectors := [] } ∧
    (emptyDomain d).mrg.entries = [] ∧ (emptyDomain d).mrg.deltas = [] ∧
    ∀ x ∈ (emptyDomain d).lc.ways, x.2.valid = false ∧ x.2.sv = 0 ∧ x.2.sd = 0 ∧ x.2.lock = true := by
  obtain ⟨map, hbm, mh, acc, stopped⟩ := stopBackground_frame d
  unfold emptyDomain
  dsimp only
  refine ⟨by rw [stopped]; rfl, by rw [stopped]; rfl, rfl, rfl, fun x hx => ?_⟩
  obtain ⟨y, -, kept⟩ := List.mem_filterMap.1 hx
  split at kept
  · rw [← Option.some.inj kept]
    exact ⟨rfl, rfl, rfl, rfl⟩
  · exact absurd kept (by simp)

/-- Settles O13. -/
theorem erasesBeginAndCommit : Obligations.ErasesBeginAndCommit := by
  unfold Obligations.ErasesBeginAndCommit
  refine ⟨fun s idle none_ => ⟨fun ⟨hand, free, len⟩ st => ?_, fun ⟨hand, free, len⟩ st => ?_,
    fun d1 ⟨hand, free, len⟩ kind st given right after => ?_, fun t ht live => ?_⟩, fun d d' commit kind => ?_⟩
  · change execSanitize s = _
    refine std_step hand free ?_
    rw [eraseCmd_begins idle none_ len st, beginErase, if_pos rfl]
  · change execSecureErase s = _
    refine std_step hand free ?_
    rw [eraseCmd_begins idle none_ len st, beginErase, if_neg (by decide)]
  · change execPassphraseSecureErase s = _
    refine std_step hand free ?_
    have allowed : pseAllows false s.dp = true := by rcases st with h | h <;> simp [pseAllows, h]
    rw [unlessBusy_idle _ idle none_, withLen_ok _ len]
    dsimp only
    rw [kind, if_neg (by decide), decide_eq_false (by decide), allowed, if_neg (by decide), withPass_right _ given right,
      after, beginErase, if_neg (by decide)]
  · subst ht
    change execEraseCursorWrite _ = _
    refine onDp_step ?_
    exact if_pos live
  · subst commit
    unfold commitErase eraseFrom4
    dsimp only
    generalize wrapped : wrapMedia (draw256 d).1 _ = d1
    have key : d1.sec.mediaKey = some (draw256 d).1 := by rw [← wrapped]; rfl
    have begun : d1.pst.sec.eraseInProgress = true ∧ d1.pst.sec.eraseCommitted = true := by
      rw [← wrapped]
      exact ⟨rfl, rfl⟩
    have user : d.sec.eraseKind = 2 → d1.pst.sec.userSet = false ∧ d1.sec.st = .disabled := fun two => by
      rw [← wrapped, two]
      exact ⟨Bool.and_false _, rfl⟩
    have kept : d1.sec.eraseKind = d.sec.eraseKind := by rw [← wrapped]; rfl
    obtain ⟨pst, sec, entries, deltas, ways⟩ := emptyDomain_frame d1
    obtain ⟨map, jrn, mh, logs, cleared, copyA, copyB, cache⟩ := clearMapping_frame (emptyDomain d1)
    have kind' : ¬ (emptyDomain d1).sec.eraseKind = 3 := by rw [sec]; exact kept ▸ kind
    rw [if_neg kind', cleared, startFinalPass]
    dsimp only
    rw [pst, sec]
    exact ⟨key, ways, entries, deltas, rfl, copyA, copyB, cache, begun.1, begun.2, user⟩

end Sys2Proof.Laws
end
section
/-! SUPPORT. What counting, recording, credits and the HBM's entry arbiters leave: the line cache's ways, the merge buffer,
the mapping and its journal, the requests pending, the channels, the queues and the state of the link; and of the outputs, what was sent before. -/

namespace Sys2Proof.Laws

open Sys2Proof.Machine

/-- What the work beside an answer leaves as it is. -/
def heldCore (d : Dp) :=
  (d.acc, d.lc.ways, d.mrg, d.map, d.sec, d.hif.rate, d.hif.ideFailed, d.hif.drs, d.jrn, d.mh, d.chans, d.que, d.pst,
    d.now)

/-- One state comes of another by work beside the answers: the outputs go on, the core stands. -/
def Beside (d e : Dp) : Prop := heldCore e = heldCore d ∧ d.out <+: e.out

theorem beside_refl (d : Dp) : Beside d d := ⟨rfl, List.prefix_refl _⟩

theorem beside_trans {d e f : Dp} (h : Beside d e) (h' : Beside e f) : Beside d f :=
  ⟨h'.1.trans h.1, h.2.trans h'.2⟩

/-- A change outside the core that sends nothing. -/
theorem beside_of_out {d e : Dp} (core : heldCore e = heldCore d) (out : e.out = d.out) : Beside d e :=
  ⟨core, out ▸ List.prefix_refl _⟩

theorem beside_emit (o : Out) (d : Dp) : Beside d (emit o d) := ⟨rfl, List.prefix_append _ _⟩

/-- A conditional step is beside the answers where the step is. -/
theorem beside_ite (p : Prop) [Decidable p] {d e : Dp} (h : Beside d e) : Beside d (if p then e else d) := by
  split
  · exact h
  · exact beside_refl d

theorem foldl_beside {α : Type} (f : Dp → α → Dp) (h : ∀ d a, Beside d (f d a)) (l : List α) (d : Dp) :
    Beside d (l.foldl f d) :=
  List.foldlRecOn l f (motive := Beside d) (beside_refl d) fun _ hx a _ => beside_trans hx (h _ a)

theorem beside_msix (v : Nat) (d : Dp) : Beside d (msix v d) := by
  unfold msix
  split
  · exact beside_of_out rfl rfl
  · split
    · exact beside_emit _ d
    · exact beside_of_out rfl rfl

theorem beside_pmuAdd (c : Ctl) (u n k : Nat) (d : Dp) : Beside d (pmuAdd c u n k d) := by
  unfold pmuAdd
  dsimp only
  split
  · exact beside_of_out rfl rfl
  · split
    · exact beside_trans (e := { d with pmu := { d.pmu with
        cnt := smSet 0 d.pmu.cnt (u * 8 + n) (smGet 0 d.pmu.cnt (u * 8 + n) + BitVec.ofNat 48 k)
        ovf := smSet 0 d.pmu.ovf u (setBit (smGet 0 d.pmu.ovf u) n) } }) (beside_of_out rfl rfl) (beside_msix 71 _)
    · exact beside_of_out rfl rfl

theorem beside_pmuTicks (c : Ctl) (u code k : Nat) (d : Dp) : Beside d (pmuTicks c u code k d) := by
  unfold pmuTicks
  extract_lets d1
  have others : Beside d d1 := by
    unfold d1
    split
    · obtain ⟨pmu, e⟩ := pmuOthers_frame c u code k d
      rw [e]
      exact beside_of_out rfl rfl
    · exact beside_refl d
  refine beside_trans others ?_
  split
  · exact beside_refl _
  · refine foldl_beside _ (fun d n => ?_) _ _
    split
    · split
      · exact beside_of_out rfl rfl
      · exact beside_pmuAdd c u n k d
    · exact beside_refl d

theorem beside_pmuCount (c : Ctl) (u code k : Nat) (d : Dp) : Beside d (pmuCount c u code k d) := by
  unfold pmuCount
  split
  · exact beside_refl d
  · exact beside_pmuTicks c u code k d

theorem beside_pmuBytes (p k : Nat) (d : Dp) : Beside d (pmuBytes p k d) := by
  unfold pmuBytes
  split <;> exact beside_of_out rfl rfl

theorem beside_raise (src kind addr aux master access : Nat) (d : Dp) :
    Beside d (raise src kind addr aux master access d) := by
  obtain ⟨flt, e⟩ := raise_frame src kind addr aux master access d
  rw [e]
  exact beside_of_out rfl rfl

/-! The records of an answer (R70, R77, R251). -/

theorem beside_recordRead (c : Ctl) (line : SecAddr) (lat : Nat) (ceiling : Bool) (d : Dp) :
    Beside d (recordRead c line lat ceiling d) := by
  unfold recordRead
  dsimp only
  split
  · split
    · exact beside_of_out rfl rfl
    · refine beside_trans ?_ (beside_trans (beside_raise 0x40 0x30 line.toNat 0 0x00 0 _) (beside_pmuCount c 0 0x1C 1 _))
      exact beside_of_out rfl rfl
  · refine beside_trans ?_ (beside_pmuCount c 0 0x1B 1 _)
    exact beside_of_out rfl rfl

theorem beside_putSample (c : Ctl) (x : Sample) (d : Dp) : Beside d (putSample c x d) := by
  unfold putSample
  dsimp only
  split
  · exact beside_of_out rfl rfl
  · split
    · refine beside_trans ?_ (beside_msix 71 _)
      exact beside_of_out rfl rfl
    · exact beside_of_out rfl rfl

theorem beside_recordAnswer (c : Ctl) (p : Pend) (r : Resp) (d : Dp) : Beside d (recordAnswer c p r d) := by
  unfold recordAnswer
  extract_lets lat rd fault ceiling d1 d2 d3 kind
  have h1 : Beside d d1 := beside_ite _ (beside_recordRead ..)
  have h2 : Beside d1 d2 := beside_ite _ (beside_pmuCount ..)
  have h3 : Beside d2 d3 := beside_ite _ (beside_of_out rfl rfl)
  exact beside_trans h1 (beside_trans h2 (beside_trans h3 (beside_ite _ (beside_putSample c _ d3))))

/-! Credits (R251, R98). -/

theorem beside_giveCredit (c : Ctl) (d : Dp) : Beside d (giveCredit c d) := by
  obtain ⟨b, e⟩ := updWithhold_frame c d
  unfold giveCredit
  rw [e]
  dsimp only
  have sent : ∀ (o : Out) (hif : Hif), hif.rate = d.hif.rate → hif.ideFailed = d.hif.ideFailed → hif.drs = d.hif.drs →
      Beside d (emit o { d with hif := hif }) := fun o hif rate failed drs =>
    beside_trans (e := { d with hif := hif }) (beside_of_out (by simp only [heldCore, rate, failed, drs]) rfl)
      (beside_emit o _)
  split
  · split
    · exact sent _ _ rfl rfl rfl
    · exact sent _ _ rfl rfl rfl
  · exact sent _ _ rfl rfl rfl

theorem beside_freeEntry (c : Ctl) (d : Dp) : Beside d (freeEntry c d) := by
  unfold freeEntry
  split
  · exact beside_refl d
  · split
    · exact beside_of_out rfl rfl
    · exact beside_giveCredit c d

theorem beside_returnEntries (c : Ctl) (n : Nat) (d : Dp) : Beside d (returnEntries c n d) := by
  induction n generalizing d with
  | zero => exact beside_refl d
  | succ n ih =>
    unfold returnEntries
    split
    · exact beside_refl d
    · refine beside_trans ?_ (beside_trans (beside_giveCredit c { d with hif := { d.hif with
        unreturned := d.hif.unreturned - 1, returned := d.hif.returned + 1 } }) (ih _))
      exact beside_of_out rfl rfl

/-- In service a request may cancel an entry to DORMANT (R354), beside the answers. -/
theorem beside_memTrigger {c : Ctl} {d : Dp} (serve : d.sup.mode = .serve) : Beside d (memTrigger c d) := by
  unfold memTrigger
  split
  · exact beside_refl d
  · rw [if_neg (by rw [serve]; decide)]
    refine beside_ite _ (beside_trans ?_ (beside_returnEntries c _ _))
    exact beside_of_out rfl rfl

/-! The HBM's entry arbiters (R203, R206, R208). -/

theorem beside_hostActivate (c : Ctl) (pc bank row : Nat) (d : Dp) : Beside d (hostActivate c pc bank row d) := by
  unfold hostActivate
  dsimp only
  split <;> exact beside_of_out rfl rfl

theorem beside_bgActivate (c : Ctl) (q : Option Nat) (pc bank row : Nat) (d : Dp) :
    Beside d (bgActivate c q pc bank row d) := by
  unfold bgActivate
  dsimp only
  split
  · exact beside_of_out rfl rfl
  · split
    · exact beside_of_out rfl rfl
    · refine beside_trans ?_ (beside_pmuCount c 20 0x16 1 _)
      exact beside_of_out rfl rfl

theorem beside_activate (c : Ctl) (e : HbmEnt) (d : Dp) : Beside d (activate c e d) := by
  have twice : ∀ (f : Dp → Dp) (d : Dp), (∀ d, Beside d (f d)) → Beside d (if e.n = 2 then f (f d) else f d) :=
    fun f d h => by
      split
      · exact beside_trans (h d) (h _)
      · exact h d
  have written : ∀ (x : RctLoc) (d : Dp), Beside d (rctWritten x d) := fun x d => beside_of_out rfl rfl
  unfold activate
  dsimp only
  split
  · exact beside_hostActivate ..
  · exact beside_trans (beside_pmuCount ..) (beside_trans (twice _ _ fun d => beside_hostActivate ..) (written _ _))
  · exact beside_trans (beside_bgActivate ..) (written _ _)
  · exact beside_trans (beside_pmuCount ..) (beside_trans (twice _ _ fun d => beside_bgActivate ..) (written _ _))
  · exact beside_refl d

theorem beside_letIn (c : Ctl) (e : HbmEnt) (d : Dp) : Beside d (letIn c e d) := by
  unfold letIn
  dsimp only
  have admitted : Beside d { d with hbm := { d.hbm with
    wait := d.hbm.wait.erase e, queue := d.hbm.queue ++ [e]
    lastWin := if e.use = .refresh then d.hbm.lastWin else smSet 3 d.hbm.lastWin e.pc e.use.ring } } :=
    beside_of_out rfl rfl
  refine beside_trans admitted (beside_trans (beside_activate c e _) ?_)
  exact beside_of_out rfl rfl

theorem beside_admitGo (c : Ctl) (n : Nat) (d : Dp) : Beside d (admitGo c n d) := by
  induction n generalizing d with
  | zero => exact beside_refl d
  | succ n ih =>
    unfold admitGo
    split
    · exact beside_trans (beside_letIn c _ d) (ih _)
    · exact beside_refl d

theorem beside_hbmSend (c : Ctl) (e : HbmEnt) (d : Dp) : Beside d (hbmSend c e d) := by
  unfold hbmSend
  split
  · exact beside_refl d
  · refine beside_trans ?_ (beside_admitGo c _ _)
    exact beside_of_out rfl rfl

end Sys2Proof.Laws
end
section
/-! PROOF. Held sectors and the write ceiling: the value of a sector after a write hit (R81, R162, R178), the read of a
sector that the line cache or the merge buffer holds (R56, R66, R254), and the withholding of RwD credits (R98, R99, R101,
R251). -/

namespace Sys2Proof.Laws

open Sys2Proof.Machine

/-! A write hit. -/

/-- A bit of a mask after it is set. -/
theorem setBit_getLsbD_self {w : Nat} (v : BitVec w) {k : Nat} (h : k < w) : (setBit v k).getLsbD k = true := by
  rw [setBit, BitVec.getLsbD_or, BitVec.getLsbD_ofNat, Nat.testBit_two_pow_self, decide_eq_true h]
  simp

/-- A bit of a mask after it is cleared. -/
theorem clrBit_getLsbD_self {w : Nat} (v : BitVec w) {k : Nat} (h : k < w) : (clrBit v k).getLsbD k = false := by
  rw [clrBit, BitVec.getLsbD_and, BitVec.getLsbD_not, BitVec.getLsbD_ofNat, Nat.testBit_two_pow_self, decide_eq_true h]
  simp

/-- The sector just put into a way is there. -/
theorem Way_sector_put (w : Way) (k : Nat) (v : Sector) : (w.put k v).sector k = v := by
  match k with
  | 0 => rfl
  | 1 => rfl
  | 2 => rfl
  | _ + 3 => rfl

/-- The sector just written to a way is there, as zeros where it is poisoned (R162). -/
theorem Way_sector_write (w : Way) (k : Nat) (v : Sector) (poison : Bool) (now : Stamp) :
    (w.write k v poison now).sector k = if poison then 0 else v :=
  Way_sector_put w k _

/-- A write of a way leaves the line it is for. -/
theorem Way_write_line (w : Way) (k : Nat) (v : Sector) (poison : Bool) (now : Stamp) :
    (w.write k v poison now).valid = w.valid ∧ (w.write k v poison now).tag = w.tag := by
  unfold Way.write Way.put
  split <;> exact ⟨rfl, rfl⟩

/-- A way after it is stored. -/
theorem getWay_setWay (key : Nat) (w : Way) (d : Dp) : getWay (setWay key w d) key = w := smGet_smSet_same ..

/-- Another way after one is stored. -/
theorem getWay_setWay_ne {key other : Nat} (w : Way) (d : Dp) (h : other ≠ key) :
    getWay (setWay key w d) other = getWay d other := smGet_smSet_other _ _ _ _ _ h

/-- Storing a way that is for the same line leaves every line where it is found. -/
theorem findWay_setWay {key : Nat} {w : Way} {d : Dp} (valid : w.valid = (getWay d key).valid)
    (tag : w.tag = (getWay d key).tag) (l : LineAddr) : findWay (setWay key w d) l = findWay d l := by
  have same : ∀ k, (getWay (setWay key w d) k).valid = (getWay d k).valid ∧
      (getWay (setWay key w d) k).tag = (getWay d k).tag := fun k => by
    by_cases h : k = key
    · rw [h, getWay_setWay]
      exact ⟨valid, tag⟩
    · rw [getWay_setWay_ne w d h]
      exact ⟨rfl, rfl⟩
  unfold findWay
  refine congrArg (List.findSome? · (List.range 16)) (funext fun k => ?_)
  rw [(same _).1, (same _).2]

theorem secIdx_lt (a : SecAddr) : secIdx a < 4 := (a.extractLsb' 0 2).isLt

/-- Settles O21. -/
theorem writeHitIsTheHeldValue : Obligations.WriteHitIsTheHeldValue := by
  unfold Obligations.WriteHitIsTheHeldValue
  intro d key a v poison found
  obtain ⟨valid, tag⟩ := Way_write_line (getWay d key) (secIdx a) v poison d.now
  have set : ((getWay d key).write (secIdx a) v poison d.now).sv.getLsbD (secIdx a) = true :=
    setBit_getLsbD_self _ (secIdx_lt a)
  have mark : ((getWay d key).write (secIdx a) v poison d.now).poison.getLsbD (secIdx a) = poison := by
    cases poison with
    | true => exact setBit_getLsbD_self _ (secIdx_lt a)
    | false => exact clrBit_getLsbD_self _ (secIdx_lt a)
  simp only [heldValue, findWay_setWay valid tag, found, getWay_setWay, set, if_true, Way_sector_write, mark]

/-! The write ceiling. -/

/-- The withholding alone is brought up to date, so the reservations stand as they did. -/
theorem updWithhold_withheld (c : Ctl) (d : Dp) :
    (updWithhold c d).hif.withheld =
      if byRoom c d || byMerge d then true else if roomForOne c d then false else d.hif.withheld := rfl

/-- A credit that is advertised (R251): as an RwD credit only where one more fits. -/
theorem giveCredit_result (c : Ctl) (d : Dp) :
    (∃ b o, roomForOne c d = true ∧ wOf d < 256 ∧
      giveCredit c d = emit o { d with hif := { d.hif with withheld := b, hw := d.hif.hw + 1 } }) ∨
    (∃ b o, giveCredit c d = emit o { d with hif := { d.hif with withheld := b, hr := d.hif.hr + 1 } }) := by
  obtain ⟨b, e⟩ := updWithhold_frame c d
  have room : roomForOne c (updWithhold c d) = roomForOne c d := by rw [e]; rfl
  have out : (updWithhold c d).hif.hw + outWrites (updWithhold c d) = wOf d := by rw [e]; rfl
  unfold giveCredit
  dsimp only
  rw [room, out]
  split
  next few =>
    split
    next fits => exact .inl ⟨b, _, fits, few.1, by rw [e]⟩
    next => exact .inr ⟨true, _, by rw [e]⟩
  next => exact .inr ⟨b, _, by rw [e]⟩

/-- Settles O22. -/
theorem writesAreHeldToTheCeiling : Obligations.WritesAreHeldToTheCeiling := by
  unfold Obligations.WritesAreHeldToTheCeiling
  refine ⟨fun c d d' upd => ?_, fun c d d' gave few => ?_⟩
  · subst upd
    refine ⟨fun above => ?_, fun fits free => ?_, rfl⟩
    · have held : (byRoom c d || byMerge d) = true := by
        rw [Bool.or_eq_true]
        exact above.imp (fun h => decide_eq_true h) (fun h => decide_eq_true h)
      rw [updWithhold_withheld, if_pos held]
    · have notHeld : ¬ (byRoom c d || byMerge d) = true := by
        simp only [byRoom, byMerge, Bool.or_eq_true, decide_eq_true_eq]
        omega
      have room : roomForOne c d = true := decide_eq_true ⟨fits, free⟩
      rw [updWithhold_withheld, if_neg notHeld, if_pos room]
  · subst gave
    have reserved : ∀ (o : Out) (hif : Hif), wOf (emit o { d with hif := hif }) = hif.hw + outWrites d := fun _ _ => rfl
    rcases giveCredit_result c d with ⟨b, o, room, less, e⟩ | ⟨b, o, e⟩
    · have fits := of_decide_eq_true room
      have here : wOf d = d.hif.hw + outWrites d := rfl
      rw [e, reserved]
      refine ⟨rfl, ?_, ?_, fun _ => ⟨?_, ?_⟩⟩
      · show d.hif.hw + 1 + outWrites d ≤ 256
        omega
      · show d.hif.hr + (d.hif.hw + 1) = _
        omega
      · show 64 * dSectors d + 64 * (d.hif.hw + 1 + outWrites d) ≤ _
        omega
      · show d.hif.hw + 1 + outWrites d ≤ _
        omega
    · rw [e, reserved]
      refine ⟨rfl, few, ?_, fun more => absurd more (lt_irrefl d.hif.hw)⟩
      show d.hif.hr + 1 + d.hif.hw = _
      omega

/-! A read of a held sector. -/

/-- What an answer leaves of what is held, and of the outputs before it. -/
def HeldStays (d e : Dp) : Prop := (e.lc.ways = d.lc.ways ∧ e.mrg = d.mrg ∧ e.map = d.map) ∧ d.out <+: e.out

theorem heldStays_trans {d e f : Dp} (h : HeldStays d e) (h' : HeldStays e f) : HeldStays d f := by
  obtain ⟨⟨ways, mrg, map⟩, out⟩ := h
  obtain ⟨⟨ways', mrg', map'⟩, out'⟩ := h'
  exact ⟨⟨ways'.trans ways, mrg'.trans mrg, map'.trans map⟩, out.trans out'⟩

/-- What work beside the answers leaves, part by part. -/
theorem beside_parts {d e : Dp} (h : Beside d e) :
    e.acc = d.acc ∧ e.lc.ways = d.lc.ways ∧ e.mrg = d.mrg ∧ e.map = d.map ∧ e.sec = d.sec ∧ e.hif.rate = d.hif.rate ∧
      e.hif.ideFailed = d.hif.ideFailed ∧ e.hif.drs = d.hif.drs := by
  obtain ⟨acc, ways, mrg, map, sec, rate, failed, drs, -⟩ :
    _ ∧ _ ∧ _ ∧ _ ∧ _ ∧ _ ∧ _ ∧ _ ∧ _ := by simpa only [heldCore, Prod.mk.injEq] using h.1
  exact ⟨acc, ways, mrg, map, sec, rate, failed, drs⟩

theorem heldStays_of_beside {d e : Dp} (h : Beside d e) : HeldStays d e := by
  obtain ⟨-, ways, mrg, map, -⟩ := beside_parts h
  exact ⟨⟨ways, mrg, map⟩, h.2⟩

/-- The same from a state that differs outside what is held. -/
theorem heldStays_of_changed {d e f : Dp} (b : Beside e f) (same : e.lc.ways = d.lc.ways ∧ e.mrg = d.mrg ∧ e.map = d.map)
    (out : e.out = d.out) : HeldStays d f :=
  heldStays_trans ⟨same, out ▸ List.prefix_refl _⟩ (heldStays_of_beside b)

/-- An answer with its credit, on a link that is up, is sent; what is held stays (R70, R252). -/
theorem sendAnswer_sent {c : Ctl} {p : Pend} {r : Resp} {d : Dp} (live : p.void = false) (up : linkUp d = true) :
    Out.resp p.tag r ∈ (sendAnswer c p r d).out ∧ HeldStays d (sendAnswer c p r d) := by
  unfold sendAnswer
  extract_lets d1 d2 d3 d4
  have h1 : d1 = useS2m p.tag r d := if_neg (by rw [live]; decide)
  have up1 : (linkUp d1 && !p.void) = true := by
    rw [h1, live, Bool.not_false, Bool.and_true]
    exact up
  have h2 : d2 = emit (.resp p.tag r) (if r.isData then pmuBytes 1 64 d1 else d1) := if_pos up1
  have stays2 : HeldStays d d2 := by
    have used : HeldStays d d1 := by rw [h1]; exact ⟨⟨rfl, rfl, rfl⟩, List.prefix_refl _⟩
    rw [h2]
    exact heldStays_trans used
      (heldStays_of_beside (beside_trans (beside_ite _ (beside_pmuBytes 1 64 d1)) (beside_emit _ _)))
  have h4 : HeldStays d3 d4 := by
    unfold d4
    split
    · split <;> exact ⟨⟨rfl, rfl, rfl⟩, List.prefix_refl _⟩
    · exact ⟨⟨rfl, rfl, rfl⟩, List.prefix_refl _⟩
  have after : HeldStays d2 (freeEntry c d4) :=
    heldStays_trans (heldStays_of_beside (beside_recordAnswer c p r d2))
      (heldStays_trans h4 (heldStays_of_beside (beside_freeEntry c d4)))
  have sent : Out.resp p.tag r ∈ d2.out := by
    rw [h2]
    exact List.mem_append_right _ (List.mem_singleton_self _)
  exact ⟨after.2.subset sent, heldStays_trans stays2 after⟩

/-- The acknowledgement of a flush leaves what is held, and the pending requests. -/
theorem gpfSettle_stays (d : Dp) : HeldStays d (gpfSettle d) ∧ (gpfSettle d).acc = d.acc := by
  unfold gpfSettle
  split
  · exact ⟨⟨⟨rfl, rfl, rfl⟩, List.prefix_refl _⟩, rfl⟩
  · split
    · exact ⟨⟨⟨rfl, rfl, rfl⟩, List.prefix_refl _⟩, rfl⟩
    · exact ⟨⟨⟨rfl, rfl, rfl⟩, List.prefix_append _ _⟩, rfl⟩

/-- The answer of the only request pending leaves at once, where it has its credit (R252, R254). -/
theorem answer_only {c : Ctl} {p : Pend} {r : Resp} {d : Dp} (only : d.acc.pend = [p]) (live : p.void = false)
    (up : linkUp d = true) (secure : d.hif.ideFailed = false) (credit : hasS2m r d = true) :
    Out.resp p.tag r ∈ (answer c p.tag r d).out ∧ (answer c p.tag r d).acc.pend = [] ∧
      HeldStays d (answer c p.tag r d) := by
  have formed : mapIf (fun q => q.tag = p.tag) (fun q => { q with ans := some r }) d.acc.pend = [{ p with ans := some r }] := by
    rw [only]
    simp [mapIf]
  have ready : ∀ acc, s2mReady { p with ans := some r } r { d with acc := acc } = true := fun acc => by
    have credit' : hasS2m r { d with acc := acc } = true := credit
    simp only [s2mReady, credit', secure, Bool.not_false, Bool.and_true, Bool.or_true]
  have gone : flushGo c [{ p with ans := some r }] [] { d with acc := { d.acc with pend := [{ p with ans := some r }] } } =
      (let e := sendAnswer c { p with ans := some r } r { d with acc := { d.acc with pend := [] } }
       { e with acc := { e.acc with pend := [] } }) := by
    rw [flushGo]
    dsimp only
    rw [List.any_nil, if_neg Bool.false_ne_true, if_pos (ready _)]
    rfl
  unfold answer flushAnswers
  rw [formed, gone]
  obtain ⟨sent, stays⟩ := sendAnswer_sent (c := c) (p := { p with ans := some r }) (r := r)
    (d := { d with acc := { d.acc with pend := [] } }) live up
  dsimp only at sent stays ⊢
  generalize sendAnswer c _ r _ = e at sent stays ⊢
  obtain ⟨settled, acc⟩ := gpfSettle_stays { e with acc := { e.acc with pend := [] } }
  refine ⟨settled.2.subset sent, by rw [acc], heldStays_trans stays (heldStays_trans ?_ settled)⟩
  exact ⟨⟨rfl, rfl, rfl⟩, List.prefix_refl _⟩

/-- Tagging a request touches the monitor alone. -/
theorem tagAccept_frame (c : Ctl) (write : Bool) (d : Dp) : ∃ pmu, (tagAccept c write d).2 = { d with pmu := pmu } := by
  unfold tagAccept
  generalize (if write = true then 29 else 30) = bit
  split
  · exact ⟨_, rfl⟩
  · split
    · exact ⟨_, rfl⟩
    · dsimp only
      split <;> exact ⟨_, rfl⟩

/-- A request that is accepted is the last pending one, under the next tag. -/
theorem acceptReq_frame (c : Ctl) (line : SecAddr) (write part reject : Bool) (d : Dp) :
    ∃ pmu p, p.tag = d.acc.nextTag ∧ p.line = line ∧ p.ans = none ∧ p.void = false ∧ p.whole = none ∧
      acceptReq c line write part reject d = { d with
        pmu := pmu, acc := { d.acc with nextTag := d.acc.nextTag + 1, pend := d.acc.pend ++ [p] } } := by
  obtain ⟨pmu, e⟩ := tagAccept_frame c write d
  unfold acceptReq
  dsimp only
  rw [e]
  exact ⟨pmu, _, rfl, rfl, rfl, rfl, rfl, rfl⟩

/-- The read record of the request accepted last goes behind the others. -/
theorem addRead_last {line : SecAddr} {kind : RdKind} {d : Dp} {p : Pend} (last : lastPend d = some p) :
    addRead line kind d = { d with acc := { d.acc with
      reads := d.acc.reads ++ [readRecord d p.tag line kind p.tagged p.arrived p.serve] } } := by
  rw [addRead, last]

/-- A word that reads right leaves the line cache and the merge buffer as they are. -/
theorem holdEcc_ok (c : Ctl) (a : SecAddr) (d : Dp) : holdEcc c a .ok d = d := by
  unfold holdEcc
  dsimp only
  split
  · split
    · rfl
    · split <;> rfl
  · split <;> rfl

/-- An entry that reads right leaves the mapping cache as it is. -/
theorem mapEccAt_ok (c : Ctl) (p : Nat) (d : Dp) : mapEccAt c p .ok d = d := by
  unfold mapEccAt
  split <;> rfl

/-- The mapping lookup beside a probe (R56) is beside the answers, but for the read it adds. -/
theorem besideHit_frame {c : Ctl} {d : Dp} (a : SecAddr) (new : ∀ r ∈ d.acc.reads, r.tag ≠ d.acc.nextTag) :
    ∃ n t rs, Beside { d with free := n, acc := { d.acc with nextTag := t, reads := rs } } (besideHit c a d) := by
  generalize result : besideHit c a d = f
  unfold besideHit at result
  extract_lets p hit tag at result
  split at result
  · exact ⟨d.free, d.acc.nextTag, d.acc.reads, result ▸ beside_refl d⟩
  next absent =>
    obtain ⟨here, missing⟩ : pageLost d p = false ∧ cacheLine d p = none := by
      simpa only [Bool.not_eq_true, Bool.or_eq_false_iff, Option.isSome_eq_false_iff, Option.isNone_iff_eq_none] using absent
    split at result
    · exact ⟨d.free + 1, d.acc.nextTag, d.acc.reads, result ▸ beside_refl _⟩
    · generalize he : bump _ = e at result
      have found : findRead e tag = some (lookupRecord tag a d.now) := by
        rw [← he]
        show (d.acc.reads ++ [lookupRecord tag a d.now]).find? _ = _
        rw [List.find?_append, List.find?_eq_none.2 fun r hr => by simpa using new r hr]
        simp [lookupRecord]
      have looked : lookup c tag e = sendMapRead c tag p (pickCopyB e p)
          (pmuCount c 20 0x10 1 (modRead tag (fun x => { x with phase := .map (pickCopyB e p) false }) e)) := by
        have here' : pageLost e (linePage (secLine (lookupRecord tag a d.now).line)).toNat = false := by
          rw [← he]
          exact here
        have missing' : cacheLine e (linePage (secLine (lookupRecord tag a d.now).line)).toNat = none := by
          rw [← he]
          exact missing
        unfold lookup
        rw [found]
        dsimp only
        rw [here', missing', if_neg Bool.false_ne_true]
        rfl
      refine ⟨d.free + 1, tag + 1, (modRead tag (fun x => { x with phase := .map (pickCopyB e p) false }) e).acc.reads, ?_⟩
      have start : { d with free := d.free + 1, acc := { d.acc with nextTag := tag + 1, reads :=
          (modRead tag (fun x => { x with phase := .map (pickCopyB e p) false }) e).acc.reads } } =
          modRead tag (fun x => { x with phase := .map (pickCopyB e p) false }) e := by
        rw [← he]
        rfl
      rw [start, ← result, looked]
      exact beside_trans (beside_pmuCount ..) (beside_hbmSend ..)

/-- A request on an open link with its credit, in service, is handled on its decoded sector. -/
theorem gate_serve {d : Dp} {hpa : BitVec 52} {a : SecAddr} {credits : Nat} (ready : HostReady d hpa a)
    (held : 0 < credits) : gate credits hpa d = .go (some a) := by
  obtain ⟨isOpen, active, serve, -, decoded⟩ := ready
  simp [gate, isOpen, active, serve, decoded, Nat.pos_iff_ne_zero.1 held]

/-- The value of a sector in the line cache or the merge buffer depends on these two alone. -/
theorem heldValue_congr {d e : Dp} (ways : e.lc.ways = d.lc.ways) (mrg : e.mrg = d.mrg) (a : SecAddr) :
    heldValue e a = heldValue d a := by
  have get : getWay e = getWay d := funext fun key => by rw [getWay, ways]; rfl
  have found : findWay e = findWay d := funext fun l => by rw [findWay, get]; rfl
  have holding : holdingEntry e = holdingEntry d := funext fun l => funext fun k => by rw [holdingEntry, mrg]; rfl
  unfold heldValue
  rw [get, found, holding]

/-- The probe of the only read, at a sector that is held and of a line that no held sector waits to join, answers it
(R56, R66). -/
theorem probe_held {c : Ctl} {d : Dp} {p : Pend} {r : Read} {v : Sector} {poison : Bool} (reads : d.acc.reads = [r])
    (pend : d.acc.pend = [p]) (tag : p.tag = r.tag) (host : r.kind = .host) (live : p.void = false)
    (plain : p.whole = none) (next : r.tag ≠ d.acc.nextTag) (none_ : ∀ x ∈ d.sec.heldSectors, secLine x.addr ≠ secLine r.line)
    (up : linkUp d = true) (secure : d.hif.ideFailed = false) (credit : 0 < d.hif.drs)
    (held : heldValue d r.line = some (v, poison)) :
    Out.resp r.tag (.memData r.line (if poison then 0 else v) poison) ∈ (probe c r.tag d).out ∧
      (probe c r.tag d).acc.pend = [] ∧ HeldStays d (probe c r.tag d) := by
  have found : findRead d r.tag = some r := by simp [findRead, reads]
  have notHeld : heldLine c (secLine r.line) d = d := by
    refine if_neg ?_
    have : d.sec.heldSectors.any (fun x => secLine x.addr = secLine r.line) = false := by simpa using none_
    rw [this, Bool.and_false]
    exact Bool.false_ne_true
  have first : (d.acc.reads.any fun x => x.tag < r.tag && x.line = r.line && x.kind.isPartial && x.phase ≠ .done) = false := by
    simp [reads]
  have whole : r.kind.isPartial = false := by rw [host]; rfl
  have effect : probe c r.tag d = settle c r.line [r] (v, poison) (modRead r.tag (fun x => { x with route := .cache })
      (besideHit c r.line (pmuCount c 18 0x11 1 (pmuCount c 0 0x13 1 d)))) := by
    unfold probe
    rw [found]
    dsimp only
    rw [notHeld, first, if_neg Bool.false_ne_true, held, whole]
    rfl
  have counted : Beside d (pmuCount c 18 0x11 1 (pmuCount c 0 0x13 1 d)) :=
    beside_trans (beside_pmuCount ..) (beside_pmuCount ..)
  generalize pmuCount c 18 0x11 1 (pmuCount c 0 0x13 1 d) = d1 at effect counted
  obtain ⟨acc1, ways1, mrg1, map1, -, rate1, failed1, drs1⟩ := beside_parts counted
  obtain ⟨n, t, rs, beside⟩ := besideHit_frame (c := c) (d := d1) r.line
    (by rw [acc1, reads]; exact fun x hx => by rw [List.mem_singleton.1 hx]; exact next)
  generalize besideHit c r.line d1 = d2 at effect beside
  obtain ⟨acc2, ways2, mrg2, map2, -, rate2, failed2, drs2⟩ := beside_parts beside
  have pend2 : d2.acc.pend = [p] := by rw [acc2]; exact (congrArg Acc.pend acc1).trans pend
  have stays2 : HeldStays d d2 :=
    heldStays_trans (heldStays_of_beside counted) (heldStays_of_changed beside ⟨rfl, rfl, rfl⟩ rfl)
  have writes : wholeWrites (modRead r.tag (fun x => { x with route := .cache }) d2) r.line = [] := by
    show d2.acc.pend.filterMap _ = []
    rw [pend2]
    simp [plain]
  have settled : probe c r.tag d = answer c p.tag (.memData r.line (if poison then 0 else v) poison)
      (modRead r.tag (fun x => { x with route := .cache }) d2) := by
    rw [effect, settle, writes, settleGo]
    dsimp only
    rw [host, tag]
    rfl
  have up2 : linkUp d2 = true := by
    have : d2.hif.rate = d.hif.rate := rate2.trans rate1
    unfold linkUp at up ⊢
    rw [this]
    exact up
  have credit2 : hasS2m (.memData r.line (if poison then 0 else v) poison) d2 = true := by
    have : d2.hif.drs = d.hif.drs := drs2.trans drs1
    simp only [hasS2m, Resp.isData, this, credit, decide_true, if_true]
  obtain ⟨sent, none_, stays⟩ := answer_only (c := c) (r := .memData r.line (if poison then 0 else v) poison)
    (d := modRead r.tag (fun x => { x with route := .cache }) d2) pend2 live up2
    ((failed2.trans failed1).trans secure) credit2
  rw [settled]
  exact ⟨tag ▸ sent, none_, heldStays_trans stays2 (heldStays_trans ⟨⟨rfl, rfl, rfl⟩, List.prefix_refl _⟩ stays)⟩

/-- Settles O18. -/
theorem heldSectorIsAnsweredAtOnce : Obligations.HeldSectorIsAnsweredAtOnce := by
  unfold Obligations.HeldSectorIsAnsweredAtOnce
  intro s hpa a v poison ready creditReq creditData pend reads none_ held
  obtain ⟨isOpen, active, serve, free, decoded⟩ := id ready
  obtain ⟨up, secure⟩ : linkUp s.dp = true ∧ s.dp.hif.ideFailed = false := by simpa [memOpen] using isOpen
  have begun : Beside s.dp (takeReqCredit (memTrigger s.ctl s.dp)) :=
    beside_trans (beside_memTrigger serve) (beside_of_out rfl rfl)
  have arrives : memRdArrives s.ctl hpa .ok .ok s.dp =
      doRead s.ctl hpa (some a) .ok .ok (takeReqCredit (memTrigger s.ctl s.dp)) := by
    rw [memRdArrives, gate_serve ready creditReq]
  generalize takeReqCredit (memTrigger s.ctl s.dp) = d1 at begun arrives
  obtain ⟨acc1, ways1, mrg1, map1, sec1, rate1, failed1, drs1⟩ := beside_parts begun
  have takes : refusing d1 = false := by unfold refusing at free ⊢; rw [sec1]; exact free
  obtain ⟨pmu, p, tag, line, -, live, plain, accepted⟩ := acceptReq_frame s.ctl a false false false d1
  obtain ⟨r, kind, rtag, rline, added⟩ : ∃ r : Read, r.kind = .host ∧ r.tag = d1.acc.nextTag ∧ r.line = a ∧
      addRead a .host (acceptReq s.ctl a false false false d1) = { d1 with
        pmu := pmu, acc := { d1.acc with nextTag := d1.acc.nextTag + 1, pend := [p], reads := [r] } } := by
    have pend1 : d1.acc.pend = [] := by rw [acc1]; exact pend
    have reads1 : d1.acc.reads = [] := by rw [acc1]; exact reads
    rw [accepted, addRead_last (p := p) (by rw [lastPend, pend1]; rfl)]
    dsimp only
    rw [pend1, reads1]
    exact ⟨_, rfl, tag, rfl, rfl⟩
  have counted : Beside { d1 with
      pmu := pmu, acc := { d1.acc with nextTag := d1.acc.nextTag + 1, pend := [p], reads := [r] } }
      (pmuCount s.ctl 18 0x10 1 (pmuCount s.ctl 0 0x10 1 (addRead a .host (acceptReq s.ctl a false false false d1)))) := by
    rw [added]
    exact beside_trans (beside_pmuCount ..) (beside_pmuCount ..)
  have probed : memRdArrives s.ctl hpa .ok .ok s.dp = probe s.ctl r.tag (pmuCount s.ctl 18 0x10 1
      (pmuCount s.ctl 0 0x10 1 (addRead a .host (acceptReq s.ctl a false false false d1)))) := by
    rw [arrives, doRead, takes, if_neg Bool.false_ne_true, acceptRead, holdEcc_ok, mapEccAt_ok, rtag]
  generalize pmuCount s.ctl 18 0x10 1 (pmuCount s.ctl 0 0x10 1 _) = d2 at counted probed
  obtain ⟨acc2, ways2, mrg2, map2, sec2, rate2, failed2, drs2⟩ := beside_parts counted
  have up2 : linkUp d2 = true := by
    have : d2.hif.rate = s.dp.hif.rate := rate2.trans rate1
    unfold linkUp at up ⊢
    rw [this]
    exact up
  obtain ⟨sent, gone, stays⟩ := probe_held (c := s.ctl) (d := d2) (p := p) (r := r) (v := v) (poison := poison)
    (by rw [acc2]) (by rw [acc2]) (tag.trans rtag.symm) kind live plain (by rw [acc2, rtag]; exact Nat.ne_of_lt (Nat.lt_succ_self _))
    (by rw [sec2, rline]; exact sec1 ▸ none_) up2 ((failed2.trans failed1).trans secure)
    (by rw [drs2]; exact drs1 ▸ creditData)
    (by rw [rline, heldValue_congr (ways2.trans ways1) (mrg2.trans mrg1)]; exact held)
  have final : HeldStays s.dp (probe s.ctl r.tag d2) := heldStays_trans (heldStays_of_beside begun)
    (heldStays_trans (heldStays_of_changed counted ⟨rfl, rfl, rfl⟩ rfl) stays)
  change ∃ t, execMemrd hpa .ok .ok s = .next t ∧ _
  refine ⟨_, onDp_step probed, rfl, ?_, gone, final.1⟩
  have first : r.tag = s.dp.acc.nextTag := by rw [rtag, acc1]
  rw [first, rline] at sent
  show _ ∈ (probe s.ctl r.tag d2).out
  rw [first]
  exact sent

end Sys2Proof.Laws
end
section
/-! PROOF. The upkeep of the mapping: acknowledged copy writes (R50, R203), change and checkpoint stripes (R109) and the
release of removed stripes (R51). -/

namespace Sys2Proof.Laws

open Sys2Proof.Machine

/-- What work beside the answers leaves of the mapping and its journal. -/
theorem beside_mapping {d e : Dp} (h : Beside d e) : e.map = d.map ∧ e.jrn = d.jrn := by
  obtain ⟨-, -, -, map, -, -, -, -, jrn, -⟩ : _ ∧ _ ∧ _ ∧ _ ∧ _ ∧ _ ∧ _ ∧ _ ∧ _ ∧ _ := by
    simpa only [heldCore, Prod.mk.injEq] using h.1
  exact ⟨map, jrn⟩

/-- A record put into the change-stripe buffers is their newest (R107). -/
theorem bufferedChgs_putChg (r : ChgRec) (d : Dp) : bufferedChgs (putChg r d) = bufferedChgs d ++ [r] := by
  unfold putChg
  dsimp only
  split
  · simp [bufferedChgs]
  next room =>
    have late : d.jrn.late = [] := by
      by_contra h
      exact room (.inl h)
    split
    next moves => simp [bufferedChgs, late, moves.2]
    next => simp [bufferedChgs, late]

/-- A change is recorded in the journal's buffers and their SRAM alone. -/
theorem appendChg_frame (r : ChgRec) (d : Dp) :
    ∃ jrn cod, appendChg r d = { d with jrn := jrn, cod := cod } := by
  unfold appendChg putChg
  dsimp only
  split
  · split
    · exact ⟨_, _, rfl⟩
    · split <;> exact ⟨_, _, rfl⟩
  · split
    · exact ⟨_, _, rfl⟩
    · split <;> exact ⟨_, _, rfl⟩

/-- A change recorded is the newest of the buffers. -/
theorem bufferedChgs_appendChg (r : ChgRec) (d : Dp) : bufferedChgs (appendChg r d) = bufferedChgs d ++ [r] := by
  rw [appendChg, bufferedChgs_putChg]
  split <;> rfl

/-- Where a page's line of the mapping cache is replaced, every line of the page is the new one. -/
theorem mapIf_page {p : Nat} {m : MapLine} {l : List MapLine} :
    ∀ y ∈ mapIf (fun x => x.page = p) (fun _ => m) l, y.page = p → y = m := by
  intro y hy page
  obtain ⟨x, -, e⟩ := List.mem_map.1 hy
  split at e
  · exact e.symm
  next other => exact absurd (e ▸ page) (by simpa using other)

/-- The write of copy B behind copy A makes the oldest change of the line durable in both (R50). -/
theorem ackCopy_second {d : Dp} {m : MapLine} {p no : Nat} {v : BitVec 64} {more : List (Nat × BitVec 64)}
    (line : cacheLine d p = some m) (chgs : m.chgs = (no, v) :: more) (first : m.ackA = true) :
    smGet 0 (ackCopy p true d).map.copyB p = v ∧
      bufferedChgs (ackCopy p true d) = bufferedChgs d ++ [.entry no (BitVec.ofNat 31 p) v] ∧
      ∀ y ∈ (ackCopy p true d).map.cache, y.page = p → y.chgs = more := by
  have acked : ackCopy p true d = appendChg (.entry no (BitVec.ofNat 31 p) v) { d with map := { d.map with
      copyB := smSet 0 d.map.copyB p v
      cache := mapIf (fun x => x.page = p) (fun _ => { m with
        ackA := false, ackB := false, chgs := more, entry := if more = [] then v else m.entry }) d.map.cache } } := by
    simp [ackCopy, line, chgs, first]
  rw [acked]
  generalize same : Dp.mk .. = e
  obtain ⟨jrn, cod, frame⟩ := appendChg_frame (.entry no (BitVec.ofNat 31 p) v) e
  refine ⟨?_, ?_, ?_⟩
  · rw [frame, ← same]
    exact smGet_smSet_same ..
  · rw [bufferedChgs_appendChg, ← same]
    rfl
  · rw [frame, ← same]
    exact fun y hy page => (mapIf_page y hy page) ▸ rfl

/-- The write of copy A, copy B's being out, leaves the changes of the line and the journal (R50). -/
theorem ackCopy_first {d : Dp} {m : MapLine} {p no : Nat} {v : BitVec 64} {more : List (Nat × BitVec 64)}
    (line : cacheLine d p = some m) (chgs : m.chgs = (no, v) :: more) (notB : m.ackB = false) :
    smGet 0 (ackCopy p false d).map.copyA p = v ∧ (ackCopy p false d).jrn = d.jrn ∧
      ∀ y ∈ (ackCopy p false d).map.cache, y.page = p → y.chgs = m.chgs ∧ y.ackA = true := by
  have acked : ackCopy p false d = { d with map := { d.map with
      copyA := smSet 0 d.map.copyA p v
      cache := mapIf (fun x => x.page = p) (fun _ => { m with ackA := true, ackB := false }) d.map.cache } } := by
    simp [ackCopy, line, chgs, notB]
  rw [acked]
  exact ⟨smGet_smSet_same .., rfl, fun y hy page => (mapIf_page y hy page) ▸ ⟨rfl, rfl⟩⟩

/-- An acknowledgement whose entry has issued: the copy's acknowledgement, then the next writes are posted. -/
theorem copyWritten_issued {c : Ctl} {d : Dp} {page : Page} {copyB : Bool}
    (issued : ∃ e ∈ d.hbm.queue, e.use = .mapWrite page.toNat copyB ∧ e.issued = true) :
    ∃ hbm, Beside (ackCopy page.toNat copyB { d with hbm := hbm }) (copyWritten page copyB c d) := by
  obtain ⟨e, found⟩ : ∃ e, (d.hbm.queue.find? fun e => e.use = .mapWrite page.toNat copyB && e.issued) = some e := by
    obtain ⟨e, mem, use, was⟩ := issued
    exact Option.isSome_iff_exists.1 (List.find?_isSome.2 ⟨e, mem, by simp [use, was]⟩)
  refine ⟨{ d.hbm with queue := d.hbm.queue.erase e }, ?_⟩
  unfold copyWritten
  rw [found]
  dsimp only
  generalize ackCopy page.toNat copyB _ = d1
  have posted : ∀ b, Beside d1 (postMapWrite page.toNat b d1) := fun b => beside_of_out rfl rfl
  refine beside_trans ?_ (beside_admitGo c _ _)
  split
  · exact posted true
  · exact beside_ite _ (posted false)

/-- A removed stripe whose wait is over (R51): the conditions of its release hold. -/
theorem releaseStripe_over {d : Dp} {st : Stripe} {w : Waiting} (found : (d.map.waiting.find? fun w => w.stripe = st) = some w)
    (durable : numDurable d w.chg = true) (old : 40000 ≤ elapsed w.since d.now) (deltas : ∀ x ∈ d.mrg.deltas, x.stripe ≠ st)
    (progs : ∀ p ∈ d.mrg.progs, p.set = stripeSet st → p.row ≠ stripeRow st) :
    releaseStripe st d = match w.retire with
      | some chan => markRetired st chan
          { d with map := { d.map with waiting := d.map.waiting.filter fun x => x.stripe ≠ st } }
      | none => hbmPost 2 .bitmap st.toNat
          { d with map := { d.map with waiting := d.map.waiting.filter fun x => x.stripe ≠ st } } := by
  have quiet : ¬ (numDurable d w.chg = false ∨ elapsed w.since d.now < 40000 ∨ (d.mrg.deltas.any fun x => x.stripe = st) ∨
      (d.mrg.progs.any fun p => p.set = stripeSet st && p.row = stripeRow st)) := by
    rintro (h | h | h | h)
    · rw [durable] at h
      exact absurd h (by decide)
    · omega
    · obtain ⟨x, hx, e⟩ := List.any_eq_true.1 h
      exact deltas x hx (of_decide_eq_true e)
    · obtain ⟨p, hp, e⟩ := List.any_eq_true.1 h
      obtain ⟨set, row⟩ := Bool.and_eq_true_iff.1 e
      exact progs p hp (of_decide_eq_true set) (of_decide_eq_true row)
  rw [releaseStripe, found]
  dsimp only
  exact if_neg quiet

/-- Settles O29. -/
theorem mappingChangesAreJournalled : Obligations.MappingChangesAreJournalled := by
  unfold Obligations.MappingChangesAreJournalled
  refine ⟨fun s page copyB => ⟨fun none_ => ?_, fun m no v more line chgs issued => ⟨fun isB first => ?_, fun isA notB => ?_⟩⟩,
    fun s => ⟨fun ecc d1 read room => ⟨?_, fun full open_ late => ?_⟩, fun room live next lost more => ?_,
      fun st w found durable old deltas progs => ⟨_, rfl, fun plain => ?_, fun chan retire => ?_⟩⟩⟩
  · change execCopyWriteAcknowledged page copyB s = _
    refine onDp_step (d := s.dp) ?_
    have missing : (s.dp.hbm.queue.find? fun e => e.use = .mapWrite page.toNat copyB && e.issued) = none :=
      List.find?_eq_none.2 fun e he => by simpa using none_ e he
    rw [copyWritten, missing]
  · subst isB
    obtain ⟨hbm, after⟩ := copyWritten_issued (c := s.ctl) issued
    obtain ⟨map, jrn⟩ := beside_mapping after
    obtain ⟨copy, newest, left⟩ := ackCopy_second (d := { s.dp with hbm := hbm }) line chgs first
    change ∃ t, execCopyWriteAcknowledged page true s = .next t ∧ _
    refine ⟨_, onDp_step rfl, rfl, ?_⟩
    rw [State.withDp_dp, bufferedChgs, jrn, map]
    exact ⟨copy, newest, left⟩
  · subst isA
    obtain ⟨hbm, after⟩ := copyWritten_issued (c := s.ctl) issued
    obtain ⟨map, jrn⟩ := beside_mapping after
    obtain ⟨copy, same, left⟩ := ackCopy_first (d := { s.dp with hbm := hbm }) line chgs notB
    change ∃ t, execCopyWriteAcknowledged page false s = .next t ∧ _
    refine ⟨_, onDp_step rfl, rfl, ?_⟩
    rw [State.withDp_dp, jrn, map]
    exact ⟨copy, same, left⟩
  · change execChangeStripeBufferWrite ecc s = _
    refine onDp_step ?_
    rw [← read, changeStripe, room]
    rfl
  · unfold writeChange
    dsimp only
    rw [if_neg full, if_neg full, if_neg full, if_neg full, open_, late]
    rfl
  · refine ⟨_, rfl, ?_⟩
    change execCheckpointStripe s = _
    refine onDp_step ?_
    have whole : min 496 (hostPages (cfgN s.dp) - s.dp.jrn.ckptNext) = 496 := by omega
    have none_ : (s.dp.map.lost.any fun p => s.dp.jrn.ckptNext ≤ p && p < s.dp.jrn.ckptNext + 496) = false := by
      refine List.any_eq_false.2 fun p hp => ?_
      have := lost p hp
      simp
      omega
    have notLast : ¬ hostPages (cfgN s.dp) ≤ s.dp.jrn.ckptNext + 496 := by omega
    rw [room, live]
    simp only [writeCheckpoint, whole, none_, if_neg next, if_neg notLast, Bool.and_self, if_true, Bool.false_eq_true, if_false]
  · change execStripeRelease st s = _
    refine onDp_step ?_
    rw [releaseStripe_over found durable old deltas progs, plain]
  · change execStripeRelease st s = _
    refine onDp_step ?_
    rw [releaseStripe_over found durable old deltas progs, retire]

end Sys2Proof.Laws
end
section
/-! PROOF. The timers of the media's health and of the HBM: tilling moves (R129), the horizon's tick (R132), the lap's limit
(R142), rebuild cursors (R148), the recurring-correction table (R174), the refresh slots and the activation tables (R195 to
R208). -/

namespace Sys2Proof.Laws

open Sys2Proof.Machine

/-- Work that is queued is in the queue, no further back than its priority. -/
theorem addWork_queued (prio : Nat) (k : WorkKind) (d : Dp) : ∃ w ∈ (addWork prio k d).mh.work, w.kind = k ∧ w.prio ≤ prio := by
  unfold addWork
  split
  next there =>
    obtain ⟨w, mem, kind⟩ := List.any_eq_true.1 there
    exact ⟨{ w with prio := min prio w.prio }, List.mem_map.2 ⟨w, mem, if_pos kind⟩, of_decide_eq_true kind,
      Nat.min_le_left ..⟩
  next => exact ⟨{ prio := prio, kind := k }, List.mem_append_right _ (List.mem_singleton_self _), rfl, le_rfl⟩

/-- One state comes of another by commands to the media: the channels and their queues alone differ. -/
def MediaCommands (d e : Dp) : Prop := ∃ chans mops next, e = { d with chans := chans, mops := mops, nextMop := next }

theorem mediaCommands_refl (d : Dp) : MediaCommands d d := ⟨_, _, _, rfl⟩

theorem mediaCommands_trans {d e f : Dp} (h : MediaCommands d e) (h' : MediaCommands e f) : MediaCommands d f := by
  obtain ⟨_, _, _, rfl⟩ := h
  obtain ⟨_, _, _, rfl⟩ := h'
  exact ⟨_, _, _, rfl⟩

theorem foldl_mediaCommands {α : Type} (f : Dp → α → Dp) (h : ∀ d a, MediaCommands d (f d a)) (l : List α) (d : Dp) :
    MediaCommands d (l.foldl f d) :=
  List.foldlRecOn l f (motive := MediaCommands d) (mediaCommands_refl d) fun _ hx a _ => mediaCommands_trans hx (h _ a)

theorem addMop_media (chan set row req : Nat) (kind : MopKind) (code : BitVec 6) (d : Dp) :
    MediaCommands d (addMop chan set row req kind code d) := by
  unfold addMop engineAsked
  split <;> exact ⟨_, _, _, rfl⟩

theorem everyPackage_media (kind : Nat → MopKind) (d : Dp) : MediaCommands d (everyPackage kind d) := by
  refine foldl_mediaCommands _ (fun d k => foldl_mediaCommands _ (fun d w => ?_) _ d) _ d
  split
  · exact addMop_media ..
  · exact mediaCommands_refl d

theorem everyChannel_media (f : Chan → Chan) (d : Dp) : MediaCommands d (everyChannel f d) := by
  refine foldl_mediaCommands _ (fun d k => ?_) _ d
  split
  · exact mediaCommands_refl d
  · exact ⟨_, _, _, rfl⟩

/-- Waking the media is commands to them (R352). -/
theorem wakeMedia_media (d : Dp) : MediaCommands d (wakeMedia d) := by
  unfold wakeMedia
  dsimp only
  refine mediaCommands_trans ?_ (mediaCommands_trans (everyChannel_media _ _)
    (mediaCommands_trans (everyPackage_media _ _) (everyPackage_media _ _)))
  exact ⟨_, _, _, rfl⟩

/-- The start of a wake leaves the media's health (R354). -/
theorem beginWake_mh (c : Ctl) (cause : BitVec 8) (d : Dp) : (beginWake c cause d).mh = d.mh := by
  unfold beginWake
  split
  · rfl
  · obtain ⟨chans, mops, next, e⟩ := wakeMedia_media (moveVcore (vset c) 0 { d with
      sup := { d.sup with waking := true, exitCause := cause }
      hif := { d.hif with sub := 0, clkReq := true } })
    rw [e]
    rfl

/-- Queued work leaves the horizon. -/
theorem addWork_now (prio : Nat) (k : WorkKind) (d : Dp) : (addWork prio k d).mh.now = d.mh.now := by
  unfold addWork
  split <;> rfl

/-- The refreshes that are queued, and their reports, leave the horizon (R135). -/
theorem queueRefresh_now (c : Ctl) (d : Dp) : (queueRefresh c d).mh.now = d.mh.now := by
  unfold queueRefresh
  extract_lets due late d1 isLate mh d2
  have queued : d1.mh.now = d.mh.now := by
    refine foldl_keeps (fun d : Dp => d.mh.now) _ (fun d e => ?_) due d
    split
    · rfl
    · exact addWork_now ..
  have said : ∀ d e, (raise 0x5B 0x31 0 0 0x06 noAccess d).mh.now = d.mh.now := fun d (_ : Nat × BitVec 64) => by
    obtain ⟨flt, h⟩ := raise_frame 0x5B 0x31 0 0 0x06 noAccess d
    rw [h]
  exact (foldl_keeps (fun d : Dp => d.mh.now) _ said _ d2).trans queued

/-- Outside OFF a tick adds one to the horizon (R132). -/
theorem tickHorizon_now {c : Ctl} {d : Dp} (on : d.sup.mode ≠ .off) : (tickHorizon c d).mh.now = d.mh.now + 1 := by
  unfold tickHorizon
  dsimp only
  rw [if_neg on, queueRefresh_now]
  rfl

/-- The tick with the exit it may trigger. -/
theorem horizonTicks_now {c : Ctl} {d : Dp} (on : d.sup.mode ≠ .off) : (horizonTicks c d).mh.now = d.mh.now + 1 := by
  unfold horizonTicks
  dsimp only
  split
  next dormant =>
    have asleep : (tickHorizon c d).sup.mode = .dormant := of_decide_eq_true (Bool.and_eq_true_iff.1 dormant).1
    have woken : (dormantExit c .horizonRefresh (tickHorizon c d)).mh = (tickHorizon c d).mh := by
      rw [dormantExit, if_pos asleep]
      split
      · rfl
      · exact beginWake_mh ..
    rw [woken, tickHorizon_now on]
  next => exact tickHorizon_now on

/-- A refresh slot of a stack in use, at its turn, is not passed over (R195, R200). -/
theorem refreshSlot_due {pc : Nat} {d : Dp} (own : pc < 32) (up : d.hbm.state = 1 ∨ d.hbm.state = 3)
    (turn : slotTurn d pc = true) : ¬ (32 ≤ pc ∨ (d.hbm.state ≠ 1 ∧ d.hbm.state ≠ 3) ∨ slotTurn d pc = false) := by
  rintro (h | ⟨h, h'⟩ | h)
  · omega
  · exact up.elim h h'
  · rw [turn] at h
    exact absurd h (by decide)

/-- Settles O31. -/
theorem healthAndHbmTimersAct : Obligations.HealthAndHbmTimersAct := by
  unfold Obligations.HealthAndHbmTimersAct
  refine ⟨fun s => ⟨fun page on serve spare_ idle valid rate hot => ?_, fun on => ?_, fun live unsaid => ?_, rfl, ?_⟩,
    fun s => ⟨fun pc delay n d1 own up turn hn h1 => ⟨fun other => ?_, fun fourth none_ => ?_, fun x fourth some_ => ?_⟩,
      rfl, fun pc r => ?_, fun pc own up => ?_⟩⟩
  · have free : ¬ (rb s.ctl 0xE0200 31 = false ∨ s.dp.sup.mode ≠ .serve ∨ spare s.dp = 0 ∨ s.dp.mh.rebActive ∨
        entryValid (curEntry s.dp page.toNat) = false ∨
        rg s.ctl 0xE0200 24 7 * 1000 ≤ (s.dp.mh.moveAt.filter fun t => elapsed t s.dp.now < 1000000000).length ∨
        (pageHot s.ctl s.dp page.toNat = false ∧ pageCold s.ctl s.dp page.toNat = false)) := by
      simp only [on, serve, idle, valid]
      rcases hot with h | h <;> simp [h] <;> omega
    change ∃ t, execTillingMove page s = .next t ∧ _
    refine ⟨_, onDp_step (if_neg free), rfl, addWork_queued ..⟩
  · exact ⟨_, rfl, rfl, horizonTicks_now on⟩
  · change execHarrowOverLimit s = _
    refine onDp_step (if_neg ?_)
    rw [live, unsaid]
    simp
  · exact ⟨_, rfl, rfl, fun e => by simp [rctAges]⟩
  · change execRefreshSlot pc delay s = _
    refine onDp_step ((if_neg (refreshSlot_due own up turn)).trans ?_)
    dsimp only
    rw [← hn, ← h1, if_pos other]
  · change execRefreshSlot pc delay s = _
    refine onDp_step ((if_neg (refreshSlot_due own up turn)).trans ?_)
    dsimp only
    rw [← hn, ← h1, if_neg (not_not_intro fourth), none_]
  · change execRefreshSlot pc delay s = _
    refine onDp_step ((if_neg (refreshSlot_due own up turn)).trans ?_)
    dsimp only
    rw [← hn, ← h1, if_neg (not_not_intro fourth), some_, h1]
  · refine ⟨{ s.dp with hbm := { s.dp.hbm with
        paced := s.dp.hbm.paced.filter fun x => !(x.pc = pc && x.req = r)
        bgAct := s.dp.hbm.bgAct.filter fun a => !(a.pc = pc && decide ((a.bank, a.row) ∈
          (s.dp.hbm.paced.filter fun x => x.pc = pc && x.req = r).map fun x => (x.bank, x.row))) } }, rfl, rfl, fun x => ?_, fun a => ?_⟩
    · rw [List.mem_filter, Bool.not_eq_true', Bool.and_eq_false_iff, decide_eq_false_iff_not, decide_eq_false_iff_not,
        not_and_or]
    · rw [List.mem_filter, Bool.not_eq_true', Bool.and_eq_false_iff, decide_eq_false_iff_not, decide_eq_false_iff_not,
        List.mem_map]
      refine and_congr_right fun _ => ⟨?_, ?_⟩
      · rintro out ⟨x, mem, xpc, req, apc, bank, row⟩
        refine out.elim (fun h => h apc) fun h => h ⟨x, List.mem_filter.2 ⟨mem, by simp [xpc, req]⟩, by rw [bank, row]⟩
      · intro none_
        by_cases apc : a.pc = pc
        · refine .inr fun ⟨x, mem, e⟩ => none_ ⟨x, ?_⟩
          obtain ⟨mem, own⟩ := List.mem_filter.1 mem
          obtain ⟨xpc, req⟩ := Bool.and_eq_true_iff.1 own
          obtain ⟨bank, row⟩ := Prod.mk.inj e
          exact ⟨mem, of_decide_eq_true xpc, of_decide_eq_true req, apc, bank.symm, row.symm⟩
        · exact .inl apc
  · change execHbmCaParity pc s = _
    exact onDp_step (if_neg fun h => h.elim (fun h => absurd own (by omega)) up)

end Sys2Proof.Laws
end
section
/-! SUPPORT. Records: what a step that only counts, sends messages, writes logs and stores pages leaves as it is. -/

namespace Sys2Proof.Laws

open Sys2Proof.Machine

/-- A state without its records: the counts, the messages, the logs, the queues, the fault collector and the store, with the
programmes that the store's pages need on the media. -/
def withoutRecords (d : Dp) : Dp :=
  { Dp.reset with
    now := d.now, free := d.free, glb := d.glb, sup := d.sup, fab := d.fab, thm := d.thm, ceil := d.ceil, acc := d.acc
    lc := d.lc, jrn := d.jrn, map := d.map, mh := d.mh, hbm := d.hbm, mops := d.mops, nextMop := d.nextMop, sec := d.sec
    latches := d.latches, hif := { d.hif with vecPend := 0, heldWrites := [] } }

/-- One state comes of another by records alone. -/
def Recorded (d e : Dp) : Prop := withoutRecords e = withoutRecords d

theorem recorded_refl (d : Dp) : Recorded d d := rfl

theorem recorded_trans {d e f : Dp} (h : Recorded d e) (h' : Recorded e f) : Recorded d f := Eq.trans h' h

theorem recorded_ite (p : Prop) [Decidable p] {d e : Dp} (h : Recorded d e) : Recorded d (if p then e else d) := by
  split
  · exact h
  · rfl

theorem foldl_recorded {α : Type} (f : Dp → α → Dp) (h : ∀ d a, Recorded d (f d a)) (l : List α) (d : Dp) :
    Recorded d (l.foldl f d) := foldl_keeps withoutRecords f (fun d a => h d a) l d

/-! What records leave. -/

theorem recorded_sup {d e : Dp} (h : Recorded d e) : e.sup = d.sup :=
  show (withoutRecords e).sup = (withoutRecords d).sup from congrArg Dp.sup h
theorem recorded_glb {d e : Dp} (h : Recorded d e) : e.glb = d.glb :=
  show (withoutRecords e).glb = (withoutRecords d).glb from congrArg Dp.glb h
theorem recorded_sec {d e : Dp} (h : Recorded d e) : e.sec = d.sec :=
  show (withoutRecords e).sec = (withoutRecords d).sec from congrArg Dp.sec h
theorem recorded_memActive {d e : Dp} (h : Recorded d e) : e.hif.memActive = d.hif.memActive :=
  show (withoutRecords e).hif.memActive = (withoutRecords d).hif.memActive from congrArg (fun d : Dp => d.hif.memActive) h

/-! The records. -/

theorem recorded_msix (v : Nat) (d : Dp) : Recorded d (msix v d) := by
  unfold msix
  split
  · rfl
  · split <;> rfl

theorem recorded_hostWrite (a : BitVec 64) (ws : List (BitVec 64)) (d : Dp) : Recorded d (hostWrite a ws d) := by
  unfold hostWrite
  split <;> rfl

theorem recorded_pmuAdd (c : Ctl) (u n k : Nat) (d : Dp) : Recorded d (pmuAdd c u n k d) := by
  unfold pmuAdd
  dsimp only
  split
  · rfl
  · split
    · exact recorded_msix 71 _
    · rfl

theorem recorded_pmuTicks (c : Ctl) (u code k : Nat) (d : Dp) : Recorded d (pmuTicks c u code k d) := by
  unfold pmuTicks
  extract_lets d1
  have others : Recorded d d1 := by
    refine recorded_ite _ ?_
    obtain ⟨pmu, e⟩ := pmuOthers_frame c u code k d
    rw [e]
    rfl
  refine recorded_trans others ?_
  split
  · rfl
  · refine foldl_recorded _ (fun d n => ?_) _ _
    split
    · split
      · rfl
      · exact recorded_pmuAdd c u n k d
    · rfl

theorem recorded_pmuCount (c : Ctl) (u code k : Nat) (d : Dp) : Recorded d (pmuCount c u code k d) := by
  unfold pmuCount
  split
  · rfl
  · exact recorded_pmuTicks c u code k d

theorem recorded_raise (src kind addr aux master access : Nat) (d : Dp) :
    Recorded d (raise src kind addr aux master access d) := by
  obtain ⟨flt, e⟩ := raise_frame src kind addr aux master access d
  rw [e]
  rfl

theorem recorded_setLog (sev : Nat) (l : EvLog) (d : Dp) : Recorded d (setLog sev l d) := by
  unfold setLog
  split <;> rfl

theorem recorded_writeEvent (c : Ctl) (sev : Nat) (r : EvRec) (d : Dp) : Recorded d (writeEvent c sev r d) := by
  unfold writeEvent
  dsimp only
  generalize logInto _ _ = l
  have logged : Recorded d (setLog sev l { d with logs := { d.logs with
      nextHandle := d.logs.nextHandle + 1, written := d.logs.written + 1 } }) := by
    refine recorded_trans ?_ (recorded_setLog sev l _)
    rfl
  exact recorded_trans logged (recorded_trans (recorded_pmuCount ..) (recorded_ite _ (recorded_msix ..)))

theorem recorded_eventRecord (c : Ctl) (sev text value : Nat) (d : Dp) : Recorded d (eventRecord c sev text value d) :=
  recorded_writeEvent ..

theorem recorded_mailboxDone (r : Ret) (p : List (BitVec 64)) (d : Dp) : Recorded d (mailboxDone r p d) := by
  unfold mailboxDone
  dsimp only
  split
  · exact recorded_msix 64 _
  · rfl

theorem recorded_mailboxReply (r : Ret) (p : List (BitVec 8)) (d : Dp) : Recorded d (mailboxReply r p d) :=
  recorded_mailboxDone r (wordsOf ((p.length + 7) / 8) p) d

theorem recorded_postEntry (c : Ctl) (k st : Nat) (op tag : BitVec 16) (quiet : Bool) (rs : List (BitVec 64)) (d : Dp) :
    Recorded d (postEntry c k st op tag quiet rs d) := by
  unfold postEntry
  dsimp only
  generalize written : hostWrite _ _ d = d1
  have h1 : Recorded d d1 := written ▸ recorded_hostWrite ..
  generalize moved : modQ k _ d1 = d2
  have h2 : Recorded d1 d2 := by rw [← moved]; rfl
  have h3 : Recorded d2 (if st = 0 then d2 else pmuCount c 23 0x12 1 d2) := by
    split
    · rfl
    · exact recorded_pmuCount ..
  generalize (if st = 0 then d2 else pmuCount c 23 0x12 1 d2) = d3 at h3 ⊢
  refine recorded_trans h1 (recorded_trans h2 (recorded_trans h3 ?_))
  cases quiet with
  | true => rfl
  | false => exact recorded_msix k d3

theorem recorded_completeAs (c : Ctl) (st : Status) (ret : Ret) (rs data : List (BitVec 64)) (d : Dp) :
    Recorded d (completeAs c st ret rs data d) := by
  unfold completeAs
  split
  · rfl
  · split
    · refine recorded_trans ?_ (recorded_postEntry ..)
      rfl
    · split
      · exact recorded_mailboxDone ..
      · exact recorded_mailboxDone ..

theorem recorded_complete (c : Ctl) (st : Status) (rs : List (BitVec 64)) (d : Dp) : Recorded d (complete c st rs d) :=
  recorded_completeAs ..

theorem recorded_pageWritten (c : Ctl) (w : PageWrite) (ok : Bool) (d : Dp) : Recorded d (pageWritten c w ok d) := by
  unfold pageWritten
  split
  · exact recorded_complete ..
  · exact recorded_ite _ (recorded_mailboxReply ..)

theorem recorded_addProg (kind : ProgKind) (loc : Nat × Nat × Nat) (image : Image) (d : Dp) :
    Recorded d (addProg kind loc image d) := by
  unfold addProg engineAsked
  split <;> rfl

theorem recorded_storeStep (step page : Nat) (data : BitVec 2048) (d : Dp) : Recorded d (storeStep step page data d) := by
  unfold storeStep
  extract_lets w m t s imgs put
  have puts : ∀ j i d, Recorded d (put j i d) := fun j i d => by
    unfold put
    split
    · exact recorded_addProg ..
    · rfl
  split
  · split
    · exact puts ..
    · refine recorded_trans (puts ..) (foldl_recorded _ (fun d j => ?_) _ _)
      split
      · rfl
      · exact puts ..
  · exact puts ..
  · exact puts ..

theorem recorded_runWrites (c : Ctl) (n : Nat) (d : Dp) : Recorded d (runWrites c n d) := by
  induction n generalizing d with
  | zero => rfl
  | succ n ih =>
    unfold runWrites
    split
    · rfl
    · split
      · refine recorded_trans ?_ (recorded_trans (recorded_pageWritten c _ true _) (ih _))
        rfl
      · dsimp only
        split
        · refine recorded_trans ?_ (ih _)
          rfl
        · split
          · rfl
          · split
            · refine recorded_trans ?_ (ih _)
              rfl
            · refine recorded_trans ?_ (recorded_trans (recorded_storeStep _ _ _ _) (ih _))
              rfl

theorem recorded_writePages (c : Ctl) (pages : List (Nat × BitVec 2048)) (who : Nat) (rs : List (BitVec 64)) (d : Dp) :
    Recorded d (writePages c pages who rs d) := by
  refine recorded_trans ?_ (recorded_runWrites c _ _)
  rfl

theorem recorded_writeSample (c : Ctl) (cause drainCause faulty who : Nat) (d : Dp) :
    Recorded d (writeSample c cause drainCause faulty who d) := by
  unfold writeSample
  dsimp only
  have taken : Recorded d (takeSample cause drainCause faulty d).2 := rfl
  exact recorded_trans taken (recorded_trans (recorded_pmuCount ..) (recorded_writePages ..))

end Sys2Proof.Laws
end
section
/-! PROOF. The end of RISE (R10, R24, R241, R350, R351). -/

namespace Sys2Proof.Laws

open Sys2Proof.Machine

/-- The entry of a mode leaves all but the mode, its cause and the host's messages. -/
theorem setMode_recorded (m : Mode) (cause : BitVec 8) (d : Dp) :
    Recorded { d with sup := { d.sup with mode := m, cause := cause } } (setMode m cause d) :=
  recorded_ite _ (recorded_msix 72 _)

/-- The steps, Memory_Active and the supervisor after the entry of a mode. -/
theorem setMode_parts (m : Mode) (cause : BitVec 8) (d : Dp) : (setMode m cause d).glb = d.glb ∧
    (setMode m cause d).hif.memActive = d.hif.memActive ∧
    (setMode m cause d).sup = { d.sup with mode := m, cause := cause } := by
  have entered := setMode_recorded m cause d
  have glb := recorded_glb entered
  have active := recorded_memActive entered
  have sup := recorded_sup entered
  exact ⟨glb, active, sup⟩

/-- The credits advertised at the end of RISE leave the steps, the supervisor and Memory_Active. -/
theorem advertise_frame (c : Ctl) (d : Dp) :
    (advertise c d).glb = d.glb ∧ (advertise c d).sup = d.sup ∧ (advertise c d).hif.memActive = d.hif.memActive := by
  unfold advertise
  split
  · exact ⟨rfl, rfl, rfl⟩
  · exact ⟨rfl, rfl, rfl⟩

/-- Whether RISE ends: its last step stands, and nothing holds it. -/
theorem riseCompletes_goes {c : Ctl} {d : Dp}
    (goes : (!riseAt 9 d || !d.sup.perstN || d.sec.extest || decide (d.fab.setPoint < 700)) = false) :
    (riseCompletes c d).1 = { advanceFw d c with cfgLocked := true } ∧ (riseCompletes c d).2.glb.riseStep = 10 ∧
      (riseCompletes c d).2.hif.memActive = memLink d ∧ (riseCompletes c d).2.sup.attempts = 0 ∧
      ((riseCompletes c d).2.sup.mode = .serve ∨ (riseCompletes c d).2.sup.mode = .fallow) := by
  generalize result : riseCompletes c d = r
  unfold riseCompletes at result
  rw [goes, if_neg Bool.false_ne_true] at result
  extract_lets locked c1 dr supv faults host journal secure d1 d2 d3 fallow store device dn d4 d5 thermal d6 at result
  have h2 : Recorded d1 d2 := by
    unfold d2
    split
    · exact recorded_eventRecord ..
    · rfl
  have h3 : Recorded d2 d3 := recorded_ite _ (recorded_writeSample ..)
  have hn : Recorded d1 dn := recorded_trans h2 (recorded_trans h3 rfl)
  have h4 : d4.glb = d1.glb ∧ d4.hif.memActive = d1.hif.memActive ∧ d4.sup.attempts = d1.sup.attempts ∧
      (d4.sup.mode = .serve ∨ d4.sup.mode = .fallow) := by
    have entered : ∀ m cause e, Recorded d1 e → (setMode m cause e).glb = d1.glb ∧
        (setMode m cause e).hif.memActive = d1.hif.memActive ∧ (setMode m cause e).sup.attempts = d1.sup.attempts ∧
        (setMode m cause e).sup.mode = m := fun m cause e h => by
      obtain ⟨glb, active, sup⟩ := setMode_parts m cause e
      refine ⟨glb.trans (recorded_glb h), active.trans (recorded_memActive h), ?_, by rw [sup]⟩
      have same := recorded_sup h
      rw [sup, ← same]
    unfold d4
    split
    · obtain ⟨glb, active, attempts, mode⟩ := entered .fallow 0x0C _ (recorded_trans hn (recorded_eventRecord c 2 2 0 dn))
      exact ⟨glb, active, attempts, .inr mode⟩
    · obtain ⟨glb, active, attempts, mode⟩ := entered .serve 0x01 dn hn
      exact ⟨glb, active, attempts, .inl mode⟩
  have h6 : d6.glb = d4.glb ∧ d6.hif = d4.hif ∧ d6.sup = d4.sup := ⟨rfl, rfl, rfl⟩
  have last : r.2.glb = d6.glb ∧ r.2.sup = d6.sup ∧ r.2.hif.memActive = d6.hif.memActive := by
    rw [← result]
    split
    · exact advertise_frame c1 d6
    · exact ⟨rfl, rfl, rfl⟩
  clear_value d6
  obtain ⟨glb, active, attempts, mode⟩ := h4
  obtain ⟨glb6, hif6, sup6⟩ := h6
  obtain ⟨glbR, supR, activeR⟩ := last
  refine ⟨by rw [← result], ?_, ?_, ?_, ?_⟩
  · rw [glbR, glb6, glb]
    rfl
  · rw [activeR, hif6, active]
    rfl
  · rw [supR, sup6, attempts]
    rfl
  · rw [supR, sup6]
    exact mode

/-- Settles O34. -/
theorem riseEndsInServiceWithTheLockSet : Obligations.RiseEndsInServiceWithTheLockSet := by
  unfold Obligations.RiseEndsInServiceWithTheLockSet
  refine fun s => ⟨fun at9 perst noExtest volts => ?_, fun holds => ?_⟩
  · have goes : (!riseAt 9 s.dp || !s.dp.sup.perstN || s.dp.sec.extest || decide (s.dp.fab.setPoint < 700)) = false := by
      rw [at9, perst, noExtest, decide_eq_false (by omega)]
      rfl
    obtain ⟨ctl, step, active, attempts, mode⟩ := riseCompletes_goes (c := s.ctl) goes
    refine ⟨_, rfl, ?_⟩
    dsimp only
    rw [ctl]
    exact ⟨rfl, advanceFw_cr s.dp s.ctl, step, active, attempts, mode⟩
  · have stays : (!riseAt 9 s.dp || !s.dp.sup.perstN || s.dp.sec.extest || decide (s.dp.fab.setPoint < 700)) = true := by
      rcases holds with h | h | h <;> simp [h]
    change execRiseComplete s = _
    have kept : riseCompletes s.ctl s.dp = (s.ctl, s.dp) := if_pos stays
    rw [execRiseComplete, onBoth, kept]

end Sys2Proof.Laws
end
section
/-! PROOF. Timed work: the throttle's evaluation (R371), messages to the fault collector (R315 to R322), and the recorder and
bandwidth windows (R332, R335, R413, R418). -/

namespace Sys2Proof.Laws

open Sys2Proof.Machine

/-- In service the part is not in DORMANT. -/
theorem not_dormant_of_serving {d : Dp} (live : serving d = true) : ¬ d.sup.mode = .dormant := fun h => by
  simp [serving, h] at live

/-- The set point that the law asks for leaves the cut. -/
theorem applyLaw_cut (c : Ctl) (v : Nat) (d : Dp) : (applyLaw c v d).thm.cut = d.thm.cut := by
  unfold applyLaw
  split <;> rfl

/-- An evaluation in service takes the next level of the cut (R371). -/
theorem throttles_cut {c : Ctl} {d : Dp} (fabric : fabricLive d = true) (live : serving d = true) :
    ∃ lows, (throttles c d).thm.cut = nextLevel d.thm.cut d.thm.hold.isSome
      (lawCut c (d.sup.mode = .fallow) (excessDie c d) (excessMedia c d)) lows := by
  have awake : ¬ ((!fabricLive d || decide (d.sup.mode = .dormant)) = true) := by
    rw [fabric, decide_eq_false (not_dormant_of_serving live)]
    decide
  unfold throttles
  rw [if_neg awake, live]
  exact ⟨_, applyLaw_cut ..⟩

/-- Settles O39. -/
theorem higherCutsActAtOnce : Obligations.HigherCutsActAtOnce := by
  unfold Obligations.HigherCutsActAtOnce
  intro s n fabric live cut
  obtain ⟨lows, level⟩ := throttles_cut (c := s.ctl) fabric live
  rw [← cut] at level
  refine ⟨fun higher => ⟨_, rfl, rfl, level.trans (if_pos higher)⟩, fun lower hold => ⟨_, rfl, rfl, level.trans ?_⟩⟩
  rw [nextLevel, if_neg (by omega), hold]
  rfl

/-- A bit of a set of words after its source is marked. -/
theorem markSource_marked (src : BitVec 8) (m : SMap Word) :
    (smGet 0 (markSource src m) (src.toNat / 32)).getLsbD (src.toNat % 32) = true := by
  rw [markSource, smMod, smGet_smSet_same]
  exact setBit_getLsbD_self _ (Nat.mod_lt _ (by decide))

/-- The stamp of an acceptance is later than that of the message accepted before it (R316). -/
theorem acceptStamp_later {d : Dp} {x : Accepted} (head : d.flt.recent.head? = some x)
    (room : x.stamp ≠ BitVec.allOnes _) : x.stamp.toNat < (acceptStamp d).toNat := by
  unfold acceptStamp
  rw [head]
  dsimp only
  split
  · have := x.stamp.isLt
    have : x.stamp.toNat ≠ 2 ^ 64 - 1 := fun h => room (BitVec.eq_of_toNat_eq (by rw [h]; rfl))
    bv_omega
  · omega

/-- Settles O41. -/
theorem messagesAreAcceptedAndStamped : Obligations.MessagesAreAcceptedAndStamped := by
  unfold Obligations.MessagesAreAcceptedAndStamped
  refine ⟨fun s src => ⟨fun m rest none_ out => ?_, fun ok other => ?_, fun m d d1 awake grant hd taken => ⟨?_, ?_⟩,
    fun n hn some_ room => ?_⟩, fun c m d r hr room => ?_⟩
  · rw [takeMsg, none_, out]
  · have stays : messageArrives src ok s.ctl s.dp = (s.ctl, s.dp) := by
      unfold messageArrives
      dsimp only
      split
      · rfl
      · exact if_pos (by simp [other])
    change execFaultMessage src ok s = _
    rw [execFaultMessage, onBoth, stays]
  · refine ⟨_, _, rfl, rfl, ?_⟩
    have goes : ¬ ((decide (s.dp.sup.mode = .dormant) || decide (inputGrant s.dp ≠ some (sourceInput src.toNat))) = true) := by
      simp [awake, grant]
    have arrives : messageArrives src true s.ctl s.dp = react (acceptMessage s.ctl m (pmuCount s.ctl 21 0x14 1 d1)).1 s.ctl
        (acceptMessage s.ctl m (pmuCount s.ctl 21 0x14 1 d1)).2 := by
      rw [messageArrives, ← hd, taken]
      exact (if_neg goes).trans rfl
    change execFaultMessage src true s = _
    rw [execFaultMessage, onBoth, arrives]
  · have goes : ¬ ((decide (s.dp.sup.mode = .dormant) || decide (inputGrant s.dp ≠ some (sourceInput src.toNat))) = true) := by
      simp [awake, grant]
    have arrives : messageArrives src false s.ctl s.dp = (s.ctl, raise 0x6D 0x2C 0 1 0xFF noAccess
        { d1 with flt := { d1.flt with netParity := true, msgLost := true } }) := by
      rw [messageArrives, ← hd, taken]
      exact (if_neg goes).trans rfl
    change execFaultMessage src false s = _
    rw [execFaultMessage, onBoth, arrives]
    rfl
  · change execMsgDropped src s = _
    refine onDp_step ?_
    have goes : ¬ ((decide (smGet 0 s.dp.flt.dropped src.toNat = 0) || decide (4 ≤ (smGet [] s.dp.flt.outq src.toNat).length)) = true) := by
      simp
      omega
    rw [sendsDropped, hn]
    exact if_neg goes
  · subst hr
    refine ⟨if_pos room, rfl, rfl, rfl, List.length_take_le .., markSource_marked .., fun x head late => ?_⟩
    exact acceptStamp_later head late

/-- What a fold over the ports leaves at a port that it loads, the ports being loaded once each. -/
theorem smGet_foldl_loaded (f : Nat → Nat) (l : List Nat) (m : SMap Nat) (p : Nat) :
    smGet 0 (l.foldl (fun m p => smSet 0 m p (f p)) m) p = if p ∈ l then f p else smGet 0 m p := by
  induction l generalizing m with
  | nil => simp
  | cons q l ih =>
    rw [List.foldl_cons, ih]
    by_cases later : p ∈ l
    · simp [later]
    · by_cases here : p = q
      · simp [here, smGet_smSet_same]
      · simp [later, here, smGet_smSet_other _ _ _ _ _ here]

/-- Settles O42. -/
theorem recorderAndBandwidthAdvance : Obligations.RecorderAndBandwidthAdvance := by
  unfold Obligations.RecorderAndBandwidthAdvance
  intro s on
  refine ⟨fun awake => ⟨_, rfl, rfl, ?_⟩, fun live period own => ?_, ⟨_, rfl, rfl, ?_⟩, fun frozen short => ⟨_, rfl, rfl, ?_⟩⟩
  · have goes : ¬ (s.dp.sup.mode = .off ∨ s.dp.sup.mode = .dormant) := not_or.2 ⟨on, awake⟩
    show (folds s.dp).rec_.seq = _ ∧ (folds s.dp).rec_.staging = _ ∧ (folds s.dp).rec_.clear = _ ∧ (folds s.dp).rec_.ring = _
    rw [folds, if_neg goes]
    exact ⟨rfl, rfl, rfl, rfl⟩
  · change execCoreSample s = _
    exact onDp_step (if_pos (by rw [live, own]; simp [period]))
  · show (windowEndsBw s.ctl s.dp).pmu.bytes = _ ∧ (windowEndsBw s.ctl s.dp).pmu.bwSeq = _ ∧
      (windowEndsBw s.ctl s.dp).pmu.bwWindow = _ ∧ ∀ p < 27, _ → smGet 0 (windowEndsBw s.ctl s.dp).pmu.bw p = _
    rw [windowEndsBw, if_neg on]
    refine ⟨rfl, rfl, rfl, fun p small own => (smGet_foldl_loaded ..).trans (if_pos ?_)⟩
    simp
    omega
  · show (publishes s.ctl s.dp).pmu.chBytes = _ ∧ (publishes s.ctl s.dp).pmu.cnt = _ ∧
      ∀ k < 17, smGet 0 (publishes s.ctl s.dp).pmu.bw (k + 2) = _
    rw [publishes, if_neg on, frozen]
    dsimp only
    rw [if_pos rfl, if_pos short]
    refine ⟨rfl, rfl, fun k small => (smGet_foldl_loaded ..).trans (if_pos ?_)⟩
    simp
    omega

end Sys2Proof.Laws
end
section
/-! PROOF. What steps and commands do in general, the tables of R77, R133 and R134, the reset state and the worked examples of one
address, and the line operations on a way (R181 to R187). -/

namespace Sys2Proof.Laws

open Sys2Proof.Machine

/-- Settles O1: a step takes the front command off and runs it. -/
theorem stepRunsTheFrontCommand : Obligations.StepRunsTheFrontCommand := fun _ _ => rfl

/-- Settles O2: every row answers the state with a changed control state and datapath. -/
theorem everyCommandAnswersAndKeepsTheQueue : Obligations.EveryCommandAnswersAndKeepsTheQueue := by
  intro c s
  cases c <;> exact ⟨_, rfl, rfl⟩

/-- Settles O59: a row that is not listed changes the datapath alone. -/
theorem onlyListedCommandsTouchControlFields : Obligations.OnlyListedCommandsTouchControlFields := by
  intro c s t untouched h
  cases c <;> cases untouched <;> (injection h with h; subst h; rfl)

/-- The mask of an entry made of its fields. -/
theorem entryMask_mkEntry (s : Stripe) (base recent : BitVec 8) (mask : BitVec 16) :
    entryMask (mkEntry s base recent mask) = mask := BitVec.extractLsb'_append_eq_right

/-- The recent horizon of an entry made of its fields. -/
theorem entryRecent_mkEntry (s : Stripe) (base recent : BitVec 8) (mask : BitVec 16) :
    entryRecent (mkEntry s base recent mask) = recent :=
  (BitVec.extractLsb'_append_eq_of_le (by decide)).trans BitVec.extractLsb'_append_eq_right

/-- The base horizon of an entry made of its fields. -/
theorem entryBase_mkEntry (s : Stripe) (base recent : BitVec 8) (mask : BitVec 16) :
    entryBase (mkEntry s base recent mask) = base :=
  (BitVec.extractLsb'_append_eq_of_le (by decide)).trans <|
    (BitVec.extractLsb'_append_eq_of_le (by decide)).trans BitVec.extractLsb'_append_eq_right

/-- The stripe of an entry made of its fields. -/
theorem entryStripe_mkEntry (s : Stripe) (base recent : BitVec 8) (mask : BitVec 16) :
    entryStripe (mkEntry s base recent mask) = s :=
  (BitVec.extractLsb'_append_eq_of_le (by decide)).trans <|
    (BitVec.extractLsb'_append_eq_of_le (by decide)).trans <|
      (BitVec.extractLsb'_append_eq_of_le (by decide)).trans BitVec.extractLsb'_append_eq_right

/-- The bits of a mask with a bit set. -/
theorem setBit_getLsbD {w : Nat} (v : BitVec w) {k i : Nat} (h : i < w) :
    (setBit v k).getLsbD i = (v.getLsbD i || decide (k = i)) := by
  rw [setBit, BitVec.getLsbD_or, BitVec.getLsbD_ofNat, Nat.testBit_two_pow, decide_eq_true h, Bool.true_and]

/-- Setting a bit that is set changes nothing. -/
theorem setBit_of_set {w : Nat} {v : BitVec w} {k : Nat} (h : v.getLsbD k = true) : setBit v k = v := by
  refine BitVec.eq_of_getLsbD_eq fun i small => ?_
  rw [setBit_getLsbD v small]
  by_cases same : k = i
  · simp [← same, h]
  · simp [same]

/-- An age class holds the horizons from its edge up to the next (R134). -/
theorem ageClass_edges (h : Nat) :
    ageClass h ≤ 15 ∧ classEdge (ageClass h) ≤ h ∧ (ageClass h < 15 → h < classEdge (ageClass h + 1)) := by
  by_cases small : h ≤ 3
  · rw [ageClass, if_pos small]
    interval_cases h <;> decide
  · rw [ageClass, if_neg small]
    repeat' split
    all_goals
      refine ⟨by decide, ?_, ?_⟩
      · simp only [classEdge, List.getD_cons_succ, List.getD_cons_zero]
        omega
      · simp only [classEdge, List.getD_cons_succ, List.getD_cons_zero]
        omega

/-- The buckets of the reads under the ceiling (R77). -/
theorem readBucket_edges (lat : Nat) : readBucket lat true ≤ 30 ∧ (readBucket lat true = 30 ↔ 1000 < lat) ∧
    (readBucket lat true = 0 ↔ lat < 200) ∧
    ∀ b, 1 ≤ b → b ≤ 28 → (readBucket lat true = b ↔ 200 + 25 * (b - 1) ≤ lat ∧ lat < 200 + 25 * b) := by
  have row : readBucket lat true = if lat < 200 then 0 else if lat < 900 then 1 + (lat - 200) / 25
    else if lat ≤ 1000 then 29 else 30 := rfl
  rw [row]
  refine ⟨?_, ?_, ?_, fun b low high => ?_⟩ <;> (repeat' split) <;> omega

/-- Settles O55. -/
theorem bucketsClassesAndHorizonFollowTheirTables : Obligations.BucketsClassesAndHorizonFollowTheirTables := by
  refine ⟨fun lat => ⟨rfl, readBucket_edges lat⟩, fun now e j small => ⟨fun empty => ?_, fun some_ old => ?_,
    fun some_ cur => ?_⟩, ageClass_edges⟩
  · refine ⟨_, if_pos empty, entryStripe_mkEntry .., entryBase_mkEntry .., entryRecent_mkEntry .., fun i hi => ?_⟩
    rw [entryMask_mkEntry, setBit_getLsbD _ hi]
    simp [eq_comm]
  · exact (if_neg some_).trans (if_neg old)
  · have row : horizonCheck now e j = if (entryMask e).getLsbD j then some none
        else if setBit (entryMask e) j = 0xFFFF then some (some (mkEntry (entryStripe e) now 0 0))
        else some (some (mkEntry (entryStripe e) (entryBase e) now (setBit (entryMask e) j))) :=
      (if_neg some_).trans (if_pos cur)
    rw [row]
    change ∃ x : Option (BitVec 64), _ ∧ (setBit (entryMask e) j = _ → _) ∧ (setBit (entryMask e) j ≠ _ → entryMask (x.getD e) = setBit (entryMask e) j ∧ _)
    by_cases set : (entryMask e).getLsbD j = true
    · refine ⟨none, if_pos set, fun _ clear => absurd (set.symm.trans clear) (by decide), fun _ => ⟨?_, cur, rfl⟩⟩
      exact (setBit_of_set set).symm
    · rw [if_neg set]
      by_cases full : setBit (entryMask e) j = 0xFFFF
      · refine ⟨_, if_pos full, fun _ _ => ⟨_, rfl, ?_, entryMask_mkEntry .., entryStripe_mkEntry ..⟩, fun part => absurd full part⟩
        exact (entryBase_mkEntry ..).trans cur.symm
      · refine ⟨_, if_neg full, fun full' => absurd full' full, fun _ => ⟨entryMask_mkEntry .., entryRecent_mkEntry .., ?_⟩⟩
        exact entryBase_mkEntry ..

/-- A line's ways have a key each. -/
theorem lockedWays_nodup (d : Dp) (l : LineAddr) : (lockedWays d l).Nodup := by
  refine List.Nodup.filter _ (List.Nodup.map (fun a b same => ?_) List.nodup_range)
  simpa [wayKey] using same

/-- The ways after each of some distinct ones is changed. -/
theorem getWay_foldl_setWay (f : Way → Way) {ks : List Nat} (distinct : ks.Nodup) (d : Dp) (j : Nat) :
    getWay (ks.foldl (fun d k => setWay k (f (getWay d k)) d) d) j = if j ∈ ks then f (getWay d j) else getWay d j := by
  induction ks generalizing d with
  | nil => rfl
  | cons k ks ih =>
    obtain ⟨fresh, distinct⟩ := List.nodup_cons.1 distinct
    rw [List.foldl_cons, ih distinct]
    by_cases here : j = k
    · subst here
      rw [if_neg fresh, if_pos List.mem_cons_self, getWay_setWay]
    · rw [getWay_setWay_ne _ _ here]
      simp [here]

/-- What an unlock makes of a locked way of its line. -/
def unlockedWay (w : Way) : Way := if w.valid then { w with lock := false, owner := 0 } else {}

/-- The ways after an unlock. -/
theorem stepUnlock_ways (l : LineAddr) (d : Dp) (j : Nat) :
    getWay (stepUnlock l d).dp j = if j ∈ lockedWays d l then unlockedWay (getWay d j) else getWay d j :=
  getWay_foldl_setWay unlockedWay (lockedWays_nodup d l) d j

/-- The way found for a line is one of its ways, and is for it. -/
theorem findWay_some {d : Dp} {l : LineAddr} {k : Nat} (found : findWay d l = some k) :
    k ∈ (List.range 16).map (wayKey l) ∧ (getWay d k).valid = true ∧ (getWay d k).tag = tagOf l := by
  obtain ⟨w, inSet, is⟩ := List.exists_of_findSome?_eq_some found
  split at is
  · next holds =>
    injection is with is
    subst is
    exact ⟨List.mem_map_of_mem inSet, holds⟩
  · cases is

/-- Settles O47. -/
theorem lineOperationsChangeTheirWay : Obligations.LineOperationsChangeTheirWay := by
  unfold Obligations.LineOperationsChangeTheirWay
  intro c d l k found
  obtain ⟨inSet, valid, tag⟩ := findWay_some found
  refine ⟨fun clean => ?_, fun dirty => ⟨?_, ?_⟩, ⟨?_, fun locked => ?_, fun j mem empty => ?_, fun j other => ?_⟩, fun cls room => ?_⟩
  · have invalidated : stepInvalidate l d = { dp := emptyWay k d, acted := true } := by
      rw [stepInvalidate, found]
      exact if_pos clean
    rw [invalidated]
    refine ⟨rfl, rfl, rfl, ?_⟩
    rw [emptyWay, getWay_setWay]
    cases lock : (getWay d k).lock <;> exact ⟨rfl, rfl⟩
  · rw [stepInvalidate, found]
    exact if_neg dirty
  · rw [stepClean, found]
    exact if_neg dirty
  · change ((findWay d l).isSome || decide (lockedWays d l ≠ [])) = true
    rw [found]
    rfl
  · have mem : k ∈ lockedWays d l := List.mem_filter.2 ⟨inSet, by simp [locked, tag]⟩
    rw [stepUnlock_ways, if_pos mem, unlockedWay, if_pos valid]
  · rw [stepUnlock_ways, if_pos mem, unlockedWay, empty]
    rfl
  · rw [stepUnlock_ways, if_neg other]
  · have locked : stepLock c cls l d = { dp := lockWay cls k d, acted := true } := by
      rw [stepLock, found]
      exact if_pos (by simp [room])
    rw [locked]
    exact ⟨rfl, getWay_setWay ..⟩

/-- Settles O56: each fact is of a closed state or address, evaluated. -/
theorem resetAndWorkedExamplesHold : Obligations.ResetAndWorkedExamplesHold := by
  refine ⟨⟨rfl, rfl, rfl, rfl, crGet_nil rfl, ?_, ⟨List.Pairwise.nil, nofun⟩, rfl, rfl, ?_, fun s none_ => ?_⟩, fun d is => ?_, ?_⟩
  · unfold RangesOk
    decide +kernel
  · decide +kernel
  · rw [step, none_]
  · rw [hdmDecode, is]
    decide
  · decide

end Sys2Proof.Laws
end
section
/-! PROOF. The command set of the queues (R286): the queries, the commands that return a buffer, and those that change one thing. -/

namespace Sys2Proof.Laws

open Sys2Proof.Machine

/-- A field of a number that fits its word. -/
theorem extract_ofNat {n : Nat} (fits : n < 2 ^ 64) (lo w : Nat) :
    (BitVec.ofNat 64 n).extractLsb' lo w = BitVec.ofNat w (n / 2 ^ lo) := by
  apply BitVec.eq_of_toNat_eq
  rw [BitVec.extractLsb'_toNat, BitVec.toNat_ofNat, BitVec.toNat_ofNat, Nat.mod_eq_of_lt fits, Nat.shiftRight_eq_div_pow]

/-- The counter number of a parameter that holds one. -/
theorem cntParam_number {d : Dp} {n : Nat} (small : n < 32) (number : param d 0 = BitVec.ofNat 64 n) : cntParam d = some n := by
  have high : n / 2 ^ 5 = 0 := Nat.div_eq_of_lt small
  rw [cntParam, number, extract_ofNat (by omega), extract_ofNat (by omega), high, if_neg (by simp), Nat.pow_zero, Nat.div_one,
    BitVec.toNat_ofNat, Nat.mod_eq_of_lt small]

/-- The four sectors of each lost line. -/
theorem length_lostSectors (l : List SecAddr) :
    (l.flatMap fun a => (List.range 4).map fun k => (lineSec (secLine a) k).toNat).length = 4 * l.length := by
  rw [List.length_flatMap]
  simp [List.map_const', Nat.mul_comm]

/-- A read of pages that may all be read and are all right (R298). -/
theorem pstReadCmd_pages {c : Ctl} {d : Dp} {first n : Nat} (hf : ((param d 0).extractLsb' 32 32).toNat = first)
    (zero : (param d 0).extractLsb' 16 16 = 0) (hn : ((param d 0).extractLsb' 0 16).toNat = n) (low : 1 ≤ n) (high : n ≤ 4096)
    (last : first + n - 1 ≤ lastPage d)
    (ok : ∀ i < n, pstReadable (first + i) = true ∧ (pageOut d (first + i)).isSome = true) :
    pstReadCmd c d = completeBuffer c 1 ((List.range n).flatMap fun i => (pageOut d (first + i)).getD []) []
      (bump (pagesRead ((List.range n).map (first + ·)) d)) := by
  have fits : ¬ ((param d 0).extractLsb' 16 16 ≠ 0 ∨ n < 1 ∨ 4096 < n ∨ lastPage d < first + n - 1) := by
    rintro (h | h | h | h)
    · exact h zero
    all_goals omega
  have readable : ((List.range n).map (first + ·)).all pstReadable = true := by
    simp only [List.all_map, List.all_eq_true, List.mem_range]
    exact fun i small => (ok i small).1
  have right : ((List.range n).map (first + ·)).find? (fun q => (pageOut d q).isNone) = none := by
    simp only [List.find?_eq_none, List.mem_map, List.mem_range]
    rintro q ⟨i, small, rfl⟩
    simp [← Option.not_isSome, (ok i small).2]
  have bytes : (((List.range n).map (first + ·)).flatMap fun q => (pageOut d q).getD (freePage q d)) =
      (List.range n).flatMap fun i => (pageOut d (first + i)).getD [] := by
    rw [List.flatMap_map]
    refine List.flatMap_congr fun i small => ?_
    obtain ⟨page, is⟩ := Option.isSome_iff_exists.1 (ok i (List.mem_range.1 small)).2
    rw [is]
    rfl
  unfold pstReadCmd
  dsimp only
  rw [hf, hn, if_neg fits, readable, right, bytes]
  rfl

/-- Settles O3: each row is its effect on the part, taken while the command is in hand. -/
theorem oxsarReportsReturnTheirResults : Obligations.OxsarReportsReturnTheirResults := by
  unfold Obligations.OxsarReportsReturnTheirResults
  refine ⟨fun s => ⟨fun hand => ?_, fun hand => ?_, fun hand => ?_, fun hand => ?_, fun hand => ?_, fun n hand small number => ?_,
    fun recs hand valid => ?_, fun hand => ?_, fun i hand runs => ?_, fun hand => ?_⟩,
    fun s => ⟨fun hand => ?_, fun hand => ⟨_, ?_, rfl⟩, fun hand => ⟨_, ?_, rfl⟩, fun first n e d1 hand word f z c low high last ok => ?_,
      fun x hand idle found => ?_, fun hand small => ?_, fun hand fits => ?_⟩⟩
  · change execNop s = _
    exact hand_step hand rfl
  · change execIdentify s = _
    exact hand_step hand rfl
  · change execGetTime s = _
    exact hand_step hand rfl
  · change execHltSummary s = _
    exact hand_step hand rfl
  · change execHltUnits s = _
    exact hand_step hand rfl
  · change execCntRead s = _
    refine hand_step hand ?_
    rw [cntParam_number small number]
    rfl
  · change execCfgValidate s = _
    refine hand_step hand ?_
    rw [valid]
    rfl
  · change execSecState s = _
    exact hand_step hand rfl
  · change execFwState s = _
    refine hand_step hand ?_
    rw [runs]
    rfl
  · change execModeGet s = _
    refine hand_step hand ?_
    rw [fv, Nat.mod_eq_of_lt s.dp.sup.cause.isLt]
    rfl
  · change execHltLostList s = _
    refine hand_step hand ?_
    rw [completeRecords, length_lostSectors]
    rfl
  · change execHltTemps s = _
    exact hand_step hand rfl
  · change execMmRetireList s = _
    exact hand_step hand rfl
  · change execPstRead e s = _
    refine hand_step hand ?_
    rw [← word]
    exact pstReadCmd_pages f z c low high last ok
  · change execRecReadSample s = _
    refine hand_step hand ?_
    rw [idle, found]
    rfl
  · change execRecHist s = _
    exact hand_step hand (if_neg (by omega))
  · change execPmuSamples s = _
    refine hand_step hand ?_
    rw [pmuSamplesCmd, fits]
    rfl

/-- What MM_ISOLATE does with a good guard word, its target in range and no unit isolated (R146, R286). -/
theorem isolateCmd_target {c : Ctl} {d : Dp} {k : Nat} {mask : BitVec 4} (hand : inHand d 0x0204 = true) (guard : guarded d = true)
    (chan : k < 17) (warps : mask.toNat < 2 ^ cfgN d) (target : param d 0 = BitVec.ofNat 64 (k * 256 + mask.toNat))
    (whole : anyIsolated d = false) (still : d.mh.rebActive = false) :
    isolateCmd c d = ((isolateCounted k (mask = 0) mask c d).1,
      complete (isolateCounted k (mask = 0) mask c d).1 .success [] (msix 70 (isolateCounted k (mask = 0) mask c d).2)) := by
  have small := mask.isLt
  have field : ∀ lo w, (param d 0).extractLsb' lo w = BitVec.ofNat w ((k * 256 + mask.toNat) / 2 ^ lo) := by
    rw [target]
    exact extract_ofNat (by omega)
  have hk : ((param d 0).extractLsb' 8 5).toNat = k := by
    rw [field, BitVec.toNat_ofNat]
    omega
  have hmask : (param d 0).extractLsb' 0 4 = mask := by
    apply BitVec.eq_of_toNat_eq
    rw [field, BitVec.toNat_ofNat]
    omega
  have above : (k * 256 + mask.toNat) / 2 ^ 13 = 0 := by omega
  have between : (k * 256 + mask.toNat) / 2 ^ 4 = k * 16 := by omega
  have fits : ¬ ((param d 0).extractLsb' 13 51 ≠ 0 ∨ (param d 0).extractLsb' 4 4 ≠ 0 ∨ 17 ≤ k ∨ 2 ^ cfgN d ≤ mask.toNat) := by
    rintro (h | h | h | h)
    · exact h (by rw [field, above]; rfl)
    · refine h (BitVec.eq_of_toNat_eq ?_)
      rw [field, between, BitVec.toNat_ofNat]
      exact Nat.mul_mod_left ..
    all_goals omega
  unfold isolateCmd
  dsimp only
  rw [hk, hmask, hand, guard, if_neg fits, whole, still]
  rfl

/-- Settles O4: each row is its effect, taken while the command is in hand and its checks pass. -/
theorem oxsarActionsTakeEffect : Obligations.OxsarActionsTakeEffect := by
  unfold Obligations.OxsarActionsTakeEffect
  refine ⟨fun s => ⟨fun hand guard zero bank row room => ?_, fun hand => ?_, fun page hand idle small range hp one => ?_,
    fun hand nothing => ?_, fun hand small some_ idle => ?_, fun page hand storing told late => ⟨_, ?_, rfl⟩,
    fun n hand low high number idle => ?_, fun n t hand pend late => ?_, fun hand idle => ?_, fun hand zero => ?_,
    fun hand z1 z2 state free => ⟨_, rfl, ?_⟩, fun b hand number ok => ?_, fun hand => ?_, fun hand => ?_⟩,
    fun s => ⟨fun hand open_ => ?_, fun hand serve => ?_, fun hand none_ fallow => ?_, fun hand zero ones => ?_⟩,
    fun s k mask hand guard chan warps target whole still => ⟨_, rfl, ?_⟩⟩
  · change execMmHbmHardRepair s = _
    refine hand_step hand ?_
    have fits : ¬ ((param s.dp 0).extractLsb' 26 38 ≠ 0 ∨ 48 ≤ ((param s.dp 0).extractLsb' 15 6).toNat ∨
        24576 ≤ ((param s.dp 0).extractLsb' 0 15).toNat) := by
      rintro (h | h | h)
      · exact h zero
      all_goals omega
    rw [guard]
    refine (if_neg (by decide)).trans ((if_neg fits).trans (if_neg fun full => ?_))
    rcases room with room | room
    · omega
    · simp only [room] at full
      exact absurd full.2 (by decide)
  · change execMmHarrowRestart s = _
    exact hand_step hand rfl
  · change execPstWrite s = _
    refine hand_step hand ?_
    have count : (param s.dp 0).extractLsb' 0 3 = 1 := by
      rw [← BitVec.extractLsb'_extractLsb'_of_le (by decide : 0 + 3 ≤ 32), one]
      rfl
    have rest : (param s.dp 0).extractLsb' 3 29 = 0 := by
      rw [← BitVec.extractLsb'_extractLsb'_of_le (by decide : 3 + 29 ≤ 32), one]
      rfl
    have writable : pstWritable page = true := by
      unfold pstWritable
      simp
      omega
    have last : ¬ lastPage s.dp < page := by
      rw [lastPage, if_neg (by omega)]
      omega
    unfold pstWriteCmd
    dsimp only
    rw [idle, count, rest, hp, if_neg (by decide), if_neg (by simpa using last)]
    simp [writable, Nat.not_le.2 small, Machine.ok]
  · change execPstCommit s = _
    exact hand_step hand (if_pos (by simpa using nothing))
  · change execPstCommit s = _
    refine hand_step hand ?_
    have part : ¬ 3 ≤ cfgN s.dp := by omega
    rw [pstCommitCmd, if_neg (by simp [some_, part]), idle, startStore, if_neg (by decide), if_neg part]
    simp [some_]
  · rw [storeRuns, storing]
    dsimp only
    rw [if_neg (by omega), hand, told]
    rfl
  · change execCntInc s = _
    refine hand_step hand ?_
    rw [cntIncCmd, cntParam_number high number]
    dsimp only
    rw [if_neg (by omega), idle]
    rfl
  · rw [countRuns, pend]
    dsimp only
    rw [if_neg (by omega), hand]
    rfl
  · change execRecSampleNow s = _
    refine hand_step hand ?_
    rw [idle]
    rfl
  · change execRecClear s = _
    exact hand_step hand (if_neg (not_not.2 zero))
  · change execSecKeyslotBind s = _
    refine hand_step hand ?_
    have plain : ¬ (s.dp.sec.st ≠ .disabled ∧ s.dp.sec.st ≠ .unlocked) := by
      rintro ⟨x, y⟩
      exact state.elim x y
    unfold bindCmd
    dsimp only
    rw [if_neg (by simp [z1, z2]), if_neg plain, free]
    rfl
  · change execFwSelect s = _
    refine hand_step hand ?_
    rw [number]
    have bit : (BitVec.ofNat 64 (b2n b)).getLsbD 0 = b := by cases b <;> rfl
    have rest : (BitVec.ofNat 64 (b2n b)).extractLsb' 1 63 = 0 := by cases b <;> rfl
    rw [bit, rest]
    dsimp only
    rw [ok]
    rfl
  · change execPmuUserEn s = _
    exact hand_step hand rfl
  · change execPmuUserDis s = _
    exact hand_step hand rfl
  · change execModeDormant s = _
    refine hand_step hand (if_neg ?_)
    rintro ⟨state, held⟩
    rcases open_ with none_ | ⟨x, y⟩
    · exact held none_
    · exact state.elim x y
  · change execModeFallowEnter s = _
    exact hand_step hand (if_neg (not_not.2 serve))
  · change execModeFallowExit s = _
    refine hand_step hand ?_
    rw [none_, fallow]
    rfl
  · change execModeDrainOff s = _
    refine hand_step hand ?_
    rw [guarded, zero, ones]
    rfl
  · change execMmIsolate s = _
    rw [execMmIsolate, onBoth, isolateCmd_target hand guard chan warps target whole still]

end Sys2Proof.Laws
end
section
/-! PROOF. The standard commands of the mailbox: those that report, those that change something, and the passphrase commands. -/

namespace Sys2Proof.Laws

open Sys2Proof.Machine

/-- The step of a standard command that is ready, whose payload has the right length. -/
theorem ready_step {s : State} {f : Ctl → Dp → Dp → Dp} {op n : Nat} {d : Dp} (ready : StdReady s.dp op n)
    (effect : f s.ctl s.dp s.dp = d) : whenStd op (fun c d => withLen n (f c d) d) s = .next (s.withDp d) := by
  obtain ⟨hand, free, len⟩ := ready
  exact std_step hand free ((withLen_ok _ len).trans effect)

/-- A reply while vector 64 is unmasked and the function may write (R266, R288). -/
theorem mailboxReply_parts {r : Ret} {payload : List (BitVec 8)} {d : Dp} (open_ : d.hif.vecMask.getLsbD 64 = false)
    (master : d.hif.busMaster = true) : ∃ que out, mailboxReply r payload d = { d with que := que, out := out } ∧
      que.cur = none ∧ que.mboxBusy = false ∧ que.mboxRet = BitVec.ofNat 16 r.code ∧ que.mboxLen = payload.length ∧
      que.mboxOut = wordsOf ((payload.length + 7) / 8) payload ∧
      out = d.out ++ [.mailbox r.code (wordsOf ((payload.length + 7) / 8) payload)] ++ (if d.que.mboxIrq then [.msix 64] else []) := by
  unfold mailboxReply mailboxDone
  dsimp only
  split <;> rename_i irq
  · rw [msix_sent (by exact open_) (by exact master), irq]
    exact ⟨_, _, rfl, rfl, rfl, rfl, rfl, rfl, rfl⟩
  · exact ⟨_, _, rfl, rfl, rfl, rfl, rfl, rfl, (List.append_nil _).symm⟩

/-- The part of GET_FW_INFO's reply before the revisions (R267): the slots in use and to be used, and the capabilities. -/
def fwInfoHead (d : Dp) : List (BitVec 8) :=
  let running := if d.sec.running = 2 then 0 else d.sec.running.toNat + 1
  let next := b2n d.pst.dev.fwSelect + 1
  [2, BitVec.ofNat 8 (running + (if next = running then 0 else 8 * next)), 0] ++ bytesLe 13 0

/-- Pages that all decode (R267). -/
theorem any_isNone_map_some {α : Type} (vs : List α) : (vs.map some).any (·.isNone) = false := by
  simp

/-- Settles O8. -/
theorem mailboxReportsAndReplies : Obligations.MailboxReportsAndReplies := by
  unfold Obligations.MailboxReportsAndReplies
  refine ⟨fun r payload d d' reply open_ master => ?_, fun s => ⟨fun ready => ?_, fun ready => ?_,
    fun ready => ⟨fwInfoHead s.dp, _, rfl, rfl, rfl, ?_⟩, fun ready => ?_, fun ready => ?_, fun ready => ?_, fun ready => ?_, fun ready => ?_,
    fun k a ready hk ha => ?_, fun ready => ?_, fun ready few => ?_, fun ready => ?_⟩,
    fun s => ⟨fun ready sev => ⟨_, rfl, ?_⟩, fun ready uuid room => ?_, fun vs ready room few pages => ?_,
      fun lo hi ready range whole idle => ⟨_, rfl, ?_⟩, fun lo hi ready range => ?_⟩⟩
  · obtain ⟨que, out, is, parts⟩ := mailboxReply_parts (r := r) (payload := payload) open_ master
    rw [is] at reply
    subst reply
    obtain ⟨cur, busy, ret, len, words, sent⟩ := parts
    exact ⟨cur, busy, ret, len, words, sent, rfl⟩
  · change execIdentifyGenericComponent s = _
    exact ready_step ready rfl
  · change execGetEventInterruptPolicy s = _
    exact ready_step ready rfl
  · change execGetFwInfo s = _
    refine ready_step ready ?_
    rw [← List.append_assoc, ← List.append_assoc]
    rfl
  · change execGetTimestamp s = _
    exact ready_step ready rfl
  · change execGetSupportedLogs s = _
    exact ready_step ready rfl
  · change execIdentifyMemoryDevice s = _
    exact ready_step ready rfl
  · change execGetPartitionInfo s = _
    exact ready_step ready rfl
  · change execGetHealthInfo s = _
    exact ready_step ready rfl
  · change execGetAlertConfiguration s = _
    refine ready_step ready ?_
    simp only [hk, ha]
  · change execGetShutdownState s = _
    exact ready_step ready rfl
  · change execGetScanMediaResults s = _
    refine ready_step ready ?_
    dsimp only
    rw [List.take_of_length_le few, decide_eq_false (Nat.not_lt.2 few)]
    rfl
  · change execGetSecurityState s = _
    exact ready_step ready rfl
  · change execGetEventRecords s = _
    exact ready_step ready (if_neg (Nat.not_le.2 sev))
  · change execGetLog s = _
    exact ready_step ready ((if_neg (not_not.2 uuid)).trans (if_neg (Nat.not_lt.2 room)))
  · change execGetLsa s = _
    refine ready_step ready ?_
    dsimp only
    rw [pages, if_neg (by omega), any_isNone_map_some, List.flatMap_map]
    rfl
  · change execGetPoisonList s = _
    refine ready_step ready ?_
    rw [range]
    dsimp only
    rw [idle, whole]
    rfl
  · change execGetScanMediaCapabilities s = _
    refine ready_step ready ?_
    rw [range]

/-- The interrupt policies of the four event logs, set (R267). -/
def setPolicies (m : Nat → Nat) (d : Dp) : Dp :=
  (List.range 4).foldl (fun d i => setLog i { logOf d i with policy := BitVec.ofNat 2 (m i) } d) d

/-- Setting a log changes the logs alone. -/
theorem setLog_rest (sev : Nat) (l : EvLog) (d : Dp) (x : Logs) : { setLog sev l d with logs := x } = { d with logs := x } := by
  unfold setLog
  split <;> rfl

/-- Each log has its policy, and only the logs change. -/
theorem setPolicies_logs (m : Nat → Nat) (d : Dp) : (∀ i < 4, (logOf (setPolicies m d) i).policy = BitVec.ofNat 2 (m i)) ∧
    setPolicies m d = { d with logs := (setPolicies m d).logs } := by
  have rest : { setPolicies m d with logs := d.logs } = d :=
    foldl_keeps (fun e : Dp => { e with logs := d.logs }) _ (fun e i => setLog_rest ..) (List.range 4) d
  refine ⟨fun i small => ?_, congrArg (fun e : Dp => { e with logs := (setPolicies m d).logs }) rest⟩
  match i with
  | 0 => rfl
  | 1 => rfl
  | 2 => rfl
  | 3 => rfl

/-- A log all of whose records are cleared. -/
theorem clearLog_all (l : EvLog) : clearLog (fun _ => false) l = { l with recs := [], overflow := 0, first := 0, last := 0 } := by
  rw [clearLog, List.filter_false]
  rfl

/-- The bytes that a mailbox command brings from a place on. -/
theorem length_mboxFrom (d : Dp) (off : Nat) : (mboxFrom d off).length = d.que.mboxLen - off := by
  simp [mboxFrom]

/-- The slot of a firmware image by its number. -/
theorem decide_slot_eq_two (b : Bool) : decide (b2n b + 1 = 2) = b := by
  cases b <;> rfl

/-- At most so many words are packed. -/
theorem length_wordsOf_le (n : Nat) (l : List (BitVec 8)) : (wordsOf n l).length ≤ n := by
  induction n generalizing l with
  | zero => exact Nat.le_refl 0
  | succ n ih =>
    rw [wordsOf]
    split
    · exact Nat.zero_le _
    · exact Nat.succ_le_succ (ih _)

/-- A part of a firmware image that fits (R267). -/
theorem transferPart_last {y : Bool × List (BitVec 64)} {d : Dp} (fits : y.2.length ≤ 2097152) :
    transferPart (some y) true d = startBackground 0x0201 0 0 (finishTransfer y d) :=
  if_neg (Nat.not_lt.2 fits)

/-- Settles O9. -/
theorem mailboxActionsTakeEffect : Obligations.MailboxActionsTakeEffect := by
  unfold Obligations.MailboxActionsTakeEffect
  intro s
  refine ⟨fun ready sev none_ all => ?_, fun ready small => ?_,
    fun b hand free idle whole low high action slot other idle' => ?_,
    fun b ready action slot ok => ?_, fun ready => ?_, fun n ready => ?_, fun hand free idle whole quiet long room => ?_,
    fun ready valid on => ?_, fun ready small => ?_, fun a ready addr open_ few => ?_,
    fun a ready addr open_ serve credit ceiling room => ?_, fun lo hi ready idle whole range => ?_⟩
  · change execClearEventRecords s = _
    obtain ⟨hand, free, len⟩ := ready
    refine std_step hand free ?_
    dsimp only
    rw [none_, len, if_neg (by decide), if_neg (Nat.not_le.2 sev), if_pos all, clearLog_all]
    rfl
  · obtain ⟨policies, frame⟩ := setPolicies_logs (fun i => mboxNum s.dp i 1 % 4) s.dp
    refine ⟨_, policies, frame, ?_⟩
    change execSetEventInterruptPolicy s = _
    refine ready_step ready (if_neg ?_)
    simpa [-List.any_eq_true] using small
  · change execTransferFw s = _
    refine std_step hand free ((unlessBusy_idle _ idle whole).trans ?_)
    dsimp only
    have known : ¬ (b2n b + 1 ≠ 1 ∧ b2n b + 1 ≠ 2 ∨ s.dp.sec.running.toNat + 1 = b2n b + 1) := by
      have : b2n b ≤ 1 := by cases b <;> decide
      omega
    rw [action, slot, if_neg (by omega), if_neg (by decide), if_neg known, idle', decide_slot_eq_two]
    exact transferPart_last ((length_wordsOf_le ..).trans (by omega))
  · change execActivateFw s = _
    refine ready_step ready ?_
    have known : ¬ (b2n b + 1 ≠ 1 ∧ b2n b + 1 ≠ 2) := by
      have : b2n b ≤ 1 := by cases b <;> decide
      omega
    rw [action, slot, if_neg (not_not.2 rfl), if_neg known, decide_slot_eq_two, ok]
    rfl
  · change execSetTimestamp s = _
    exact ready_step ready rfl
  · change execSetPartitionInfo s = _
    obtain ⟨hand, free, -⟩ := ready
    exact std_step hand free rfl
  · change execSetLsa s = _
    refine std_step hand free ?_
    have quiet : s.dp.pst.writes.any (fun w => decide (w.who = 2)) = false := by simpa using quiet
    have bytes : ¬ mboxFrom s.dp 8 = [] := by
      rw [← List.length_eq_zero_iff, length_mboxFrom]
      omega
    dsimp only
    rw [quiet, idle, whole, length_mboxFrom, if_neg (by decide), if_neg (by decide), if_neg (by omega), if_neg (by omega),
      if_neg bytes]
  · change execSetAlertConfiguration s = _
    refine ready_step ready (congrArg (mailboxReply .success []) ?_)
    dsimp only
    rw [valid, show List.range 5 = [0, 1, 2, 3, 4] from rfl]
    simp only [List.foldl_cons, List.foldl_nil, on]
    rfl
  · change execSetShutdownState s = _
    exact ready_step ready (if_neg (Nat.not_le.2 small))
  · change execInjectPoison s = _
    refine ready_step ready ?_
    rw [addr]
    dsimp only
    rw [open_, if_neg (by decide), if_neg (Nat.not_le.2 few)]
    rfl
  · change execClearPoison s = _
    refine ready_step ready ?_
    rw [addr]
    dsimp only
    rw [if_neg (by simp [open_, serve]), credit, if_neg (by simp; omega)]
    rfl
  · change execScanMedia s = _
    obtain ⟨hand, free, len⟩ := ready
    refine std_step hand free ((unlessBusy_idle _ idle whole).trans ((withLen_ok _ len).trans ?_))
    rw [range]

/-- Settles O10. -/
theorem passphraseCommandsTakeEffect : Obligations.PassphraseCommandsTakeEffect := by
  unfold Obligations.PassphraseCommandsTakeEffect
  intro s free
  refine ⟨fun ready kind state given => ?_, fun ready kind state given right => ?_, fun ready state given right => ?_,
    fun ready state => ?_⟩
  · change execSetPassphrase s = _
    refine ready_step ready ?_
    dsimp only
    rw [kind, state, if_neg (by decide), if_neg (by decide), if_neg (by decide), if_neg given]
    rfl
  · change execDisablePassphrase s = _
    refine ready_step ready ?_
    dsimp only
    rw [kind, state, if_neg (by decide), if_neg (by decide), if_neg (by decide)]
    exact withPass_right _ given right
  · change execUnlock s = _
    obtain ⟨hand, -, len⟩ := ready
    rw [execUnlock, onBoth, unlockCmd, hand, free, len, state, right]
    dsimp only
    rw [if_neg (by decide), if_neg (by decide), if_neg (by decide), if_neg given]
    rfl
  · change execFreezeSecurityState s = _
    refine ready_step ready ?_
    rcases state with state | state <;> rw [state] <;> rfl

end Sys2Proof.Laws
end
section
/-! SUPPORT. The start of a RISE: what reading the store, seeding and the records of the security unit leave. -/

namespace Sys2Proof.Laws

open Sys2Proof.Machine

/-- A state without what a note of an event touches: the store, the fault collector, the logs, the monitor, the host's messages and
the outputs. -/
def withoutNotes (d : Dp) : Dp :=
  { d with pst := Pst.reset, flt := Dp.reset.flt, logs := Logs.reset, pmu := Dp.reset.pmu, hif := Hif.reset, out := [] }

/-- One state comes of another by notes of events alone. -/
def Noted (d e : Dp) : Prop := withoutNotes e = withoutNotes d

theorem noted_refl (d : Dp) : Noted d d := rfl

theorem noted_trans {d e f : Dp} (h : Noted d e) (h' : Noted e f) : Noted d f := Eq.trans h' h

theorem noted_ite (p : Prop) [Decidable p] {d e : Dp} (h : Noted d e) : Noted d (if p then e else d) := by
  split
  · exact h
  · rfl

theorem foldl_noted {α : Type} (f : Dp → α → Dp) (h : ∀ d a, Noted d (f d a)) (l : List α) (d : Dp) : Noted d (l.foldl f d) :=
  foldl_keeps withoutNotes f (fun d a => h d a) l d

theorem noted_sup {d e : Dp} (h : Noted d e) : e.sup = d.sup :=
  show (withoutNotes e).sup = (withoutNotes d).sup from congrArg Dp.sup h
theorem noted_glb {d e : Dp} (h : Noted d e) : e.glb = d.glb :=
  show (withoutNotes e).glb = (withoutNotes d).glb from congrArg Dp.glb h
theorem noted_sec {d e : Dp} (h : Noted d e) : e.sec = d.sec :=
  show (withoutNotes e).sec = (withoutNotes d).sec from congrArg Dp.sec h
theorem noted_lc {d e : Dp} (h : Noted d e) : e.lc = d.lc :=
  show (withoutNotes e).lc = (withoutNotes d).lc from congrArg Dp.lc h
theorem noted_mrg {d e : Dp} (h : Noted d e) : e.mrg = d.mrg :=
  show (withoutNotes e).mrg = (withoutNotes d).mrg from congrArg Dp.mrg h

theorem noted_msix (v : Nat) (d : Dp) : Noted d (msix v d) := by
  obtain ⟨hif, out, e⟩ := msix_frame v d
  rw [e]
  rfl

theorem noted_pmuCount (c : Ctl) (u code k : Nat) (d : Dp) : Noted d (pmuCount c u code k d) := by
  obtain ⟨pmu, hif, out, e⟩ := pmuCount_frame c u code k d
  rw [e]
  rfl

theorem noted_raise (src kind addr aux master access : Nat) (d : Dp) : Noted d (raise src kind addr aux master access d) := by
  obtain ⟨flt, e⟩ := raise_frame src kind addr aux master access d
  rw [e]
  rfl

theorem noted_eventRecord (c : Ctl) (sev text value : Nat) (d : Dp) : Noted d (eventRecord c sev text value d) := by
  unfold eventRecord writeEvent
  dsimp only
  generalize logInto _ _ = l
  refine noted_trans ?_ (noted_trans (noted_pmuCount ..) (noted_ite _ (noted_msix ..)))
  unfold setLog
  split <;> rfl

theorem noted_damaged (cls : Nat) (d : Dp) : Noted d (damaged cls d) := by
  refine noted_trans ?_ (noted_raise ..)
  rfl

theorem noted_pagesRead (pages : List Nat) (d : Dp) : Noted d (pagesRead pages d) := by
  refine noted_trans (foldl_noted _ (fun d p => ?_) _ _) (foldl_noted _ (fun d p => ?_) _ _)
  · split <;> rfl
  · split
    · refine noted_trans ?_ (noted_damaged ..)
      rfl
    · rfl

theorem noted_countRead (x : Ctl × Dp) (n : Nat) : Noted x.2 (countRead x n).2 := by
  unfold countRead
  extract_lets mended _ _ d
  have h : Noted x.2 d := by
    unfold d
    split <;> rfl
  split
  · exact h
  · exact noted_trans h (noted_damaged ..)

theorem noted_countReads (l : List Nat) (x : Ctl × Dp) : Noted x.2 (l.foldl countRead x).2 := by
  induction l generalizing x with
  | nil => exact noted_refl _
  | cons n l ih => exact noted_trans (noted_countRead x n) (ih _)

theorem noted_storeRead (x : Ctl × Dp) : Noted x.2 (storeRead x).2 := by
  have pages := noted_pagesRead (List.range 48) x.2
  unfold storeRead
  generalize pagesRead _ x.2 = d at pages ⊢
  exact noted_trans pages (noted_countReads _ (x.1, d))

/-- The reads of counters touch the damage marks alone. -/
theorem countReads_ctl (l : List Nat) (x : Ctl × Dp) : ∃ m, (l.foldl countRead x).1 = { x.1 with cntDamaged := m } := by
  induction l generalizing x with
  | nil => exact ⟨_, rfl⟩
  | cons n l ih =>
    obtain ⟨m, rest⟩ := ih (countRead x n)
    have first : ∃ m, (countRead x n).1 = { x.1 with cntDamaged := m } := by
      unfold countRead
      dsimp only
      split <;> exact ⟨_, rfl⟩
    obtain ⟨m', first⟩ := first
    exact ⟨m, rest.trans (by rw [first])⟩

/-- Reading the store touches the damage marks of the control state alone. -/
theorem storeRead_ctl (x : Ctl × Dp) : ∃ m, (storeRead x).1 = { x.1 with cntDamaged := m } := by
  unfold storeRead
  generalize pagesRead _ x.2 = d
  exact countReads_ctl _ (x.1, d)

/-- The repairs touch the records, the collector and the HBM's rows alone. -/
theorem applyRepairs_frame (all : Bool) (d : Dp) : ∃ pst flt hbm, applyRepairs all d = { d with pst := pst, flt := flt, hbm := hbm } := by
  unfold applyRepairs
  extract_lets todo rows done fresh r d1
  have raised : { fresh.foldl (fun d r => raise (0x20 + r.pc) 0x23 (hbmAddr r.bank r.row 0) 0 0x0C 0 d) d1 with flt := d1.flt } = d1 :=
    foldl_keeps (fun e : Dp => { e with flt := d1.flt }) _ (fun e r => by
      obtain ⟨flt, is⟩ := raise_frame (0x20 + r.pc) 0x23 (hbmAddr r.bank r.row 0) 0 0x0C 0 e
      rw [is]) fresh d1
  generalize fresh.foldl _ d1 = e at raised ⊢
  exact ⟨d1.pst, e.flt, d1.hbm, congrArg (fun x : Dp => { x with flt := e.flt }) raised⟩

/-- The begin of the fill leaves the supervisor, the steps, the security unit, the cache and the merge buffer. -/
theorem beginFill_frame (d : Dp) : ∃ pst flt hbm map mh free, beginFill d =
    { d with pst := pst, flt := flt, hbm := hbm, map := map, mh := mh, free := free } := by
  obtain ⟨pst, flt, hbm, e⟩ := applyRepairs_frame true d
  unfold beginFill
  dsimp only
  rw [e]
  exact ⟨_, _, _, _, _, _, rfl⟩

/-- The load of the security state (R384): the keys are those that RISE has not opened yet. -/
theorem loadSecurity_parts (c : Ctl) (d : Dp) : (loadSecurity c d).sup = d.sup ∧ (loadSecurity c d).glb = d.glb ∧
    (loadSecurity c d).lc = d.lc ∧ (loadSecurity c d).mrg = d.mrg ∧ (loadSecurity c d).sec.mediaKey = none ∧
    (loadSecurity c d).sec.userKek = none ∧ (loadSecurity c d).sec.placeKey = d.sec.placeKey := by
  have parts : ∃ pst sec, Noted { d with pst := pst, sec := sec } (loadSecurity c d) ∧ sec.mediaKey = none ∧ sec.userKek = none ∧
      sec.placeKey = d.sec.placeKey := by
    unfold loadSecurity
    extract_lets bad r0 r1 r1' r2 r st _ _ d1 d2
    have h2 : Noted d1 d2 := noted_ite _ (noted_eventRecord ..)
    exact ⟨d1.pst, d1.sec, noted_trans h2 (noted_ite _ (noted_eventRecord ..)), rfl, rfl, rfl⟩
  obtain ⟨pst, sec, h, key, kek, place⟩ := parts
  have sup := noted_sup h
  have glb := noted_glb h
  have lc := noted_lc h
  have mrg := noted_mrg h
  have sec' := noted_sec h
  rw [sec']
  exact ⟨sup, glb, lc, mrg, key, kek, place⟩

/-- A debug session's close leaves the supervisor and the steps. -/
theorem closeDebug_frame (d : Dp) : ∃ sec que, closeDebug d = { d with sec := sec, que := que } := by
  unfold closeDebug
  split
  · exact ⟨_, _, rfl⟩
  · exact ⟨_, _, rfl⟩

/-- The write that a loss of power interrupts touches the store alone. -/
theorem writesLost_frame (d : Dp) : ∃ pst, writesLost d = { d with pst := pst } := by
  unfold writesLost
  split
  · exact ⟨_, rfl⟩
  · split
    · exact ⟨_, rfl⟩
    · split
      · exact ⟨_, rfl⟩
      · exact ⟨_, rfl⟩

/-- What a wipe leaves of the supervisor, and that it empties the cache, the merge buffer and the keys. -/
theorem wipe_parts (warm : Bool) (d : Dp) : (wipe warm d).sup.mode = d.sup.mode ∧ (wipe warm d).sup.cause = d.sup.cause ∧
    (wipe warm d).lc.ways = [] ∧ (wipe warm d).mrg.entries = [] ∧ (wipe warm d).sec.placeKey = none ∧
    (wipe warm d).glb.riseStep = 0 := by
  obtain ⟨pst, e⟩ := writesLost_frame d
  unfold wipe
  rw [e]
  exact ⟨rfl, rfl, rfl, rfl, rfl, rfl⟩

/-- A warm RISE begins (R350, R360): at step 4, with the lock clear, nothing held and the keys gone. -/
theorem startWarmRise_parts (cause : BitVec 8) (c : Ctl) (d : Dp) :
    (∃ m, (startWarmRise cause c d).1 = { riseCtl true c with cntDamaged := m }) ∧ (startWarmRise cause c d).2.sup.mode = .rise ∧
      (startWarmRise cause c d).2.glb.riseStep = 3 ∧ (startWarmRise cause c d).2.lc.ways = [] ∧
      (startWarmRise cause c d).2.mrg.entries = [] ∧ (startWarmRise cause c d).2.sec.mediaKey = none ∧
      (startWarmRise cause c d).2.sec.userKek = none ∧ (startWarmRise cause c d).2.sec.placeKey = none := by
  unfold startWarmRise
  extract_lets x c1 d1
  have read : Noted (wipe true (setMode .rise cause (closeDebug d))) d1 :=
    noted_storeRead (riseCtl true c, wipe true (setMode .rise cause (closeDebug d)))
  obtain ⟨mode, -, ways, entries, place, -⟩ := wipe_parts true (setMode .rise cause (closeDebug d))
  obtain ⟨-, -, sup⟩ := setMode_parts .rise cause (closeDebug d)
  rw [sup] at mode
  have sup1 := noted_sup read
  have lc1 := noted_lc read
  have mrg1 := noted_mrg read
  have sec1 := noted_sec read
  have lock : ∃ m, c1 = { riseCtl true c with cntDamaged := m } := by
    unfold c1 x
    exact storeRead_ctl (riseCtl true c, wipe true (setMode .rise cause (closeDebug d)))
  clear_value d1 c1
  clear x
  generalize hf : ({ d1 with
    glb := { d1.glb with riseStep := 3 }
    jrn := { d1.jrn with
      counted := some 2
      kept := if d1.jrn.lastValid then
          some (d1.jrn.lastClean, d1.jrn.lastCause, d1.jrn.lastUs, d1.jrn.lastStripes) else d1.jrn.kept }
    fab := { d1.fab with vread := d.fab.vread, setPoint := d.fab.setPoint } } : Dp) = f
  obtain ⟨pst, flt, hbm, map, mh, free, filled⟩ := beginFill_frame f
  obtain ⟨supL, glbL, lcL, mrgL, key, kek, placeL⟩ := loadSecurity_parts c1 (seedLfsrs (beginFill f))
  refine ⟨lock, ?_, ?_, ?_, ?_, key, kek, ?_⟩
  · show (loadSecurity c1 (seedLfsrs (beginFill f))).sup.mode = _
    rw [supL, filled, ← hf]
    show d1.sup.mode = _
    rw [sup1, mode]
  · show (loadSecurity c1 (seedLfsrs (beginFill f))).glb.riseStep = _
    rw [glbL, filled, ← hf]
    rfl
  · show (loadSecurity c1 (seedLfsrs (beginFill f))).lc.ways = _
    rw [lcL, filled, ← hf]
    show d1.lc.ways = _
    rw [lc1, ways]
  · show (loadSecurity c1 (seedLfsrs (beginFill f))).mrg.entries = _
    rw [mrgL, filled, ← hf]
    show d1.mrg.entries = _
    rw [mrg1, entries]
  · show (loadSecurity c1 (seedLfsrs (beginFill f))).sec.placeKey = _
    rw [placeL, filled, ← hf]
    show d1.sec.placeKey = _
    rw [sec1, place]

end Sys2Proof.Laws
end
section
/-! PROOF. Debug and JTAG (R400 to R407), and the supervisor's power-up (R345, R349). -/

namespace Sys2Proof.Laws

open Sys2Proof.Machine

/-- An open session in service: every operation of the port is carried out (R402). -/
theorem debugAccess_serving {op : DbgOp} {c : Ctl} {d : Dp} (up : jtagUp d = true) (open_ : dbgState c d ≠ .sealed)
    (live : serving d = true) : debugAccess op c d = debugFull op c d := by
  have modes : d.sup.mode ≠ .off ∧ d.sup.mode ≠ .dormant ∧ d.sup.mode ≠ .rise ∧ d.sup.mode ≠ .drain := by
    refine ⟨?_, ?_, ?_, ?_⟩ <;> intro h <;> simp [serving, h] at live
  obtain ⟨off, dormant, rise, drain⟩ := modes
  rw [debugAccess, up, if_neg (by simp [off]), if_neg (by simp [dormant, rise]), if_neg open_, if_neg drain, if_pos live]

/-- A session that is to be closed stays so while its step of DBG_RETURN is taken. -/
theorem returnAdvance_waits {c : Ctl} {d : Dp} (waits : d.acc.pend ≠ []) : returnAdvance c d = (c, d) :=
  if_neg (by simp [waits])

/-- The commit of DBG_RETURN (R406): the fuse is blown, and a warm RISE begins with the keys gone. -/
theorem commitReturn_parts (c : Ctl) (d : Dp) : (commitReturn c d).1.returnedFuse = true ∧ (commitReturn c d).2.sup.mode = .rise ∧
    (commitReturn c d).2.sec.mediaKey = none ∧ (commitReturn c d).2.sec.placeKey = none ∧
    (commitReturn c d).2.sec.userKek = none ∧ (commitReturn c d).2.lc.ways = [] ∧ (commitReturn c d).2.mrg.entries = [] := by
  unfold commitReturn
  extract_lets d1 _ d2 d3
  obtain ⟨⟨m, ctl⟩, mode, -, ways, entries, media, user, place⟩ :=
    startWarmRise_parts ((Config.freeValue 60 d3.free).extractLsb' 0 8) { c with returnedFuse := true } (bump d3)
  exact ⟨by rw [ctl]; rfl, mode, media, place, user, ways, entries⟩

/-- Settles O14. -/
theorem debugAndJtagAct : Obligations.DebugAndJtagAct := by
  unfold Obligations.DebugAndJtagAct
  refine ⟨fun s => ⟨fun n hand ok drawn => ?_, fun hand ok => ?_, fun hand bad => ?_, rfl, fun hand => ?_,
    fun hand guard zero first opened live waits => ?_, fun hand second live answered => ⟨_, rfl, ?_⟩⟩,
    fun s => ⟨rfl, fun up => ⟨?_, ?_, fun ok => ?_, fun bad => ?_⟩, fun on => ?_⟩,
    fun s op up notOff => ⟨fun open_ live unlocked left => ⟨fun mp is small runs => ?_, fun mp is small halted => ?_, fun line sec is => ?_,
      fun i v is => ?_⟩, fun line sec is open_ live secured => ?_, fun off v is drain open_ => ?_, fun mode => ?_⟩⟩
  · change execDbgChallenge s = _
    refine hand_step hand ?_
    rw [ok, drawn]
    rfl
  · change execDbgResponse s = _
    exact hand_step hand (if_pos ok)
  · change execDbgResponse s = _
    refine hand_step hand ((if_neg ?_).trans rfl)
    rw [bad]
    exact Bool.false_ne_true
  · change execDbgClose s = _
    exact hand_step hand rfl
  · change execDbgReturn s = _
    have begun : returnCmd s.ctl s.dp = returnAdvance s.ctl { s.dp with sec := { s.dp.sec with erase := true, retStep := 1 } } := by
      rw [returnCmd, hand, guard, zero, live, if_neg (by decide), if_neg first, if_neg (by decide), if_neg (by decide),
        if_neg (by simp [opened])]
    rw [execDbgReturn, onBoth, begun, returnAdvance_waits (by exact waits)]
    rfl
  · have goes : returnCmd s.ctl s.dp = commitReturn s.ctl s.dp := by
      rw [returnCmd, hand, if_neg (by decide), if_pos second, returnAdvance, if_pos (by simp [second, hand, live, answered])]
    obtain ⟨fuse, mode, media, place, user, ways, entries⟩ := commitReturn_parts s.ctl s.dp
    rw [← goes] at fuse mode media place user ways entries
    exact ⟨fuse, mode, media, place, user, ways, entries⟩
  · change execIdcode s = _
    exact onDp_step (if_pos up)
  · change execSamplePreload s = _
    exact onDp_step (if_pos up)
  · change execExtest s = _
    refine onDp_step ?_
    rw [up, ok]
    rfl
  · change execExtest s = _
    refine onDp_step ?_
    rw [up, bad]
    rfl
  · change execExtestExit s = _
    exact onDp_step (if_pos on)
  · subst is
    have run : debugRun 2 mp s.dp = setMp mp 2 s.dp := by
      rw [debugRun, if_neg (by omega)]
      exact if_pos ⟨rfl, runs⟩
    rw [exec_dbgAccess, debugAccess_serving up open_ live, debugFull, run]
    rfl
  · subst is
    have run : debugRun 0 mp s.dp = setMp mp 0 s.dp := by
      rw [debugRun, if_neg (by omega)]
      exact (if_neg (by simp)).trans (if_pos ⟨rfl, halted⟩)
    rw [exec_dbgAccess, debugAccess_serving up open_ live, debugFull, run]
    rfl
  · subst is
    rw [exec_dbgAccess, debugAccess_serving up open_ live, debugFull, hostDataRead, if_neg (by simp [unlocked, left])]
    rfl
  · subst is
    rw [exec_dbgAccess, debugAccess_serving up open_ live]
    rfl
  · subst is
    rw [exec_dbgAccess, debugAccess_serving up open_ live, debugFull, hostDataRead, if_pos secured]
    rfl
  · subst is
    have denied : debugAccess (.writeReg off v) s.ctl s.dp = (s.ctl, deny s.dp) := by
      rw [debugAccess, up, drain, if_neg (by decide), if_neg (by decide), if_neg open_]
      rfl
    rw [exec_dbgAccess, denied]
    rfl
  · rw [exec_dbgAccess, debugAccess_of_dormant_or_rise op s.ctl up mode]
    rfl

/-- A fault message leaves the store. -/
theorem raise_pst (src kind addr aux master access : Nat) (d : Dp) : (raise src kind addr aux master access d).pst = d.pst := by
  obtain ⟨flt, is⟩ := raise_frame src kind addr aux master access d
  rw [is]

/-- Damage met corrects nothing. -/
theorem damaged_corrected (cls : Nat) (d : Dp) : (damaged cls d).pst.corrected = d.pst.corrected := by
  rw [damaged, raise_pst]

/-- The pages read that a decode corrects are counted (R300). -/
theorem pagesRead_corrected (pages : List Nat) (d : Dp) :
    (pagesRead pages d).pst.corrected = d.pst.corrected + (pages.filter (pageMends d)).length := by
  have damages : ∀ e : Dp, (meetDamaged pages e).pst.corrected = e.pst.corrected :=
    foldl_keeps (fun e : Dp => e.pst.corrected) _ (fun e p => by
      split
      · exact damaged_corrected ..
      · rfl) pages
  rw [pagesRead, damages]
  clear damages
  induction pages generalizing d with
  | nil => rfl
  | cons p pages ih =>
    rw [List.foldl_cons]
    by_cases mends : pageMends d p = true
    · rw [if_pos mends, ih, List.filter_cons_of_pos mends, List.length_cons]
      exact Nat.add_right_comm ..
    · rw [if_neg mends, ih, List.filter_cons_of_neg mends]

/-- Whether a decode corrects a slot of a counter. -/
def counterMends (c : Ctl) (n : Nat) : Bool :=
  (List.range 64).any fun i => (readCount (cntSlot c n i)).any fun r => decide (r ≠ cntSlot c n i)

/-- The read of a counter counts one that a decode corrects, and leaves the slots. -/
theorem countRead_corrected (x : Ctl × Dp) (n : Nat) : (countRead x n).1.cnt = x.1.cnt ∧
    (countRead x n).2.pst.corrected = x.2.pst.corrected + if counterMends x.1 n then 1 else 0 := by
  refine ⟨countRead_cnt x n, ?_⟩
  unfold countRead
  extract_lets mended _ _ d
  have count : d.pst.corrected = x.2.pst.corrected + if counterMends x.1 n then 1 else 0 := by
    unfold d
    show _ = _ + if mended = true then 1 else 0
    split <;> rfl
  rw [← count]
  split
  · rfl
  · exact damaged_corrected 7 d

/-- The counters read that a decode corrects are counted (R300). -/
theorem countReads_corrected (l : List Nat) (x : Ctl × Dp) :
    (l.foldl countRead x).2.pst.corrected = x.2.pst.corrected + (l.filter (counterMends x.1)).length := by
  induction l generalizing x with
  | nil => rfl
  | cons n l ih =>
    obtain ⟨slots, count⟩ := countRead_corrected x n
    have same : counterMends (countRead x n).1 = counterMends x.1 := by
      unfold counterMends cntSlot
      rw [slots]
    rw [List.foldl_cons, ih, same, count]
    by_cases mends : counterMends x.1 n = true
    · rw [if_pos mends, List.filter_cons_of_pos mends, List.length_cons]
      omega
    · rw [if_neg mends, List.filter_cons_of_neg mends]
      rfl

/-- The records that had not been written when power was lost are put back in the store's records alone. -/
theorem recordBack_frame (page : Nat) (d : Dp) : ∃ sec dev, recordBack page d = { d with pst := { d.pst with sec := sec, dev := dev } } := by
  unfold recordBack
  split
  · split
    · exact ⟨_, _, rfl⟩
    · exact ⟨_, _, rfl⟩
  · exact ⟨_, _, rfl⟩

/-- What the changed bits and the records put back leave: all but the store, and the corrections counted. -/
def besideStore (d : Dp) : Dp × Nat := ({ d with pst := Pst.reset }, d.pst.corrected)

theorem besideStore_parts {d e : Dp} (h : besideStore e = besideStore d) :
    e.sup = d.sup ∧ e.glb = d.glb ∧ e.pst.corrected = d.pst.corrected :=
  ⟨congrArg (fun y : Dp × Nat => y.1.sup) h, congrArg (fun y : Dp × Nat => y.1.glb) h, congrArg Prod.snd h⟩

theorem recordBack_besideStore (l : List Nat) (d : Dp) :
    besideStore (l.foldl (fun d i => recordBack (16 + i) d) d) = besideStore d :=
  foldl_keeps besideStore _ (fun e i => by
    obtain ⟨sec, dev, is⟩ := recordBack_frame (16 + i) e
    rw [is]
    rfl) l d

theorem bitsChange_besideStore (errs : List PstErr) (x : Ctl × Dp) :
    besideStore (errs.foldl bitsChange x).2 = besideStore x.2 ∧ (errs.foldl bitsChange x).1.cfgLocked = x.1.cfgLocked := by
  have all := foldl_keeps (fun y : Ctl × Dp => (besideStore y.2, y.1.cfgLocked)) bitsChange (fun y e => by cases e <;> rfl) errs x
  exact ⟨congrArg Prod.fst all, congrArg Prod.snd all⟩

/-- The datapath at the start of a RISE from OFF (R349), before the store is read. -/
def riseFrom (d : Dp) : Dp :=
  let d1 := wipe false d
  seedLfsrs { d1 with sup := { d1.sup with
    mode := .rise, cause := d.sup.startCause, restart := false, upActive := true, railsUp := false, enabled := 0
    faulty := 0, deadline := false } }

theorem riseFrom_parts (d : Dp) : (riseFrom d).sup.mode = .rise ∧ (riseFrom d).sup.cause = d.sup.startCause ∧
    (riseFrom d).sup.upActive = true ∧ (riseFrom d).sup.enabled = 0 ∧ (riseFrom d).glb.riseStep = 0 ∧
    (riseFrom d).pst.corrected = 0 := by
  obtain ⟨pst, e⟩ := writesLost_frame d
  unfold riseFrom wipe
  rw [e]
  exact ⟨rfl, rfl, rfl, rfl, rfl, rfl⟩

/-- What RISE reads first: the state it starts from, with the bits that changed, and the records put back. -/
def riseReads (errs : List PstErr) (c : Ctl) (d : Dp) : Ctl × Dp :=
  let x := errs.foldl bitsChange (riseCtl false c, riseFrom d)
  (x.1, (List.range 32).foldl (fun d i => recordBack (16 + i) d) x.2)

theorem riseReads_besideStore (errs : List PstErr) (c : Ctl) (d : Dp) :
    besideStore (riseReads errs c d).2 = besideStore (riseFrom d) ∧ (riseReads errs c d).1.cfgLocked = false := by
  unfold riseReads
  generalize riseFrom d = e
  obtain ⟨data, lock⟩ := bitsChange_besideStore errs (riseCtl false c, e)
  dsimp only
  rw [recordBack_besideStore, data]
  exact ⟨rfl, lock⟩

/-- A RISE that may start (R349). -/
theorem riseStarts_may {errs : List PstErr} {c : Ctl} {d : Dp} (may : mayRise c d = true) :
    riseStarts errs c d = (cntInc 1 (storeRead (riseReads errs c d)).1, (storeRead (riseReads errs c d)).2) := by
  unfold riseStarts riseReads riseFrom
  dsimp only
  rw [if_neg (by simp [may])]

/-- Settles O32. -/
theorem supervisorRaisesTheRails : Obligations.SupervisorRaisesTheRails := by
  unfold Obligations.SupervisorRaisesTheRails
  intro s
  refine ⟨fun t31 unpowered => ?_, fun l may => ?_, ?_, fun i small up used low good m is => ?_,
    fun i e p small up on late he hp good all => ?_⟩
  · have applied : auxApplied t31 s.ctl s.dp = ({ riseCtl false s.ctl with cr := [] },
      { wipe false s.dp with
        sup := { Sup.reset with thermLatch := tWarn ≤ t31.toInt, thermAuxOnly := tWarn ≤ t31.toInt }
        sec := { (wipe false s.dp).sec with userLeft := 5, masterLeft := 5 } }) := by
      rw [auxApplied, unpowered]
      rfl
    change ∃ t, execVddAuxApplied t31 s = .next t ∧ _
    rw [execVddAuxApplied, onBoth, applied]
    refine ⟨_, rfl, rfl, rfl, rfl, rfl, rfl, rfl, rfl, rfl, fun none_ => ?_⟩
    show (writesLost s.dp).pst.slots = _
    rw [writesLost, none_]
  · change ∃ t x, execRiseStart l s = .next t ∧ _
    rw [execRiseStart, onBoth, riseStarts_may may]
    have slots : l = [] → (riseReads l s.ctl s.dp).1.cnt = s.ctl.cnt := fun none_ => by
      subst none_
      rfl
    obtain ⟨mode, cause, up, enabled, step, corrected⟩ := riseFrom_parts s.dp
    obtain ⟨beside, lock⟩ := riseReads_besideStore l s.ctl s.dp
    obtain ⟨besideSup, besideGlb, besideCorrected⟩ := besideStore_parts beside
    have read := noted_storeRead (riseReads l s.ctl s.dp)
    have sup : (storeRead (riseReads l s.ctl s.dp)).2.sup = (riseFrom s.dp).sup :=
      (noted_sup read).trans besideSup
    have glb : (storeRead (riseReads l s.ctl s.dp)).2.glb = (riseFrom s.dp).glb :=
      (noted_glb read).trans besideGlb
    obtain ⟨m, ctl⟩ := storeRead_ctl (riseReads l s.ctl s.dp)
    have none_ : (riseReads l s.ctl s.dp).2.pst.corrected = 0 := besideCorrected.trans corrected
    clear beside read
    refine ⟨_, riseReads l s.ctl s.dp, rfl, ?_⟩
    generalize riseReads l s.ctl s.dp = x at *
    generalize storeRead x = y at *
    refine ⟨rfl, rfl, none_, slots, ?_, ?_, ?_, ?_, ?_, ?_⟩
    · show (cntInc 1 y.1).cfgLocked = false
      rw [cntInc, cntWrite_cfgLocked, ctl]
      exact lock
    · exact (congrArg Sup.mode sup).trans mode
    · exact (congrArg Sup.cause sup).trans cause
    · exact (congrArg Sup.upActive sup).trans up
    · exact (congrArg Sup.enabled sup).trans enabled
    · exact (congrArg Glb.riseStep glb).trans step
  · unfold storeRead
    rw [countReads_corrected, pagesRead_corrected]
    rfl
  · change execRailOnStep i s = _
    refine onDp_step ?_
    have goes : ¬ ((!s.dp.sup.upActive || decide (12 ≤ i) || !railUsed s.ctl i || s.dp.sup.psEn.getLsbD i) = true) := by
      rw [up, used, low]
      simp
      omega
    rw [railOn, if_neg goes, ← is]
    exact if_neg (not_not.2 good)
  · change execPowerGoodWindowEnd i true s = _
    refine onDp_step ?_
    have goes : ¬ ((!s.dp.sup.upActive || decide (12 ≤ i) || !s.dp.sup.psEn.getLsbD i || s.dp.sup.enabled.getLsbD i) = true) := by
      rw [up, on, late]
      simp
      omega
    rw [windowEnds, if_neg goes, if_pos rfl, ← he, ← hp, checkRails, if_neg (not_not.2 good)]
    exact if_pos (Bool.and_eq_true_iff.2 ⟨up, all⟩)

end Sys2Proof.Laws
end
section
/-! PROOF. Register reads (R9, R430, R431, R433, R434), and a refutation: the write that clears the monitor's counters also clears its
counts from the other channel units (`oth`), which the claim leaves as they were. -/

namespace Sys2Proof.Laws

open Sys2Proof.Machine

/-- A 4-byte read of a register's low word by the host (R9, R430, R431). -/
theorem pathRead_lowWord {c : Ctl} {d : Dp} {off : Nat} {h : RegHit} (up : portOpen .host d = true) (aligned : off % 4 = 0)
    (inside : off < 0x2004000) (found : findReg off = some h) (low : h.word = 0) :
    pathRead .host off 4 c d = (c, emit (.readData [peek c d true off])
      (if latching h = false then readClear h.reg.name d
       else setLatch .host (off + 4) (peek c d true (off + 4)) (readClear h.reg.name d))) := by
  have live : liveOff off = off := if_neg (by omega)
  have queue : inQueueBar off = false := by
    unfold inQueueBar
    simp
    omega
  have word : readWord c .host off d = (peek c d true off, if latching h = false then readClear h.reg.name d
      else setLatch .host (off + 4) (peek c d true (off + 4)) (readClear h.reg.name d)) := by
    rw [readWord, live, found]
    dsimp only
    rw [if_pos rfl, low]
    split <;> rfl
  have access : readAccess c .host off 4 d = ([peek c d true off], if latching h = false then readClear h.reg.name d
      else setLatch .host (off + 4) (peek c d true (off + 4)) (readClear h.reg.name d)) := by
    rw [readAccess, if_pos ⟨rfl, aligned⟩, word]
  unfold pathRead
  dsimp only
  rw [if_pos up, queue, if_neg Bool.false_ne_true, access]

/-- Settles O15. -/
theorem readsReturnClearAndLatch : Obligations.ReadsReturnClearAndLatch := by
  unfold Obligations.ReadsReturnClearAndLatch
  refine ⟨fun s off h up aligned inside found low => ⟨fun plain => ?_, fun wide => ?_⟩,
    fun s n off d1 on is => ⟨fun some_ few all => ?_, fun some_ few out => ?_, fun bad => ?_, ?_, ?_⟩⟩
  · change execRcRead .host off 4 s = _
    rw [execRcRead, onBoth, pathRead_lowWord up aligned inside found low, if_pos plain]
    rfl
  · change execLowWordRead .host off s = _
    rw [execLowWordRead, onBoth, pathRead_lowWord up aligned inside found low, if_neg (by rw [wide]; decide)]
    rfl
  · change execSidebandRegisterRead n off s = _
    refine onDp_step ((if_neg on).trans ?_)
    rw [← is, if_neg (by omega), all]
    rfl
  · change execSidebandRegisterRead n off s = _
    refine onDp_step ((if_neg on).trans ?_)
    rw [← is, if_neg (by omega), out]
    rfl
  · change execSidebandRegisterRead n off s = _
    refine onDp_step ((if_neg on).trans ?_)
    rw [← is]
    exact if_pos (by omega)
  · change execBlockTimeout true n s = _
    exact onDp_step (if_neg on)
  · change execBlockTimeout false n s = _
    exact onDp_step (if_neg on)

/-- In service with the link up, another channel unit having counted one outcome event (R330). -/
def countedElsewhere : State where
  ctl := Ctl.reset
  dp := { Dp.reset with
    sup := { Sup.reset with mode := .serve }
    hif := { Hif.reset with rate := 6 }
    pmu := { Dp.reset.pmu with oth := [(0, 1)] } }
  pending := []

/-- PMU_CLEAR forgets that count too. -/
theorem countedElsewhere_cleared : (writePmuCtl (pmuFrozen countedElsewhere.ctl) 2 countedElsewhere.ctl countedElsewhere.dp).2.pmu.oth = [] := by
  decide +kernel

/-- Refutes O17: PMU_CLEAR also empties the counts from the other channel units, which the claim keeps. -/
theorem not_registerWritesAct : ¬ Obligations.RegisterWritesAct := by
  unfold Obligations.RegisterWritesAct
  intro claim
  obtain ⟨-, acts, -⟩ := claim
  obtain ⟨-, -, -, -, ⟨t, step, -, data, -⟩, -⟩ := acts countedElsewhere (by decide) (by decide)
  have met : t.dp.pmu.oth = [(0, 1)] := by rw [data]; rfl
  injection step with step
  rw [← step] at met
  exact absurd (countedElsewhere_cleared.symm.trans met) (by decide)

end Sys2Proof.Laws
end
section
/-! PROOF. The command queues: a bad word rewinds its packet (R274, R276), the control register (R281, R289), and the take-up of the next
command (R279, R280, R287). -/

namespace Sys2Proof.Laws

open Sys2Proof.Machine

/-- A bad packet with room for its record (R274, R276). -/
def rewound (status code : Nat) (q : Queue) : Queue :=
  { q with
    wwp := q.mark, isOpen := false, have_ := 0, lastBad := code, overrun := q.overrun || code = 5
    bad := q.bad ++ [{ status := status, opcode := q.header.extractLsb' 48 16, tag := q.header.extractLsb' 16 16,
                       quiet := q.header.getLsbD 32, words := q.have_ }] }

theorem rewindBad_room {q : Queue} (status code : Nat) (room : q.bad.length < 4) : rewindBad status code q = rewound status code q :=
  if_pos room

/-- A write of a queue's window that makes its packet bad. -/
theorem onQueue_rewound {c : Ctl} {d : Dp} {k status code : Nat} {q : Queue} {f : Queue → Queue} (isOpen : windowOpenQ c d k = true)
    (hq : qOf d k = q) (room : q.bad.length < 4) (hf : f q = rewindBad status code q) :
    onQueue k f c d = modQ k (rewound status code) d := by
  have queue : modQ k (fun _ => rewound status code q) d = modQ k (rewound status code) d := modQ_congr (by rw [hq])
  rw [onQueue_open isOpen hq (hf.trans (rewindBad_room status code room)), if_neg (by exact not_not.2 rfl), queueWrote,
    if_pos (by simp [rewound]), queue]

/-- The faults of a data word, with their statuses and codes (R274). -/
theorem takeData_bad {w : QWord} {sizeOk ep : Bool} {status code : Nat} {q : Queue} (isOpen : q.isOpen = true)
    (fault : ep = true ∧ status = 0x10 ∧ code = 1 ∨ ep = false ∧ w.parityOk = false ∧ status = 0x11 ∧ code = 2 ∨
      ep = false ∧ w.parityOk = true ∧ (sizeOk = false ∨ hdrWords q.header < q.have_) ∧ status = 0x12 ∧ code = 3 ∨
      ep = false ∧ w.parityOk = true ∧ sizeOk = true ∧ q.have_ ≤ hdrWords q.header ∧ queueFull q = true ∧ status = 0x14 ∧ code = 5) :
    takeData w sizeOk ep q = rewindBad status code q := by
  rw [takeData, isOpen, wordFault]
  rcases fault with ⟨rfl, rfl, rfl⟩ | ⟨rfl, parity, rfl, rfl⟩ | ⟨rfl, parity, size, rfl, rfl⟩ |
    ⟨rfl, parity, rfl, wanted, full, rfl, rfl⟩
  · rfl
  · rw [parity]
    rfl
  · rw [parity]
    cases sizeOk with
    | false => rfl
    | true => exact if_pos (by simpa using size)
  · rw [parity]
    exact (if_neg (Nat.not_le.2 (Nat.lt_succ_of_le wanted)) : (if hdrWords q.header + 1 ≤ q.have_ then _ else _) = _).trans (if_pos full)

/-- The faults of an END word. -/
theorem takeEnd_bad {w : QWord} {sizeOk ep : Bool} {status code : Nat} {q : Queue} (isOpen : q.isOpen = true)
    (fault : ep = true ∧ status = 0x10 ∧ code = 1 ∨ ep = false ∧ w.parityOk = false ∧ status = 0x11 ∧ code = 2 ∨
      ep = false ∧ w.parityOk = true ∧ (sizeOk = false ∨ q.have_ ≠ hdrWords q.header) ∧ status = 0x12 ∧ code = 3 ∨
      ep = false ∧ w.parityOk = true ∧ sizeOk = true ∧ q.have_ = hdrWords q.header ∧ queueFull q = true ∧ status = 0x14 ∧ code = 5) :
    takeEnd w sizeOk ep q = rewindBad status code q := by
  rw [takeEnd, isOpen, wordFault]
  rcases fault with ⟨rfl, rfl, rfl⟩ | ⟨rfl, parity, rfl, rfl⟩ | ⟨rfl, parity, size, rfl, rfl⟩ |
    ⟨rfl, parity, rfl, wanted, full, rfl, rfl⟩
  · rfl
  · rw [parity]
    rfl
  · rw [parity]
    cases sizeOk with
    | false => rfl
    | true => exact if_pos (by simpa using size)
  · rw [parity]
    exact (if_neg (not_not.2 wanted)).trans (if_pos full)

/-- The control register of the queues (R289). -/
def queCtlReg : RegDef := ⟨.queCtl, 0x400000, [(0x1000, 64)], 1, [⟨1, 1, .wo, 0⟩, ⟨0, 0, .rw, 0⟩]⟩

theorem queCtlReg_mem : queCtlReg ∈ regTable := by decide

/-- Where the control register of a queue is found. -/
theorem findReg_queCtl {k : Nat} (small : k < 64) : findReg (queOff k 0) = some ⟨queCtlReg, k, 0, 0⟩ := by
  have found := registerInstancesDoNotOverlap queCtlReg queCtlReg_mem k 0 0 ⟨small, by decide, by decide⟩
  exact found

/-- The enable bit of a queue after a write of its control register. -/
theorem loadWord_queCtl (locked : Bool) (k : Nat) (old data : Word) :
    (loadWord locked ⟨queCtlReg, k, 0, 0⟩ old data).getLsbD 0 = data.getLsbD 0 := by
  have enable : (⟨0, 0, .rw, 0⟩ : Fld) ∈ queCtlReg.flds := by decide
  have bit : (fieldMask 0 ⟨0, 0, .rw, 0⟩).getLsbD 0 = true := by decide
  rw [loadWord_getLsbD_of_loads (h := ⟨queCtlReg, k, 0, 0⟩) old data queCtlReg_mem enable rfl bit]
  show (((data &&& fieldMask 0 ⟨0, 0, .rw, 0⟩).toNat / 2 ^ 0) * 2 ^ 0).testBit 0 = _
  rw [Nat.pow_zero, Nat.div_one, Nat.mul_one, BitVec.testBit_toNat, BitVec.getLsbD_and, bit, Bool.and_true]

/-- What a write of a queue's control register does: its enable bit loads, its reset bit acts, and a queue newly enabled starts its
completion ring anew. -/
theorem writeHit_queCtl (off k : Nat) (w : Word) (c : Ctl) (d : Dp) : writeHit off ⟨queCtlReg, k, 0, 0⟩ w c d =
    (loadReg off ⟨queCtlReg, k, 0, 0⟩ w c,
      if queEn c k = false ∧ queEn (loadReg off ⟨queCtlReg, k, 0, 0⟩ w c) k = true then
        restartRing k (if w.getLsbD 1 then resetQueue k d else d)
      else if w.getLsbD 1 then resetQueue k d else d) := by
  have acts : ∀ c, actReg ⟨queCtlReg, k, 0, 0⟩ w c d = if w.getLsbD 1 then resetQueue k d else d := fun _ => rfl
  have own : ¬ (queCtlReg.name = .pstCntDamaged) := by decide
  unfold writeHit
  dsimp only
  rw [acts, if_neg own]
  have name : queCtlReg.name = .queCtl := rfl
  simp only [name, true_and]

/-- A write of a queue's control register while the host's writes are taken (R281, R289). -/
theorem queCtl_written {s : State} {k : Nat} (small : k < 64) (up : portOpen .host s.dp = true) (taken : writesHeld s.ctl s.dp = false)
    (data : BitVec 64) : ∃ c d, writeAccess .host (queOff k 0) 4 data s.ctl s.dp = (c, d) ∧ queEn c k = data.getLsbD 0 ∧
      (∀ off, off ≠ queOff k 0 → crGet c off = crGet s.ctl off) ∧
      d = (if queEn s.ctl k = false ∧ data.getLsbD 0 = true then restartRing k (if data.getLsbD 1 then resetQueue k s.dp else s.dp)
        else if data.getLsbD 1 then resetQueue k s.dp else s.dp) := by
  have plain : inMsix (queOff k 0) = false ∧ inCxl (queOff k 0) = false ∧ ¬ 0x2004000 ≤ queOff k 0 ∧ queOff k 0 % 4 = 0 := by
    unfold inMsix inCxl queOff
    refine ⟨?_, ?_, by omega, by omega⟩ <;> simp <;> omega
  obtain ⟨msix, cxl, low, aligned⟩ := plain
  have written : writeAccess .host (queOff k 0) 4 data s.ctl s.dp =
      writeHit (queOff k 0) ⟨queCtlReg, k, 0, 0⟩ (data.extractLsb' 0 32) s.ctl s.dp := by
    rw [writeAccess, up, taken, if_neg (by decide), if_neg (by simp), if_pos ⟨rfl, aligned⟩, writeWord, msix, cxl, if_neg low,
      findReg_queCtl small]
    rfl
  have bit : ∀ i < 32, (data.extractLsb' 0 32).getLsbD i = data.getLsbD i := fun i hi => by
    rw [BitVec.getLsbD_extractLsb', Nat.zero_add, decide_eq_true hi, Bool.true_and]
  have load : loadReg (queOff k 0) ⟨queCtlReg, k, 0, 0⟩ (data.extractLsb' 0 32) s.ctl = crSet s.ctl (queOff k 0)
      (loadWord s.ctl.cfgLocked ⟨queCtlReg, k, 0, 0⟩ (crGet s.ctl (queOff k 0)) (data.extractLsb' 0 32)) := rfl
  rw [writeHit_queCtl, bit 1 (by decide)] at written
  have enabled : queEn (loadReg (queOff k 0) ⟨queCtlReg, k, 0, 0⟩ (data.extractLsb' 0 32) s.ctl) k = data.getLsbD 0 := by
    rw [load, queEn, rb, crGet_crSet, loadWord_queCtl, bit 0 (by decide)]
  rw [enabled] at written
  exact ⟨_, _, written, enabled, fun off other => (congrArg (crGet · off) load).trans (crGet_crSet_ne _ _ _ _ other), rfl⟩

/-- No bad packet, nothing to post. -/
theorem postBad_none {c : Ctl} {d : Dp} {k : Nat} (good : (qOf d k).bad = []) (n : Nat) : postBad c k n d = d := by
  cases n with
  | zero => rfl
  | succ n => rw [postBad, good]

/-- A packet at the head of a queue that is ready and has no bad packet to report (R279, R285). -/
theorem visit_packet {c : Ctl} {d : Dp} {k : Nat} {h : BitVec 64} {ps : List (BitVec 64)} (small : k < 64)
    (ready : memberReady c d k = true) (good : (qOf d k).bad = []) (head : headPacket (qOf d k) = h :: ps) :
    visit c none k d = takeCommand c
      { queue := some k, opcode := h.extractLsb' 48 16, tag := h.extractLsb' 16 16, quiet := h.getLsbD 32, params := ps }
      (refusedAtOnce (h.extractLsb' 33 7 ≠ 0 || h.extractLsb' 0 16 ≠ 0) false true (h.extractLsb' 48 16).toNat ps)
      (pmuCount c 23 0x10 1 (modQ k (fun q => { q with crp := q.crp + BitVec.ofNat 11 (ps.length + 1) })
        { d with que := { d.que with ring := (k + 1) % 65 } })) := by
  have queue : k ≠ 64 := by omega
  have same : qOf { d with que := { d.que with ring := (k + 1) % 65 } } k = qOf d k := rfl
  have waits : (decide ((qOf d k).cwp ≠ (qOf d k).crp) && !ringFull c d k) = true := by
    rw [memberReady, if_neg queue] at ready
    split at ready
    · cases ready
    · simp only [good, ne_eq, not_true_eq_false, decide_false, Bool.or_false, Bool.and_eq_true] at ready
      simp [ready]
  unfold visit
  dsimp only
  rw [if_neg queue, postBad_none (by rw [same, good])]
  refine (if_pos waits).trans ?_
  unfold takePacket
  dsimp only
  rw [same, head]
  rfl

/-- The member of the ring at which it stands, where that is ready (R279). -/
theorem takesNext_here {ecc : Option (Nat × Bool)} {c : Ctl} {d : Dp} {k : Nat} (takes : takesUp d = true) (ring : d.que.ring = k)
    (small : k < 65) (ready : memberReady c d k = true) : takesNext ecc c d = visit c ecc k d := by
  have at_ : (d.que.ring + 0) % 65 = k := by omega
  have first : (List.range 65).find? (fun i => memberReady c d ((d.que.ring + i) % 65)) = some 0 := by
    rw [List.range_succ_eq_map]
    exact List.find?_cons_of_pos (by rw [at_]; exact ready)
  rw [takesNext, takes, if_neg (by decide), first]
  exact congrArg (visit c ecc · d) at_

/-- Settles O7. -/
theorem queuesRewindResetAndAreServed : Obligations.QueuesRewindResetAndAreServed := by
  unfold Obligations.QueuesRewindResetAndAreServed
  refine ⟨fun s k w ep status code q d isOpen hq holds room hd => ⟨fun off bytes ws inside first payload fault => ?_,
    fun bytes fault => ?_⟩, fun s k small up taken => ⟨?_, fun en => ?_⟩,
    fun s k h ps takes ring small ready good head fits => ⟨_, rfl, ?_⟩, fun s ecc takes ring busy => ?_⟩
  · change execDataWords k off bytes ws ep s = _
    refine onDp_step ((if_neg (Nat.not_le.2 inside)).trans ?_)
    rw [hd]
    refine onQueue_rewound isOpen hq room ?_
    have bad := takeData_bad (w := w) (sizeOk := payloadOk off bytes) holds fault
    unfold takeWrite
    split
    · next whole =>
      obtain ⟨rfl, rfl⟩ := payload.resolve_left (by rw [whole]; decide)
      rw [whole] at bad
      exact bad
    · next cut =>
      rw [Bool.not_eq_true] at cut
      rw [cut] at bad
      rw [first, bad]
  · change execEndWord k bytes w ep s = _
    refine onDp_step ?_
    rw [hd]
    refine onQueue_rewound isOpen hq room (takeEnd_bad holds ?_)
    simpa using fault
  · obtain ⟨c, d, written, enabled, rest, data⟩ := queCtl_written small up taken (queCtlWord (queEn s.ctl k) true)
    have bits : (queCtlWord (queEn s.ctl k) true).getLsbD 0 = queEn s.ctl k ∧ (queCtlWord (queEn s.ctl k) true).getLsbD 1 = true := by
      cases queEn s.ctl k <;> decide
    obtain ⟨bit0, bit1⟩ := bits
    rw [bit0] at enabled
    rw [bit0, bit1] at data
    refine ⟨{ s with ctl := c, dp := d }, ?_, ?_, enabled, rest⟩
    · change execQueueReset k s = _
      rw [execQueueReset, onBoth, if_neg (by omega), written]
    · refine data.trans ((if_neg ?_).trans (if_pos rfl))
      rintro ⟨low, high⟩
      rw [low] at high
      cases high
  · obtain ⟨c, d, written, enabled, rest, data⟩ := queCtl_written small up taken (queCtlWord en false)
    have bits : (queCtlWord en false).getLsbD 0 = en ∧ (queCtlWord en false).getLsbD 1 = false := by
      cases en <;> decide
    obtain ⟨bit0, bit1⟩ := bits
    rw [bit0] at enabled
    rw [bit0, bit1] at data
    refine ⟨{ s with ctl := c, dp := d }, ?_, enabled, data, rest⟩
    change execQueueEnable k en s = _
    rw [execQueueEnable, onBoth, if_neg (by omega), written]
  · change execTakeUp none s = _
    refine onDp_step ?_
    rw [takesNext_here takes ring (by omega) ready, visit_packet small ready good head, fits]
    rfl
  · change execTakeUp ecc s = _
    exact onDp_step (takesNext_here takes ring (by decide) busy)

end Sys2Proof.Laws
end
section
/-! PROOF. The host's requests: handled in service (R56, R81, R249, R250, R254), rejected outside it (R253, R354). -/

namespace Sys2Proof.Laws

open Sys2Proof.Machine

/-- What neither a credit given nor an entry into DORMANT cancelled touches: the NDR credits, the rejects counted, the mode and the
security unit. -/
def hostSide (d : Dp) : Nat × Nat × Mode × Sec := (d.hif.ndr, d.hif.drainRej, d.sup.mode, d.sec)

theorem giveCredit_hostSide (c : Ctl) (d : Dp) : hostSide (giveCredit c d) = hostSide d ∧ (giveCredit c d).lc = d.lc := by
  obtain ⟨b, o, -, -, e⟩ | ⟨b, o, e⟩ := giveCredit_result c d <;> rw [e] <;> exact ⟨rfl, rfl⟩

theorem returnEntries_hostSide (c : Ctl) (n : Nat) (d : Dp) : hostSide (returnEntries c n d) = hostSide d := by
  induction n generalizing d with
  | zero => rfl
  | succ n ih =>
    rw [returnEntries]
    split
    · rfl
    · exact (ih _).trans (giveCredit_hostSide ..).1

theorem memTrigger_hostSide {c : Ctl} {d : Dp} (up : ¬ d.sup.mode = .dormant) : hostSide (memTrigger c d) = hostSide d := by
  unfold memTrigger
  rw [if_neg up]
  split
  · rfl
  · split
    · exact returnEntries_hostSide ..
    · rfl

theorem freeEntry_leaves (c : Ctl) (d : Dp) : hostSide (freeEntry c d) = hostSide d ∧ (freeEntry c d).lc = d.lc := by
  unfold freeEntry
  split
  · exact ⟨rfl, rfl⟩
  · split
    · exact ⟨rfl, rfl⟩
    · exact giveCredit_hostSide ..

/-- Whether requests are refused depends on the security unit alone. -/
theorem refusing_congr {d e : Dp} (sec : e.sec = d.sec) : refusing e = refusing d := by
  unfold refusing
  rw [sec]

/-- A request in service whose credit is taken is handled by a part in service that refuses nothing. -/
theorem serve_ready {c : Ctl} {d : Dp} {hpa : BitVec 52} {a : SecAddr} (ready : HostReady d hpa a) :
    refusing (takeReqCredit (memTrigger c d)) = false ∧ refusing (takeRwdCredit (memTrigger c d)) = false ∧
      (takeRwdCredit (memTrigger c d)).sup.mode = .serve := by
  obtain ⟨-, -, serve, free, -⟩ := ready
  have kept := memTrigger_hostSide (c := c) (d := d) (by rw [serve]; decide)
  have sec : (memTrigger c d).sec = d.sec := congrArg (fun x => x.2.2.2) kept
  have mode : (memTrigger c d).sup.mode = d.sup.mode := congrArg (fun x => x.2.2.1) kept
  refine ⟨(refusing_congr ?_).trans free, (refusing_congr ?_).trans free, mode.trans serve⟩
  · exact sec
  · exact sec

/-- A MemInv that is the only request pending is answered at once (R249, R254). -/
theorem doInv_only {c : Ctl} {d : Dp} {hpa : BitVec 52} {a : SecAddr} (takes : refusing d = false) (pend : d.acc.pend = [])
    (up : linkUp d = true) (secure : d.hif.ideFailed = false) (credit : 0 < d.hif.ndr) :
    Out.resp d.acc.nextTag (.cmp a) ∈ (doInv c hpa (some a) d).out ∧ (doInv c hpa (some a) d).acc.pend = [] ∧
      HeldStays d (doInv c hpa (some a) d) := by
  have does : doInv c hpa (some a) d = answer c d.acc.nextTag (.cmp a) (pmuCount c 0 0x22 1 (acceptReq c a false false false d)) := by
    unfold doInv
    dsimp only
    rw [takes]
    rfl
  obtain ⟨pmu, p, tag, -, -, live, -, accepted⟩ := acceptReq_frame c a false false false d
  rw [does, accepted]
  generalize he : ({ d with pmu := pmu, acc := { d.acc with nextTag := d.acc.nextTag + 1, pend := d.acc.pend ++ [p] } } : Dp) = e
  have stays : HeldStays d e := by
    rw [← he]
    exact ⟨⟨rfl, rfl, rfl⟩, List.prefix_refl _⟩
  have counted := beside_pmuCount c 0 0x22 1 e
  have records := recorded_pmuCount c 0 0x22 1 e
  generalize pmuCount c 0 0x22 1 e = f at counted records ⊢
  obtain ⟨acc, -, -, -, -, rate, failed, -⟩ := beside_parts counted
  have ndr : f.hif.ndr = d.hif.ndr := by
    have same : f.hif.ndr = e.hif.ndr :=
      show (withoutRecords f).hif.ndr = (withoutRecords e).hif.ndr from congrArg (fun x : Dp => x.hif.ndr) records
    rw [same, ← he]
  have only : f.acc.pend = [p] := by rw [acc, ← he]; exact congrArg (· ++ [p]) pend
  have upF : linkUp f = true := by
    unfold linkUp at up ⊢
    rw [rate, ← he]
    exact up
  have secureF : f.hif.ideFailed = false := by rw [failed, ← he]; exact secure
  have creditF : hasS2m (.cmp a) f = true := decide_eq_true (by rw [ndr]; exact credit)
  rw [← tag]
  obtain ⟨sent, gone, after⟩ := answer_only (c := c) only live upF secureF creditF
  exact ⟨sent, gone, heldStays_trans stays (heldStays_trans (heldStays_of_beside counted) after)⟩

/-- Settles O19: with its credit, the gate of a part in service lets the request through. -/
theorem hostRequestsAreHandled : Obligations.HostRequestsAreHandled := by
  unfold Obligations.HostRequestsAreHandled
  refine ⟨fun s hpa a ready credit ndr pend reads => ?_, fun s hpa a v p ecc mapEcc ready => ⟨fun credit => ?_,
    fun d1 credit hd => ⟨?_, ?_, fun en part => ?_⟩, fun credit => ?_, fun credit => ?_, fun rwd d1 credit hd => ?_⟩⟩
  · obtain ⟨isOpen, active, serve, free, decoded⟩ := id ready
    obtain ⟨up, secure⟩ : linkUp s.dp = true ∧ s.dp.hif.ideFailed = false := by simpa [memOpen] using isOpen
    obtain ⟨takes, -, -⟩ := serve_ready (c := s.ctl) ready
    have begun : Beside s.dp (takeReqCredit (memTrigger s.ctl s.dp)) :=
      beside_trans (beside_memTrigger serve) (beside_of_out rfl rfl)
    have ndr1 : (takeReqCredit (memTrigger s.ctl s.dp)).hif.ndr = s.dp.hif.ndr :=
      congrArg Prod.fst (memTrigger_hostSide (c := s.ctl) (d := s.dp) (by rw [serve]; decide))
    have arrives : memInvArrives s.ctl hpa s.dp = doInv s.ctl hpa (some a) (takeReqCredit (memTrigger s.ctl s.dp)) := by
      rw [memInvArrives, gate_serve ready credit]
    generalize takeReqCredit (memTrigger s.ctl s.dp) = d1 at begun arrives takes ndr1
    obtain ⟨acc, -, -, -, -, rate, failed, -⟩ := beside_parts begun
    obtain ⟨sent, gone, stays⟩ := doInv_only (c := s.ctl) (hpa := hpa) (a := a) takes (by rw [acc]; exact pend)
      (by unfold linkUp at up ⊢; rw [rate]; exact up) (by rw [failed]; exact secure) (by rw [ndr1]; exact ndr)
    rw [acc] at sent
    change ∃ t, execMeminv hpa s = .next t ∧ _
    exact ⟨_, onDp_step arrives, rfl, sent, gone, (heldStays_trans (heldStays_of_beside begun) stays).1⟩
  · obtain ⟨takes, -, -⟩ := serve_ready (c := s.ctl) ready
    change execMemrd hpa ecc mapEcc s = _
    refine onDp_step ?_
    rw [memRdArrives, gate_serve ready credit]
    dsimp only
    rw [doRead, takes]
    rfl
  · obtain ⟨-, takes, serve⟩ := serve_ready (c := s.ctl) ready
    change execMemwr hpa v p ecc s = _
    refine onDp_step ?_
    rw [memWrArrives, gate_serve ready credit]
    dsimp only
    rw [doWrite, takes, serve, ← hd]
    rfl
  · change execMemwrptl hpa v (BitVec.allOnes 64) p ecc s = execMemwr hpa v p ecc s
    rw [execMemwrptl, execMemwr, onDp, onDp, memWrPtlArrives, if_pos rfl]
  · obtain ⟨-, takes, serve⟩ := serve_ready (c := s.ctl) ready
    change execMemwrptl hpa v en p ecc s = _
    refine onDp_step ?_
    rw [memWrPtlArrives, if_neg part, gate_serve ready credit]
    dsimp only
    rw [doPartial, takes, serve, ← hd]
    rfl
  · obtain ⟨takes, -, -⟩ := serve_ready (c := s.ctl) ready
    change execMemspecrd hpa s = _
    refine onDp_step ?_
    rw [memSpecRdArrives, gate_serve ready credit]
    dsimp only
    rw [doSpec, takes]
    rfl
  · change execMeminv hpa s = _
    refine onDp_step ?_
    rw [memInvArrives, gate_serve ready credit]
  · obtain ⟨isOpen, active, -⟩ := ready
    change execOtherOpcode rwd s = _
    refine onDp_step ?_
    rw [otherArrives, if_neg (by rw [isOpen]; decide), if_neg (by rw [active]; decide), if_neg (Nat.pos_iff_ne_zero.1 credit), hd]
    rfl

/-- The gate outside service: in DORMANT, in DRAIN and before Memory_Active (R253). -/
theorem gate_outside {d : Dp} {hpa : BitVec 52} {credits : Nat} (isOpen : memOpen d = true) :
    (d.hif.memActive = false → gate credits hpa d = .inactive) ∧
      (d.hif.memActive = true → 0 < credits →
        (d.sup.mode = .dormant → gate credits hpa d = .dormant) ∧ (d.sup.mode = .drain → gate credits hpa d = .draining)) := by
  refine ⟨fun inactive => ?_, fun active held => ⟨fun mode => ?_, fun mode => ?_⟩⟩
  · simp [gate, isOpen, inactive]
  · simp [gate, isOpen, active, mode, Nat.pos_iff_ne_zero.1 held]
  · simp [gate, isOpen, active, mode, Nat.pos_iff_ne_zero.1 held]

/-- The gate of a mode with host service, in which the address is decoded. -/
theorem gate_decodes {d : Dp} {hpa : BitVec 52} {credits : Nat} (isOpen : memOpen d = true) (active : d.hif.memActive = true)
    (held : 0 < credits) (noDrain : ¬ d.sup.mode = .drain) (up : ¬ d.sup.mode = .dormant) :
    gate credits hpa d = .go ((hdmDecode d hpa).map fun x => dpaSec x.2) := by
  simp [gate, isOpen, active, noDrain, up, Nat.pos_iff_ne_zero.1 held]

/-- A request rejected in DRAIN and counted leaves what holds host data as it was, and counts itself. -/
theorem drained_leaves (c : Ctl) (d : Dp) :
    (freeAtOnce c (countDrain c (takeRwdCredit d))).lc = d.lc ∧ (freeAtOnce c (countDrain c (takeRwdCredit d))).mrg = d.mrg ∧
      (freeAtOnce c (countDrain c (takeRwdCredit d))).acc = d.acc ∧
      (freeAtOnce c (countDrain c (takeRwdCredit d))).hif.drainRej = satInc 0xFF d.hif.drainRej := by
  rw [freeAtOnce, countDrain]
  generalize he : ({ takeRwdCredit d with hif := { (takeRwdCredit d).hif with drainRej := _ } } : Dp) = e
  have records := recorded_pmuCount c 0 0x1D 1 e
  have noted := noted_pmuCount c 0 0x1D 1 e
  have counted := beside_pmuCount c 0 0x1D 1 e
  generalize pmuCount c 0 0x1D 1 e = f at records noted counted ⊢
  obtain ⟨side, lc⟩ := freeEntry_leaves c f
  obtain ⟨acc, -, mrg, -⟩ := beside_parts (beside_trans counted (beside_freeEntry c f))
  have rejects : f.hif.drainRej = e.hif.drainRej :=
    show (withoutRecords f).hif.drainRej = (withoutRecords e).hif.drainRej from congrArg (fun x : Dp => x.hif.drainRej) records
  refine ⟨lc.trans ((noted_lc noted).trans ?_), mrg.trans ?_, acc.trans ?_, (congrArg (fun x => x.2.1) side).trans (rejects.trans ?_)⟩ <;>
    rw [← he] <;> rfl

/-- A request before Memory_Active is answered outside the pool and counted (R253). -/
theorem rejectAnswer_sent {d : Dp} (r : Resp) (isOpen : memOpen d = true) : rejectAnswer r d = emit (.resp d.acc.nextTag r) d := by
  have up : linkUp d = true := (Bool.and_eq_true .. ▸ isOpen).1
  rw [rejectAnswer, if_pos up]

/-- Settles O20: each gate sends the request where its mode says. -/
theorem requestsOutsideServiceAreRejected : Obligations.RequestsOutsideServiceAreRejected := by
  unfold Obligations.RequestsOutsideServiceAreRejected
  intro s hpa v en p ecc mapEcc isOpen
  refine ⟨fun active mode => ⟨fun credit => ?_, fun credit => ?_⟩, fun d1 inactive hd => ?_,
    fun active mode => ⟨fun d1 credit hd => ?_, fun credit => ?_⟩, fun n x active credit mode decoded => ?_,
    fun active credit mode none => ?_⟩
  · have gated := ((gate_outside (hpa := hpa) isOpen).2 active credit).1 mode
    refine ⟨?_, ?_, ?_⟩
    · change execMemrd hpa ecc mapEcc s = _
      exact onDp_step (by rw [memRdArrives, gated])
    · change execMemspecrd hpa s = _
      exact onDp_step (by rw [memSpecRdArrives, gated])
    · change execMeminv hpa s = _
      exact onDp_step (by rw [memInvArrives, gated])
  · have gated := ((gate_outside (hpa := hpa) isOpen).2 active credit).1 mode
    refine ⟨?_, fun part => ?_⟩
    · change execMemwr hpa v p ecc s = _
      exact onDp_step (by rw [memWrArrives, gated])
    · change execMemwrptl hpa v en p ecc s = _
      exact onDp_step (by rw [memWrPtlArrives, if_neg part, gated])
  · have gated (credits : Nat) := (gate_outside (hpa := hpa) (credits := credits) isOpen).1 inactive
    have rejects : memInvArrives s.ctl hpa s.dp = countUndecoded s.ctl (rejectAnswer (.cmp (hpaLine hpa)) s.dp) := by
      rw [memInvArrives, gated]
    have writes : memWrArrives s.ctl hpa v p ecc s.dp = countUndecoded s.ctl (rejectAnswer (.cmp (hpaLine hpa)) s.dp) := by
      rw [memWrArrives, gated]
    have inv : execMeminv hpa s = .next (s.withDp (countUndecoded s.ctl (rejectAnswer (.cmp (hpaLine hpa)) s.dp))) :=
      onDp_step rejects
    refine ⟨?_, ?_, ?_, ?_, ?_⟩
    · change execMemrd hpa ecc mapEcc s = _
      exact onDp_step (by rw [memRdArrives, gated]; dsimp only; rw [rejectAnswer_sent _ isOpen, ← hd]; rfl)
    · change execMeminv hpa s = _
      exact onDp_step (by rw [rejects, rejectAnswer_sent _ isOpen, ← hd]; rfl)
    · change execMemwr hpa v p ecc s = execMeminv hpa s
      rw [inv]
      exact onDp_step writes
    · change execMemwrptl hpa v en p ecc s = execMeminv hpa s
      rw [inv]
      refine onDp_step ?_
      rw [memWrPtlArrives]
      split
      · exact writes
      · rw [gated]
    · change execMemspecrd hpa s = _
      exact onDp_step (by rw [memSpecRdArrives, gated, ← hd]; rfl)
  · have gated := ((gate_outside (hpa := hpa) isOpen).2 active credit).2 mode
    have drains : countDrain s.ctl (takeReqCredit s.dp) = d1 := hd
    refine ⟨?_, ?_, ?_⟩
    · change execMemrd hpa ecc mapEcc s = _
      exact onDp_step (by rw [memRdArrives, gated]; dsimp only; rw [drains])
    · change execMeminv hpa s = _
      exact onDp_step (by rw [memInvArrives, gated]; dsimp only; rw [drains])
    · change execMemspecrd hpa s = _
      exact onDp_step (by rw [memSpecRdArrives, gated]; dsimp only; rw [drains]; rfl)
  · have gated := ((gate_outside (hpa := hpa) isOpen).2 active credit).2 mode
    have writes : memWrArrives s.ctl hpa v p ecc s.dp = freeAtOnce s.ctl (countDrain s.ctl (takeRwdCredit s.dp)) := by
      rw [memWrArrives, gated]
    change ∃ t, execMemwr hpa v p ecc s = .next t ∧ execMemwrptl hpa v en p ecc s = .next t ∧ _
    refine ⟨_, onDp_step writes, onDp_step ?_, drained_leaves s.ctl s.dp⟩
    rw [memWrPtlArrives]
    split
    · exact writes
    · rw [gated]
  · have gated := gate_decodes (hpa := hpa) isOpen active credit (by rw [mode]; decide) (by rw [mode]; decide)
    have kept := memTrigger_hostSide (c := s.ctl) (d := s.dp) (by rw [mode]; decide)
    have fallow : (takeRwdCredit (memTrigger s.ctl s.dp)).sup.mode = .fallow := (congrArg (fun x => x.2.2.1) kept).trans mode
    change execMemwr hpa v p ecc s = _
    refine onDp_step ?_
    rw [memWrArrives, gated, decoded]
    dsimp only [Option.map]
    rw [doWrite, if_pos (.inr fallow)]
  · have gated := gate_decodes (hpa := hpa) isOpen active credit (by rw [mode]; decide) (by rw [mode]; decide)
    change execMemrd hpa ecc mapEcc s = _
    refine onDp_step ?_
    rw [memRdArrives, gated, none]
    rfl

end Sys2Proof.Laws
end
section
/-! PROOF. Reads of the mapping table as they return, and an entry restored (R49, R50, R56, R167, R202). -/

namespace Sys2Proof.Laws

open Sys2Proof.Machine

/-- The entry of a number in a word of four. -/
theorem quad_entry (e : Nat → BitVec 64) (n : Nat) (k : Nat) (hk : k < 4) :
    (e (n + 3) ++ e (n + 2) ++ e (n + 1) ++ e (n + 0) : BitVec 256).extractLsb' (64 * k) 64 = e (n + k) := by
  apply BitVec.eq_of_getLsbD_eq
  intro i hi
  rw [BitVec.getLsbD_extractLsb', decide_eq_true hi, Bool.true_and, BitVec.getLsbD_append, BitVec.getLsbD_append,
    BitVec.getLsbD_append]
  obtain rfl | rfl | rfl | rfl : k = 0 ∨ k = 1 ∨ k = 2 ∨ k = 3 := by omega
  · rw [if_pos (by omega), Nat.mul_zero, Nat.zero_add]
  · rw [if_neg (by omega), if_pos (by omega), show 64 * 1 + i - 64 = i by omega]
  · rw [if_neg (by omega), if_neg (by omega), if_pos (by omega), show 64 * 2 + i - 64 - 64 = i by omega]
  · rw [if_neg (by omega), if_neg (by omega), if_neg (by omega), show 64 * 3 + i - 64 - 64 - 64 = i by omega]

/-- A word of the table with no bit wrong gives the entry stored (R167). -/
theorem mapRead_stored (d : Dp) (copyB : Bool) (p : Nat) :
    mapRead d copyB p 0 = (.good, smGet 0 (if copyB then d.map.copyB else d.map.copyA) p) := by
  have entry := quad_entry (fun i => smGet 0 (if copyB then d.map.copyB else d.map.copyA) i) (p / 4 * 4) (p % 4)
    (Nat.mod_lt _ (by decide))
  rw [Nat.div_add_mod' p 4] at entry
  rw [mapRead, hbmRead, if_pos rfl]
  exact congrArg (Prod.mk HbmEcc.good) entry

/-- A read of a page that changes no tag is found again under its own. -/
theorem findRead_modRead {d : Dp} {tag : Nat} (f : Read → Read) (keeps : ∀ r, (f r).tag = r.tag) :
    findRead (modRead tag f d) tag = (findRead d tag).map f := by
  unfold findRead modRead
  dsimp only
  induction d.acc.reads with
  | nil => rfl
  | cons r l ih =>
    rw [mapIf, List.map_cons] at *
    by_cases h : r.tag = tag
    · rw [if_pos (decide_eq_true h), List.find?_cons_of_pos (by simpa using (keeps r).trans h),
        List.find?_cons_of_pos (by simpa using h)]
      rfl
    · rw [if_neg (by simpa using h), List.find?_cons_of_neg (by simpa using h), List.find?_cons_of_neg (by simpa using h)]
      exact ih

theorem beside_sendMapRead (c : Ctl) (tag p : Nat) (copyB : Bool) (d : Dp) : Beside d (sendMapRead c tag p copyB d) :=
  beside_hbmSend ..

/-- The word of an entry that the mapping cache does not hold, returned in its turn: taken where it is good, read in the other
copy or given up where it is not. -/
theorem mappingReturned_cold {c : Ctl} {tag : Nat} {err : BitVec 288} {r : Read} {copyB second : Bool} {p pc : Nat}
    {x : Nat × Nat × Nat × Nat} {d d1 d2 : Dp} (turn : readTurn d tag = true) (found : findRead (readOver c tag d) tag = some r)
    (phase : r.phase = .map copyB second) (hp : p = (linePage (secLine r.line)).toNat) (hx : x = entryPos (readOver c tag d) p)
    (hpc : pc = (if copyB then partner x.1 else x.1)) (hd : d1 = pmuBytes (19 + pc / 4) 32 (readOver c tag d))
    (cold : cacheLine d1 p = none) (hd2 : d2 = raise (0x20 + pc) 0x21 (hbmAddr x.2.1 x.2.2.1 x.2.2.2) 0 0 0 d1) :
    ((mapRead d1 copyB p err).1 = .good → mappingReturned c tag err d = afterMap c tag (mapRead d1 copyB p err).2
      (cacheEntry p (mapRead d1 copyB p err).2 (if second then postWrite 2 (partner pc) x.2.1 x.2.2.1 x.2.2.2
        (corrVolatile { d1 with map := { d1.map with
          copyA := smSet 0 d1.map.copyA p (mapRead d1 copyB p err).2
          copyB := smSet 0 d1.map.copyB p (mapRead d1 copyB p err).2 } }) else d1))) ∧
    ((mapRead d1 copyB p err).1 = .uncorrectable → mappingReturned c tag err d =
      if second = false then sendMapRead c tag p (!copyB)
          (pmuCount c 20 0x11 1 (modRead tag (fun y => { y with phase := .map (!copyB) true })
            { d2 with hbm := { d2.hbm with second := if ownWindow d2 (if copyB then x.1 else partner x.1) x.2.1 then satInc 0xFFFF d2.hbm.second else d2.hbm.second } }))
      else afterMap c tag 0 (loseEntry p d2)) := by
  have cold2 : cacheLine d2 p = none := by
    obtain ⟨flt, e⟩ := raise_frame (0x20 + pc) 0x21 (hbmAddr x.2.1 x.2.2.1 x.2.2.2) 0 0 0 d1
    rw [hd2, e]
    exact cold
  refine ⟨fun good => ?_, fun bad => ?_⟩
  all_goals
    rw [mappingReturned, if_neg (by rw [turn]; decide)]
    dsimp only
    rw [found]
    dsimp only
    rw [phase]
    dsimp only
    rw [← hp, ← hx, ← hpc, ← hd, cold]
  · rw [good]
    cases second <;> rfl
  · rw [bad]
    dsimp only
    rw [← hd2, cold2]
    rfl

/-- Settles O23: a mirror copy's word is taken by what its check bits say. -/
theorem mappingReadsReturn : Obligations.MappingReadsReturn := by
  unfold Obligations.MappingReadsReturn
  refine ⟨fun s tag err r copyB second p pc x d1 => ⟨fun notYet => ?_, fun turn found phase hp hx hpc hd cold => ?_⟩,
    fun s page e lost idle => ⟨fun pinned => ?_, fun loose kept => ?_⟩⟩
  · change execMappingReadReturn tag err s = _
    exact onDp_step (d := s.dp) (by rw [mappingReturned, if_pos notYet])
  · obtain ⟨taken, given⟩ := mappingReturned_cold (err := err) turn found phase hp hx hpc hd cold rfl
    refine ⟨mapRead_stored d1 copyB p, fun first good => ?_, fun first bad => ?_, fun other good => ?_, fun other bad =>
      ⟨_, rfl, ?_⟩⟩
    · change execMappingReadReturn tag err s = _
      exact onDp_step (by rw [taken good, first]; rfl)
    · change ∃ t, execMappingReadReturn tag err s = _ ∧ _
      refine ⟨_, onDp_step (given bad), ?_⟩
      rw [if_pos first]
      generalize he : raise (0x20 + pc) 0x21 (hbmAddr x.2.1 x.2.2.1 x.2.2.2) 0 0 0 d1 = e
      have raised : Beside d1 e := he ▸ beside_raise ..
      generalize hf : ({ e with hbm := _ } : Dp) = f
      have second : Beside d1 f := beside_trans raised (hf ▸ beside_of_out rfl rfl)
      have sent := beside_trans (beside_pmuCount s.ctl 20 0x11 1 (modRead tag (fun y => { y with phase := .map (!copyB) true }) f))
        (beside_sendMapRead s.ctl tag p (!copyB) _)
      obtain ⟨acc, -, -, map, -⟩ := beside_parts second
      obtain ⟨accS, -, -, mapS, -⟩ := beside_parts sent
      refine ⟨mapS.trans map, ?_⟩
      have same (a b : Dp) (h : a.acc = b.acc) : findRead a tag = findRead b tag := by unfold findRead; rw [h]
      refine (same _ _ accS).trans ((findRead_modRead (fun y => { y with phase := .map (!copyB) true }) fun _ => rfl).trans ?_)
      rw [same _ _ acc]
    · change execMappingReadReturn tag err s = _
      exact onDp_step (by rw [taken good, other]; rfl)
    · change execMappingReadReturn tag err s = _
      exact onDp_step (by rw [given bad, other]; rfl)
  · have open_ : ¬(pageLost s.dp page.toNat = false ∨ s.dp.que.mps.getD 2 1 ≠ 0) := by
      rw [pageLost, decide_eq_true lost, idle]
      decide
    change execMapEntryRestore page s = _
    exact onDp_step (by rw [restoreEntry]; dsimp only; rw [if_neg open_, if_pos pinned])
  · have open_ : ¬(pageLost s.dp page.toNat = false ∨ s.dp.que.mps.getD 2 1 ≠ 0) := by
      rw [pageLost, decide_eq_true lost, idle]
      decide
    have restored := restoreEntry.eq_1 s.ctl page s.dp
    dsimp only at restored
    rw [if_neg open_, if_neg (by rw [loose]; decide), kept] at restored
    change ∃ d1, execMapEntryRestore page s = _ ∧ _
    exact ⟨_, onDp_step restored, rfl, rfl⟩

end Sys2Proof.Laws
end
section
/-! PROOF. What comes back from the media: sectors, codewords and ready frames (R59, R60, R64 to R66, R166, R226, R230,
R231). -/

namespace Sys2Proof.Laws

open Sys2Proof.Machine

/-- Settles O24: a direct sector by its check and its inner decode, a codeword and a reconstruction by their outer decode. -/
theorem sectorsAndCodewordsAnswer : Obligations.SectorsAndCodewordsAnswer := by
  unfold Obligations.SectorsAndCodewordsAnswer
  refine ⟨fun s tag r m raw d1 found out => ⟨fun inner few hd => ?_, fun inner crc bad hd => ?_, fun k sec gone kind => ?_⟩,
    fun s tag r found host => ⟨fun m raw dec d2 phase out hdec good hd => ?_,
      fun peers i dec d1 waits direct came hi hdec good hd => ?_⟩⟩
  · have goodCrc : b2n (decide (slotCrc raw inner ≠ slotCrc raw inner)) = 0 := by rw [decide_eq_false (fun h => h rfl)]; rfl
    change execSectorReturn tag raw inner (slotCrc raw inner) s = _
    refine onDp_step ?_
    rw [sectorReturned, found]
    generalize asked : issuedMop s.dp _ = answered
    obtain rfl : answered = some m := asked.symm.trans out
    dsimp only
    rw [goodCrc, if_pos ⟨rfl, few⟩, ← hd]
  · have marks : b2n (decide (slotCrc raw inner ≠ crc)) = if slotCrc raw inner = crc then 0 else 1 := by
      by_cases h : slotCrc raw inner = crc <;> simp [h, b2n]
    have notBoth : ¬((if slotCrc raw inner = crc then 0 else 1) = 0 ∧ inner.toNat ≤ 2) := by
      obtain three | differs := bad
      · omega
      · rw [if_neg differs]
        omega
    change execSectorReturn tag raw inner crc s = _
    refine onDp_step ?_
    rw [sectorReturned, found]
    generalize asked : issuedMop s.dp _ = answered
    obtain rfl : answered = some m := asked.symm.trans out
    dsimp only
    rw [marks, if_neg notBoth, ← hd]
  · change execAbsentBurst k m.id s = _
    refine onDp_step ?_
    rw [absentReturned, gone]
    dsimp only
    rw [kind]
  · change execCodewordReturn tag raw s = _
    refine onDp_step ?_
    rw [codewordReturned, found, out]
    dsimp only
    rw [← hdec, if_pos good, if_neg (by rw [phase]; decide), ← hd]
  · have allIssued (m : Mop) (hm : m ∈ s.dp.mops) : ((match m.kind with
        | .peer t _ => decide (t = tag)
        | _ => false) && m.issued.isNone) = false := by
      have issued := came m hm
      cases hk : m.kind with
      | peer t h =>
        by_cases mine : t = tag
        · simp [Option.isNone_eq_false_iff.2 (issued h (mine ▸ hk))]
        · simp [mine]
      | _ => rfl
    have equation := reconstructed.eq_1 s.ctl tag peers s.dp
    rw [found] at equation
    dsimp only at equation
    rw [host] at equation
    dsimp only at equation
    rw [if_neg, ← hi, ← hdec, if_pos good] at equation
    · change execReconstruction tag peers s = _
      refine onDp_step (equation.trans ?_)
      rw [reconGood, host]
      dsimp only
      rw [direct, hd, show r.tag = tag by simpa using List.find?_some found]
      rfl
    · rintro (done | waiting)
      · exact absurd (waits.symm.trans done) (by decide)
      · obtain ⟨m, hm, h⟩ := List.any_eq_true.1 waiting
        exact absurd ((allIssued m hm).symm.trans h) (by decide)

/-- What an overrun makes of the reads at a partition leaves the programmes. -/
theorem faultWaiting_mrg (k set : Nat) (d : Dp) : (faultWaiting k set d).mrg = d.mrg := by
  unfold faultWaiting
  generalize partReads d k set = l
  induction l generalizing d with
  | nil => rfl
  | cons m l ih =>
    rw [List.foldl_cons, ih]
    split
    · rfl
    · rfl
    · split <;> rfl
    · rfl

theorem endRecovery_mrg (k set : Nat) (d : Dp) : (endRecovery k set d).mrg = d.mrg := by
  unfold endRecovery
  split
  · exact faultWaiting_mrg ..
  · rfl

/-- Settles O25: a frame is taken by its package, its parity and its two result bits. -/
theorem readyFramesEndProgrammes : Obligations.ReadyFramesEndProgrammes := by
  unfold Obligations.ReadyFramesEndProgrammes
  intro s k w f t set hk hw hset
  refine ⟨fun isolated => ?_, fun live => ?_⟩
  · change execReadyFrame k w f t s = _
    refine onDp_step (d := s.dp) ?_
    rw [frameDecoded, if_pos (.inr (.inr isolated))]
  · have heard : ¬(nChan ≤ k ∨ 4 ≤ w ∨ unitIsolated s.dp k w = true) := by
      rw [live]
      simp [nChan]
      omega
    have heeded (ok : frameOk f = true) : ¬frameOk f = false := by rw [ok]; decide
    refine ⟨fun bad => ?_, fun p ok flying => ⟨fun result => ?_, fun result => ?_, fun result granted still => ?_⟩,
      fun m p ok result out found resetting => ?_⟩
    · have lost : execReadyFrame k w f t s = .next (s.withDp (frameLost k set s.dp)) := by
        refine onDp_step ?_
        rw [frameDecoded, if_neg heard, if_pos bad, ← hset]
      change execReadyFrame k w f t s = _
      rw [lost, frameLost]
      split
      · rfl
      · rfl
    · change execReadyFrame k w f t s = _
      exact onDp_step (by rw [frameDecoded, if_neg heard, if_neg (heeded ok), ← hset, result, flying])
    · change execReadyFrame k w f t s = _
      exact onDp_step (by rw [frameDecoded, if_neg heard, if_neg (heeded ok), ← hset, result, flying])
    · change execReadyFrame k w f t s = _
      exact onDp_step (by 
        rw [frameDecoded, if_neg heard, if_neg (heeded ok), ← hset, result, progDiscarded, still]
        dsimp only
        rw [if_pos granted])
    · change execReadyFrame k w f t s = _
      refine onDp_step ?_
      rw [frameDecoded, if_neg heard, if_neg (heeded ok), ← hset, result]
      dsimp only
      rw [resetReady, out]
      dsimp only
      rw [show (dropMops (· = m) (endRecovery k set s.dp)).mrg = s.dp.mrg from endRecovery_mrg .., found]
      dsimp only
      rw [if_pos resetting]

end Sys2Proof.Laws
end
section
/-! PROOF. The channels: faults, ports, rights and periodic checks (R27, R28, R63, R75, R95, R154, R229, R231, R232, R235,
R325). -/

namespace Sys2Proof.Laws

open Sys2Proof.Machine

/-- Settles O26: each event of a channel, taken with the guards of its row met. -/
theorem channelFaultsAreHandled : Obligations.ChannelFaultsAreHandled := by
  unfold Obligations.ChannelFaultsAreHandled
  intro s k
  refine ⟨fun set p flying granted untold => ?_, fun set m out => ?_, fun hk live free => ?_, fun w m x low d1 found hd =>
    ⟨fun absent => ?_, fun came bad => ?_, fun came ok => ?_⟩, fun hk live busy quiet => ⟨_, rfl, ?_⟩, fun busy => ?_⟩
  · have overran := overranProg.eq_1 k set s.dp
    rw [flying] at overran
    dsimp only at overran
    rw [if_neg (by rw [granted, untold]; decide)] at overran
    change ∃ t m, execProgrammeOverrun k set s = .next t ∧ _
    exact ⟨_, _, onDp_step overran, rfl, rfl, rfl, rfl, rfl⟩
  · change execResetOverrun k set s = _
    exact onDp_step (by rw [overranReset, out])
  · have heard : ¬(nChan ≤ k ∨ (chanOf s.dp k).isolated = true ∨ (chanOf s.dp k).stuck = true) := by
      rw [live, free]
      simpa [nChan] using hk
    change execAlertN k s = _
    exact onDp_step (by rw [alertFalls, if_neg heard])
  · change execStsResponse k w x low s = _
    refine onDp_step ?_
    rw [stsReturned, found]
    dsimp only
    rw [if_pos absent, if_pos absent]
    rfl
  · change execStsResponse k w x low s = _
    refine onDp_step ?_
    rw [stsReturned, found]
    dsimp only
    rw [if_neg (Bool.eq_false_iff.1 came), if_neg (Bool.eq_false_iff.1 came), if_pos bad, hd]
  · change execStsResponse k w x low s = _
    refine onDp_step ?_
    rw [stsReturned, found]
    dsimp only
    rw [if_neg (Bool.eq_false_iff.1 came), if_neg (Bool.eq_false_iff.1 came), if_neg (by rw [ok]; decide), hd]
  · have expires : ¬(nChan ≤ k ∨ (chanOf s.dp k).isolated = true ∨ engineBusy s.dp k = false ∨
        elapsed (chanOf s.dp k).tick s.dp.now < 10000) := by
      rw [live, busy]
      simp [nChan]
      omega
    change execWatchdog k s = _
    rw [execWatchdog, onBoth, watchdogExpires, if_neg expires]
  · change execProgressTick k s = _
    exact onDp_step (by rw [progressTicks, if_pos busy])

/-- What a channel takes with a right leaves every right and every entry of the merge buffer. -/
theorem takeRight_frame (set k : Nat) (d : Dp) :
    (takeRight set k d).mrg.right = d.mrg.right ∧ (takeRight set k d).mrg.entries = d.mrg.entries := by
  unfold takeRight
  split <;> exact ⟨rfl, rfl⟩

/-- Settles O27: a decision of a port is one of its ring, a right goes to the next channel in service. -/
theorem channelPortsAndRightsRotate : Obligations.ChannelPortsAndRightsRotate := by
  unfold Obligations.ChannelPortsAndRightsRotate
  refine fun s => ⟨fun k hbm => rfl, fun k r d d1 hd hk live running hd1 => ?_, fun set k' hset down held hk' => ?_,
    fun set => rfl, fun k w drift enabled serves live => ?_, fun k serves => ?_⟩
  · have open_ : ¬(nChan ≤ k ∨ (chanOf d k).isolated = true ∨ (chanOf d k).ck = false) := by
      rw [live, running]
      simpa [nChan] using hk
    have decides := portDecides.eq_1 s.ctl k s.dp
    rw [← hd, if_neg open_] at decides
    refine ⟨fun m wins => ?_, fun p wins => ?_, fun none offers => ?_⟩
    · rw [decides, wins]
      dsimp only
      rw [hd1]
    · rw [decides, wins]
      dsimp only
      rw [hd1]
    · rw [decides, none]
      dsimp only
      rw [if_neg offers]
  · have open_ : ¬(stripeSets (cfgN s.dp) ≤ set ∨ lifted s.dp = true ∨ rightHeld s.dp set (smGet 0 s.dp.mrg.right set) = true) := by
      rw [down, held]
      simpa using hset
    have visits := visitRight.eq_1 set s.dp
    dsimp only at visits
    rw [if_neg open_, ← hk'] at visits
    change ∃ t, execProgrammingRight set s = .next t ∧ _
    refine ⟨_, onDp_step visits, rfl, ?_, fun j hj => ?_, ?_⟩
    · exact (congrArg (smGet 0 · set) (takeRight_frame ..).1).trans (smGet_smSet_same ..)
    · exact (congrArg (smGet 0 · j) (takeRight_frame ..).1).trans (smGet_smSet_other _ _ _ _ _ (by exact hj))
    · exact (takeRight_frame ..).2
  · change execWriteEyeCheck k w drift s = _
    exact onDp_step (by rw [eyeCheck, mcCtl, enabled, serves, live]; rfl)
  · change execTmpPeriod k s = _
    exact onDp_step (by rw [tmpDue, if_pos serves])

end Sys2Proof.Laws
end
section
/-! PROOF. Merge entries fill and parity deltas close (R47, R60, R88, R89, R92, R164, R169). -/

namespace Sys2Proof.Laws

open Sys2Proof.Machine

/-- A codeword read for a member itself that came and decodes is what its read gave (R60). -/
theorem backRead_own {c : Ctl} {s : Stripe} {k : Nat} {m : Mop} {raw : Burst} {peers : List Burst} {d : Dp}
    (own : memberLoc d s k = some (m.set, m.row, m.chan)) (came : m.absent = false)
    (good : (backDecode d s k raw.image).cls.good = true) :
    (backRead c s k [m] raw peers d).1 = .got (backDecode d s k raw.image).image := by
  have isOwn : ownRead d s k [m] = true := by simp [ownRead, own]
  rw [backRead]
  dsimp only
  rw [if_pos isOwn, if_pos (by simp [good, came])]

/-- Settles O28: each reason to fill or close goes its own way. -/
theorem mergeEntriesFillAndClose : Obligations.MergeEntriesFillAndClose := by
  unfold Obligations.MergeEntriesFillAndClose
  refine ⟨fun s id held d e m st k hd found serves idle kept hm hst hk => ?_, fun s id e raw peers k st b d0 d1 found reading out
    hst hk hd0 hb => ?_, fun s st x serves found => ?_, fun s st x raw members ecc d0 d1 hd0 found out came hd1 => ?_⟩
  · have expires := holdExpires.eq_1 s.ctl id d
    rw [found] at expires
    dsimp only at expires
    rw [serves, idle, kept, if_neg (by decide), ← hm, ← hst, ← hk] at expires
    have runs {x : Dp} (effect : holdExpires s.ctl id d = x) : execMergeHoldExpiry id held s = .next (s.withDp x) :=
      onDp_step (by rw [← hd]; exact effect)
    refine ⟨fun sealed => ?_, fun fills full => ?_, fun x fills part earlier done => ?_, fun fills part none =>
      ⟨fun unmapped => ?_, fun mapped gone beyond => ?_, fun mapped readable => ?_⟩⟩
    · rw [if_pos sealed] at expires
      exact runs expires
    · rw [if_neg (fun h => h fills), if_pos full] at expires
      exact runs expires
    · rw [if_neg (fun h => h fills), if_neg part, earlier] at expires
      dsimp only at expires
      rw [if_neg done] at expires
      exact runs expires
    · rw [if_neg (fun h => h fills), if_neg part, none] at expires
      dsimp only at expires
      rw [if_pos unmapped] at expires
      exact runs expires
    · rw [if_neg (fun h => h fills), if_neg part, none] at expires
      dsimp only at expires
      rw [if_neg (by rw [mapped]; decide), if_pos (by rw [gone, beyond]; rfl)] at expires
      exact runs expires
    · rw [if_neg (fun h => h fills), if_neg part, none] at expires
      dsimp only at expires
      rw [if_neg (by rw [mapped]; decide), if_neg (by obtain h | h := readable <;> rw [h] <;> simp)] at expires
      exact runs expires
  · have returned := rmwReturned.eq_1 s.ctl id raw peers s.dp
    rw [found] at returned
    dsimp only at returned
    rw [if_neg (by rw [reading, out]; decide), ← hst, ← hk, ← hd0, hb] at returned
    refine ⟨fun m taken own came good => ?_, fun read => ?_, fun asks => ?_⟩
    · rw [taken] at hb
      exact (congrArg Prod.fst hb).symm.trans (backRead_own own came good)
    · change execReadModifyWriteReturn id raw peers s = _
      refine onDp_step (returned.trans ?_)
      cases b with
      | peers => exact absurd rfl read
      | got i => rfl
      | lost => rfl
    · change execReadModifyWriteReturn id raw peers s = _
      refine onDp_step (returned.trans ?_)
      rw [asks]
  · change execDeltaAgeExpiry st s = _
    refine onDp_step ?_
    rw [deltaAges, serves, found]
    rfl
  · have noneAbsent : (takeMops (.oldParity x.id) d0).1.any (·.absent) = false := by
      rw [List.any_eq_false]
      intro m hm
      rw [came m hm]
      decide
    have returned := parityReturned.eq_1 s.ctl st raw members d0
    rw [found] at returned
    dsimp only at returned
    rw [if_neg (by rw [out]; decide), noneAbsent, ← hd1] at returned
    refine ⟨fun once good => ?_, fun is again others rebuilt => ?_⟩
    · rw [once, if_neg (by simp), if_pos (by rw [good]; rfl)] at returned
      change execOldParityReadReturn st raw members ecc s = _
      exact onDp_step (by rw [← hd0, returned])
    · have noParity : (takeMops (.oldParity x.id) d0).1.any (fun m => m.chan = parityChan (stripeRow st)) = false := by
        rw [List.any_eq_false]
        intro m hm
        simpa using others m hm
      rw [again, noParity, if_pos (by decide), if_neg (by decide), if_neg (by decide), rebuilt] at returned
      change execOldParityReadReturn st raw members ecc s = _
      exact onDp_step (by rw [← hd0, returned])

end Sys2Proof.Laws
end
section
/-! PROOF. Background work, rewrites, harrow reads and the cleaner go on (R85, R97, R120 to R122, R141, R168). -/

namespace Sys2Proof.Laws

open Sys2Proof.Machine

/-- The first of a range at which a search finds anything. -/
theorem findSome_range {α : Type} {f : Nat → Option α} {n p : Nat} {x : α} (below : p < n) (here : f p = some x)
    (before : ∀ q < p, f q = none) : (List.range n).findSome? f = some x := by
  obtain ⟨k, rfl⟩ : ∃ k, n = p + (k + 1) := ⟨n - p - 1, by omega⟩
  have none_ : (List.range p).findSome? f = none := List.findSome?_eq_none_iff.2 fun q hq => before q (List.mem_range.1 hq)
  rw [List.range_add, List.findSome?_append, none_, List.range_succ_eq_map]
  simp [here]

/-- Settles O30: the first work by priority is begun; a rewrite, a harrow read and the cleaner go on by their guards. -/
theorem backgroundWorkAndCleaningGoOn : Obligations.BackgroundWorkAndCleaningGoOn := by
  unfold Obligations.BackgroundWorkAndCleaningGoOn
  refine ⟨fun s => ⟨fun hbm => rfl, fun p d serves hp takes before => ?_,
      fun page r j k raw i peers d1 found out next hk read => ?_,
      fun k x m raw peers st o dec noScan found kind owner came hdec good few margin => ?_⟩,
    fun s => ⟨fun held d k hd serves oldest due => ?_, fun t => ⟨_, rfl, rfl, fun x => ?_, rfl⟩⟩⟩
  · have steps : backgroundStep s.ctl s.dp = d := by
      rw [backgroundStep, serves, findSome_range hp takes before]
      rfl
    change execBackgroundWork [] s = _
    refine onDp_step ?_
    rw [withHbm]
    dsimp only
    rw [steps, List.zip_nil_right]
    rfl
  · change execRewriteCopyReturn page raw peers s = _
    refine onDp_step ?_
    rw [copyReturned, found]
    dsimp only
    rw [out, if_neg (by decide), next]
    dsimp only
    rw [← hk, read]
  · change execHarrowReadReturn k raw peers s = _
    refine onDp_step ?_
    rw [patrolReturned, noScan]
    dsimp only
    rw [harrowReturned, found]
    dsimp only
    rw [kind]
    dsimp only
    rw [owner, if_neg (fun h => h rfl), came, if_neg (show ¬false = true by decide), if_neg (show ¬false = true by decide), ← hdec,
      if_pos good, if_neg]
    rw [margin]
    rintro (many | bad)
    · omega
    · exact absurd bad (by decide)
  · change execCleaner held s = _
    refine onDp_step ?_
    rw [← hd, cleanStep, serves, oldest]
    dsimp only
    rw [if_neg (by decide), if_pos due]
  · change x ∈ s.dp.lc.trackers.filter _ ↔ _
    rw [List.mem_filter, decide_eq_true_iff]

end Sys2Proof.Laws
end
section
/-! PROOF. The power inputs, by mode (R18, R349, R356 to R360). -/

namespace Sys2Proof.Laws

open Sys2Proof.Machine

/-- A part in service is awake, in a mode with host service, and not going down. -/
theorem serving_parts {d : Dp} (serves : serving d = true) :
    awake d = true ∧ (d.sup.mode = .serve ∨ d.sup.mode = .fallow) ∧ d.sup.downActive = false := by
  obtain ⟨mode, up⟩ : (d.sup.mode = .serve ∨ d.sup.mode = .fallow) ∧ d.sup.downActive = false := by
    simpa [serving] using serves
  refine ⟨?_, mode, up⟩
  obtain h | h := mode <;> simp [awake, h, up]

/-- A mode with host service is no other. -/
theorem serving_mode {d : Dp} (serves : serving d = true) {m : Mode} (other : m ≠ .serve ∧ m ≠ .fallow) : ¬ d.sup.mode = m := by
  obtain ⟨-, h | h, -⟩ := serving_parts serves <;> rw [h]
  · exact fun e => other.1 e.symm
  · exact fun e => other.2 e.symm

/-- A drain asked for in service begins, or waits for the isolation cells (R18, R356). -/
theorem requestDrain_serving {c : Ctl} {cause : BitVec 8} {d : Dp} (serves : serving d = true) :
    requestDrain c cause d = if d.sup.isoReleased then beginDrain c cause d
      else { d with sup := { d.sup with isoDrain := some (drainFirst d.sup.isoDrain cause) } } := by
  rw [requestDrain, (serving_parts serves).1, if_neg (by decide), if_neg (serving_mode serves (by decide))]
  cases d.sup.isoReleased <;> rfl

/-- A warm reset begins its RISE, unlocked, or goes on cleaning with all as it was (R360). -/
theorem tryWarmRise_result (c : Ctl) (d : Dp) :
    ((tryWarmRise c d).2.sup.mode = .rise ∧ (tryWarmRise c d).1.cfgLocked = false ∧ (tryWarmRise c d).2.glb.riseStep = 3) ∨
      tryWarmRise c d = (c, d) := by
  unfold tryWarmRise
  split
  · obtain ⟨⟨m, lock⟩, mode, step, -⟩ := startWarmRise_parts 0x07 c d
    exact .inl ⟨mode, by rw [lock]; rfl, step⟩
  · exact .inr rfl

/-- Settles O35: each input, by the mode of the part. -/
theorem powerInputsActByMode : Obligations.PowerInputsActByMode := by
  unfold Obligations.PowerInputsActByMode
  intro s aux
  refine ⟨fun d1 high serves hd => ?_, fun low drain => ?_, fun off noMr => ?_, ?_, fun low => ?_, fun serves up iso live => ?_,
    fun ms alive least most off => ?_, fun alive => ?_, fun high serves iso noDrain => ?_, fun low off fell => ?_⟩
  · have notOff : decide (s.dp.sup.mode = .off) = false := decide_eq_false (serving_mode serves (by decide))
    have fails : powerFails s.ctl s.dp = requestDrain s.ctl 0x02 d1 := by
      rw [powerFails, aux, high, if_neg (by decide)]
      dsimp only
      rw [notOff, if_neg (serving_mode serves (by decide)), hd]
    have serves1 : serving d1 = true := by rw [← hd]; exact serves
    have iso1 : d1.sup.isoReleased = s.dp.sup.isoReleased := by rw [← hd]
    rw [requestDrain_serving serves1, iso1] at fails
    refine ⟨fun iso => ?_, fun iso => ?_⟩
    · change execPwrFailNAsserted s = _
      exact onDp_step (by rw [fails, if_pos iso])
    · change execPwrFailNAsserted s = _
      exact onDp_step (by rw [fails, if_neg (Bool.eq_false_iff.1 iso)])
  · change execPwrFailNDeasserted s = _
    exact onDp_step (by rw [powerReturns, aux, low, if_neg (by decide)]; dsimp only; rw [if_pos (.inl drain)])
  · change execMrN false s = _
    exact onDp_step (by rw [if_neg (by decide), manualReset, aux, noMr, if_neg (by decide)]; dsimp only; rw [if_pos off])
  · rfl
  · simp [mayRise, low]
  · change execSvcBtnPress s = _
    refine onDp_step ?_
    rw [buttonPress, aux, if_neg (by decide)]
    dsimp only
    rw [live]
    exact if_pos (show (!false && awake s.dp && s.dp.sup.isoReleased && linkUp s.dp) = true by
      rw [(serving_parts serves).1, iso, up]; rfl)
  · change execSvcBtnRelease ms s = _
    refine onDp_step ?_
    rw [buttonRelease, aux, alive, if_neg (by decide), if_neg (by decide), if_pos ⟨least, most⟩, if_pos off]
  · change execSvcBtnHeld8s s = _
    exact onDp_step (by rw [aux, alive]; rfl)
  · have isAwake := (serving_parts serves).1
    have asserts := perstAsserts.eq_1 s.ctl s.dp
    rw [aux, high, if_neg (by decide)] at asserts
    dsimp only at asserts
    rw [if_neg (serving_mode serves (by decide)), isAwake, iso, noDrain, if_neg (by decide),
      if_neg (serving_mode serves (by decide))] at asserts
    change ∃ t, execPerstNAsserted s = _ ∧ _
    rw [execPerstNAsserted, onBoth, asserts]
    refine ⟨_, rfl, ?_⟩
    obtain rises | cleans := tryWarmRise_result _ _
    · exact .inl rises
    · rw [cleans]
      exact .inr ⟨rfl, rfl, rfl⟩
  · change execPerstNDeasserted s = _
    refine onDp_step ?_
    rw [aux, low, if_neg (by decide)]
    dsimp only
    rw [off, fell]
    rfl

end Sys2Proof.Laws
end
section
/-! PROOF. A seal that would be written to a partition in use (R110, R223). -/

namespace Sys2Proof.Laws

open Sys2Proof.Machine

theorem bgAccess_mrg (c : Ctl) (h : HStr) (elem : Nat) (d : Dp) : (bgAccess c h elem d).mrg = d.mrg := by
  unfold bgAccess hbmUpdate
  obtain ⟨-, -, mrg, -⟩ := beside_parts (beside_hbmSend c _ (touch h (elem / h.perWord) d))
  exact mrg

/-- A programme carried out outside the schedule leaves the programmes that wait. -/
theorem wholePrg_mrg (c : Ctl) (loc : Nat × Nat × Nat) (i : Image) (page : Option Nat) (d : Dp) :
    (wholePrg c loc i page d).mrg = d.mrg := by
  unfold wholePrg
  obtain ⟨-, -, mrg, -⟩ := beside_parts (beside_trans (beside_pmuCount c (1 + loc.2.2) 0x11 1 (emit (.prgData loc.2.2 (writeBurst i))
    (portSend loc.2.2 2 (setWarp loc.1) (prgWord (loc.1 % 32) loc.2.1) (sampleWear c (mkStripe loc.1 loc.2.1) page d))))
    (beside_pmuBytes (2 + loc.2.2) 288 _))
  refine mrg.trans ?_
  show (sampleWear c (mkStripe loc.1 loc.2.1) page d).mrg = d.mrg
  unfold sampleWear
  extract_lets x n mh d1 heat d2
  have first : d1.mrg = d.mrg := by
    unfold d1
    split
    · exact bgAccess_mrg ..
    · rfl
  show d2.mrg = d.mrg
  unfold d2
  clear_value d1
  split
  · split
    · exact (bgAccess_mrg ..).trans first
    · exact first
  · exact first

/-- A journal stripe issued has no programme left (R110). -/
theorem issueStripe_progs (c : Ctl) (seq : Nat) (d : Dp) :
    ∀ p ∈ (issueStripe c seq d).mrg.progs, p ∈ d.mrg.progs ∧ ∀ j, p.kind ≠ .journal seq j := by
  have kept (l : List Prog) (e : Dp) (h : e.mrg = d.mrg) :
      (l.foldl (fun d p => wholePrg c (p.set, p.row, p.chan) p.image none (noteMeta p d)) e).mrg = d.mrg := by
    refine List.foldlRecOn (motive := fun e : Dp => e.mrg = d.mrg) l _ h fun (e : Dp) he p _ => (wholePrg_mrg ..).trans ?_
    unfold noteMeta
    split <;> exact he
  intro p hp
  unfold issueStripe dropProgs at hp
  dsimp only at hp
  rw [kept _ d rfl] at hp
  obtain ⟨mem, other⟩ := List.mem_filter.1 hp
  refine ⟨mem, fun j hj => ?_⟩
  rw [hj] at other
  simp at other

/-- A drain that is quiet and has nothing left to log, with a partition reset in progress where its seal will go. -/
def sealBlocked : State :=
  ⟨Ctl.reset, { Dp.reset with
    sup := { Sup.reset with mode := .drain, isoReleased := true }
    mops := [⟨0, 15, 0, 0, 0, .reset 0, 0, some 0, false⟩] }, []⟩

/-- The seal stripe of a drain, queued. -/
def sealQueued (d : Dp) : Dp :=
  appendStripe (.sealRec (drainNo d) d.sup.drainStripes (elapsed d.sup.drainAt d.sup.clock / 1000) d.sup.drainCause.toNat) d

/-- A seal waits while a partition of its programmes is not free (R223). -/
theorem sealDrain_waits {c : Ctl} {d : Dp} {v : Bool}
    (waits : ((sealQueued d).mrg.progs.all fun p => p.st ≠ .pending || partitionFree d p.chan p.set) = false) :
    sealDrain v c d = (c, d) := by
  unfold sealDrain
  split
  · rfl
  · exact if_pos (show (!((sealQueued d).mrg.progs.all fun p => p.st ≠ .pending || partitionFree d p.chan p.set)) = true by
      rw [waits]; rfl)

theorem sealBlocked_quiet : drainQuiet sealBlocked.dp = true ∧ (drainNext sealBlocked.dp).isSome = false := by decide +kernel

theorem sealQueued_waits :
    ((sealQueued sealBlocked.dp).mrg.progs.all fun p => p.st ≠ .pending || partitionFree sealBlocked.dp p.chan p.set) = false := by decide +kernel

theorem sealQueued_members : ((sealQueued sealBlocked.dp).mrg.progs.all fun p => match p.kind with
    | .journal n _ => n = (sealQueued sealBlocked.dp).jrn.seq
    | _ => false) = true := by decide +kernel

theorem sealBlocked_uncounted : cntValue (cntInc 2 sealBlocked.ctl) 2 ≠ cntValue sealBlocked.ctl 2 := by decide +kernel

/-- Its seal waits, until the partition is free (R223). -/
theorem sealBlocked_holds : exec (.sealRecord true) sealBlocked = .next sealBlocked := by
  change execSealRecord true sealBlocked = _
  rw [execSealRecord, onBoth, sealDrain_waits sealQueued_waits]

theorem next_ctl {s t : State} (same : (.next s : Host.Outcome State Fault Refusal) = .next t) : t.ctl = s.ctl :=
  congrArg State.ctl (Host.Outcome.next.inj same).symm

/-- Refutes O36: the seal's own members are what waits for their partitions (R110, R223); once they are issued none of
them is left among the programmes whose partitions the statement asks to be free. In `sealBlocked` a partition of the seal
is being reset: the seal waits and no drain is counted. -/
theorem not_drainSealsAndPowerGoesDown : ¬ Obligations.DrainSealsAndPowerGoesDown := by
  unfold Obligations.DrainSealsAndPowerGoesDown
  intro h
  obtain ⟨-, sealed, -⟩ := h.1 sealBlocked
  obtain ⟨d1, d2, hd1, hd2, goes⟩ := sealed sealBlocked_quiet.1 rfl
    (Option.isSome_eq_false_iff.1 sealBlocked_quiet.2 |> Option.isNone_iff_eq_none.1) rfl rfl
  have queued : d1 = sealQueued sealBlocked.dp := hd1
  rw [queued] at hd2 goes
  have none_ (p : Prog) (hp : p ∈ d2.mrg.progs) (_ : p.st = .pending) : partitionFree sealBlocked.dp p.chan p.set = true := by
    rw [hd2] at hp
    obtain ⟨mem, other⟩ := issueStripe_progs _ _ _ p hp
    have own := List.all_eq_true.1 sealQueued_members p mem
    cases hk : p.kind <;> rw [hk] at own <;> try cases own
    next n j =>
      exact absurd hk (by rw [of_decide_eq_true own]; exact other j)
  have same := goes none_
  rw [sealBlocked_holds] at same
  generalize beginDown _ _ _ = e at same
  have uncounted := next_ctl same
  dsimp only at uncounted
  exact sealBlocked_uncounted (by rw [uncounted])

end Sys2Proof.Laws
end
section
/-! PROOF. DORMANT and FALLOW are entered and left (R153, R244, R352 to R354). -/

namespace Sys2Proof.Laws

open Sys2Proof.Machine

theorem giveCredit_leaves (c : Ctl) (d : Dp) : (giveCredit c d).sup = d.sup ∧ (giveCredit c d).hbm = d.hbm ∧
    (giveCredit c d).hif.l1 = d.hif.l1 := by
  obtain ⟨b, o, -, -, e⟩ | ⟨b, o, e⟩ := giveCredit_result c d <;> rw [e] <;> exact ⟨rfl, rfl, rfl⟩

/-- Pool entries returned give credits and change nothing else of the part. -/
theorem returnEntries_leaves (c : Ctl) (n : Nat) (d : Dp) : (returnEntries c n d).sup = d.sup ∧
    (returnEntries c n d).hbm = d.hbm ∧ (returnEntries c n d).hif.l1 = d.hif.l1 := by
  induction n generalizing d with
  | zero => exact ⟨rfl, rfl, rfl⟩
  | succ n ih =>
    rw [returnEntries]
    split
    · exact ⟨rfl, rfl, rfl⟩
    · generalize he : ({ d with hif := _ } : Dp) = e
      obtain ⟨sup, hbm, l1⟩ := ih (giveCredit c e)
      obtain ⟨supG, hbmG, l1G⟩ := giveCredit_leaves c e
      refine ⟨(sup.trans supG).trans ?_, (hbm.trans hbmG).trans ?_, (l1.trans l1G).trans ?_⟩ <;> rw [← he]

/-- What the units do as they serve again leaves the supervisor but for the wake, and brings the HBM and the link back (R214, R236). -/
theorem unitsAwake_parts (d : Dp) : (unitsAwake d).sup = { d.sup with waking := false } ∧ (unitsAwake d).hbm.state = 1 ∧
    (unitsAwake d).hif.l1 = false ∧ (unitsAwake d).acc = d.acc := by
  unfold unitsAwake
  obtain ⟨chans, mops, next, e⟩ := everyChannel_media (fun x => { x with standby := false }) (resumeHalted d)
  rw [e]
  exact ⟨rfl, rfl, rfl, rfl⟩

theorem recorded_hbm {d e : Dp} (h : Recorded d e) : e.hbm = d.hbm :=
  show (withoutRecords e).hbm = (withoutRecords d).hbm from congrArg Dp.hbm h

theorem recorded_l1 {d e : Dp} (h : Recorded d e) : e.hif.l1 = d.hif.l1 :=
  show (withoutRecords e).hif.l1 = (withoutRecords d).hif.l1 from congrArg (fun x : Dp => x.hif.l1) h

/-- Service resumed with no request held is the mode before, for the cause of the exit (R354). -/
theorem resumeService_parts {c : Ctl} {d : Dp} (none_ : d.acc.held = []) : (resumeService c d).sup =
    { d.sup with mode := d.sup.back, cause := d.sup.exitCause } ∧ (resumeService c d).hbm = d.hbm ∧
      (resumeService c d).hif.l1 = d.hif.l1 := by
  rw [resumeService, none_, resumeAll]
  obtain ⟨-, -, sup⟩ := setMode_parts d.sup.back d.sup.exitCause d
  have entered := setMode_recorded d.sup.back d.sup.exitCause d
  have hbm := recorded_hbm entered
  have l1 := recorded_l1 entered
  generalize setMode d.sup.back d.sup.exitCause d = e at sup hbm l1
  dsimp only
  split
  · obtain ⟨supR, hbmR, l1R⟩ := returnEntries_leaves c e.hif.unreturned { e with acc := { e.acc with held := [] } }
    exact ⟨supR.trans sup, hbmR.trans hbm, l1R.trans l1⟩
  · exact ⟨sup, hbm, l1⟩

/-- A request for DORMANT that nothing forbids waits (R342). -/
theorem requestDormant_waits {cause : BitVec 8} {d : Dp}
    (may : (serving d && d.sup.isoReleased && !d.sup.warm && !d.sup.fallowing && d.sup.dormReq.isNone) = true) :
    requestDormant cause d = { d with sup := { d.sup with dormReq := some cause } } := if_pos may

/-- Outside DORMANT the link keeps its state (R244). -/
theorem enterSub_up {permits : LinkSub} {d : Dp} (up : ¬ d.sup.mode = .dormant) : enterSub permits d = d := by
  rw [enterSub, decide_eq_false up, Bool.and_false]
  rfl

/-- Settles O37: each event, in the mode and with the request that let it act. -/
theorem dormantAndFallowAreEntered : Obligations.DormantAndFallowAreEntered := by
  unfold Obligations.DormantAndFallowAreEntered
  refine fun s => ⟨fun up serves iso cold stays free => ?_, fun d3 => ?_, fun sub enters serves clean => ?_,
    fun k up dormant asleep => ?_, fun done noDrain cold none_ => ?_, fun serve up cold iso cond => ?_⟩
  · change execD3hot s = _
    refine onDp_step ?_
    have may : (serving s.dp && s.dp.sup.isoReleased && !s.dp.sup.warm && !s.dp.sup.fallowing && s.dp.sup.dormReq.isNone) = true := by
      rw [serves, iso, cold, stays, free]
      rfl
    rw [if_pos up, requestDormant_waits (by exact may), enterSub_up (by exact serving_mode serves (by decide))]
  · change execReturnToD0 s = _
    exact onDp_step (by rw [if_pos d3])
  · change execDormantEntry sub s = _
    refine onDp_step ?_
    rw [dormantEntry, enters]
    dsimp only
    rw [Bool.true_or, if_pos rfl, enters, serves, clean]
    rfl
  · change ∃ t, execDormantExit k s = _ ∧ _
    refine ⟨_, onDp_step rfl, ?_⟩
    rw [dormantExit, if_neg (by rw [up]; decide), if_pos dormant, beginWake, if_neg (by rw [asleep]; decide)]
    obtain ⟨chans, mops, next, e⟩ := wakeMedia_media (moveVcore (vset s.ctl) 0 { s.dp with
      sup := { s.dp.sup with waking := true, exitCause := wakeCause k }
      hif := { s.dp.hif with sub := 0, clkReq := true } })
    rw [e]
    exact ⟨rfl, rfl, dormant, rfl, rfl, rfl, rfl⟩
  · change ∃ t, execDormantExitComplete s = _ ∧ _
    rw [execDormantExitComplete, onBoth, dormantOver, if_pos done, noDrain]
    dsimp only
    rw [cold, if_neg (by decide)]
    refine ⟨_, rfl, rfl, ?_⟩
    obtain ⟨sup, state, l1, acc⟩ := unitsAwake_parts s.dp
    obtain ⟨sup2, hbm2, l2⟩ := resumeService_parts (c := s.ctl) (d := unitsAwake s.dp) (by rw [acc]; exact none_)
    dsimp only
    rw [sup2, hbm2, l2, sup]
    exact ⟨rfl, rfl, rfl, state, l1⟩
  · change execFallowEntry s = _
    refine onDp_step (if_pos ?_)
    rw [serve, up, cold, iso, cond]
    rfl

end Sys2Proof.Laws
end
section
/-! PROOF. Readings, zones and voltages act (R25, R224, R231, R235, R238, R365, R373, R374, R377). -/

namespace Sys2Proof.Laws

open Sys2Proof.Machine

theorem recorded_fab {d e : Dp} (h : Recorded d e) : e.fab = d.fab :=
  show (withoutRecords e).fab = (withoutRecords d).fab from congrArg Dp.fab h

/-- FALLOW left keeps the set point of VDD_CORE (R355). -/
theorem leaveFallow_setPoint (c : Ctl) (d : Dp) : (leaveFallow c d).fab.setPoint = d.fab.setPoint := by
  unfold leaveFallow
  dsimp only
  refine (congrArg Fab.setPoint (recorded_fab (setMode_recorded ..))).trans ?_
  rfl

/-- One step of VDD_CORE (R25): the set point moves, the target stays unless FALLOW is being left. -/
theorem vcoreSteps_fab {c : Ctl} {d : Dp} (live : fabricLive d = true) (moving : d.fab.setPoint ≠ d.fab.target) :
    (d.sup.fallowing = false → (vcoreSteps c d).fab.target = d.fab.target) ∧
      (vcoreSteps c d).fab.setPoint = if d.fab.setPoint < d.fab.target then min d.fab.target (d.fab.setPoint + 5)
        else max d.fab.target (d.fab.setPoint - 5) := by
  unfold vcoreSteps
  rw [live, decide_eq_false moving, if_neg (by decide)]
  extract_lets v fab d1
  obtain ⟨pmu, hif, out, counted⟩ := pmuCount_frame c 21 0x13 1 { d with fab := { fab with setPoint := v } }
  have fab1 : d1.fab = { d.fab with setPoint := v } := by
    unfold d1
    rw [counted]
    rfl
  have sup1 : d1.sup = d.sup := by
    unfold d1
    rw [counted]
    rfl
  clear_value d1
  refine ⟨fun stays => ?_, ?_⟩
  · rw [sup1, stays, Bool.false_and, Bool.false_and, if_neg (by decide), fab1]
  · split
    · rw [leaveFallow_setPoint, fab1]
    · rw [fab1]

/-- Settles O38: a TMP response by what came, and each event of the supply by its guards. -/
theorem readingsAndVoltagesAct : Obligations.ReadingsAndVoltagesAct := by
  unfold Obligations.ReadingsAndVoltagesAct
  refine ⟨fun s => ⟨fun k w n m x v d d0 hn hd out found whole hd0 => ⟨fun d1 ok hd1 hv => ?_, fun d1 bad hd1 => ?_⟩,
      fun l d1 live hd1 few => ⟨by rw [hd1]; rfl, ?_⟩⟩,
    fun s => ⟨fun up aux => ?_, rfl, fun z f d1 live up hz hd1 => ⟨fun serve high => ?_, fun low => ?_⟩, fun live moving => ?_,
      fun mv d1 live hd1 => ⟨fun serve low => ?_, fun near => ?_⟩⟩⟩
  · have came : x.absent = false := by
      simp only [shortOk, Bool.and_eq_true, Bool.not_eq_true'] at ok
      exact ok.1.1
    have same : d = s.dp := by rw [hd, ok, if_neg (by simp)]
    have returned := tmpReturned.eq_1 s.ctl k w x s.dp
    rw [came, ok, if_neg (by simp), ← same, found] at returned
    dsimp only at returned
    rw [← hn, whole, if_neg Bool.false_ne_true, if_neg Bool.false_ne_true, if_neg (by decide), ← hd0, ← hv] at returned
    refine ⟨fun good => ?_, fun bad => ?_⟩
    · rw [if_pos good] at returned
      change execTmpResponse k w x s = _
      refine onDp_step ?_
      rw [← same, returned, hd1]
      rfl
    · rw [if_neg (by rw [bad]; decide)] at returned
      change execTmpResponse k w x s = _
      refine onDp_step ?_
      rw [← same, returned, hd1]
      rfl
  · have recovers : (if !x.absent && !shortOk x && s.dp.mops.any (fun m => m.chan = k && m.kind = .temperature w && m.issued.isSome)
        then slotFails s.ctl k 0xFF s.dp else s.dp) = d := by
      have some_ : s.dp.mops.any (fun m => m.chan = k && m.kind = .temperature w && m.issued.isSome) = true :=
        List.any_eq_true.2 ⟨m, List.mem_of_find?_eq_some out, by simpa using List.find?_some out⟩
      rw [hd, bad, some_]
      cases x.absent <;> rfl
    have returned := tmpReturned.eq_1 s.ctl k w x s.dp
    rw [recovers, found] at returned
    dsimp only at returned
    rw [← hn, whole, if_neg Bool.false_ne_true, bad, if_pos (by decide), ← hd0] at returned
    change execTmpResponse k w x s = _
    refine onDp_step (returned.trans ?_)
    rw [hd1]
    rfl
  · change execZoneUpdate l s = _
    refine onDp_step ?_
    rw [zonesUpdate, live, if_neg (by decide)]
    dsimp only
    rw [← hd1, decide_eq_false (show ¬ 5 ≤ deadZones d1 by omega), Bool.and_false, if_neg (by decide)]
  · change execThermTripN s = _
    refine onDp_step ?_
    rw [thermTrips, decide_eq_false up, aux, if_neg (by decide)]
  · change execSpeedMeasurement z f s = _
    refine onDp_step ?_
    rw [measureSpeed, live, decide_eq_false up, decide_eq_false (show ¬ 8 ≤ z by omega), if_neg (by decide), ← hd1, serve,
      decide_eq_true high]
    rfl
  · change execSpeedMeasurement z f s = _
    refine onDp_step ?_
    rw [measureSpeed, live, decide_eq_false up, decide_eq_false (show ¬ 8 ≤ z by omega), if_neg (by decide), ← hd1,
      decide_eq_false (show ¬ 0x1000 < f.toNat by omega), Bool.and_false]
    rfl
  · change ∃ t, execVcoreStep s = _ ∧ _
    refine ⟨_, onDp_step rfl, rfl, ?_⟩
    obtain ⟨target, setPoint⟩ := vcoreSteps_fab (c := s.ctl) live moving
    refine ⟨target, fun rises => setPoint.trans (if_pos rises), fun falls => setPoint.trans (if_neg (by omega))⟩
  · change execAvsReadback mv s = _
    refine onDp_step ?_
    rw [readBack, live, if_neg (by decide), ← hd1, serve, decide_eq_true low]
    rfl
  · change execAvsReadback mv s = _
    refine onDp_step ?_
    rw [readBack, live, if_neg (by decide), ← hd1, decide_eq_false (show ¬ mv.toNat + 20 < s.dp.fab.setPoint by omega), Bool.and_false]
    rfl

end Sys2Proof.Laws
end
section
/-! PROOF. The processors' heartbeats and reloads, and the executors of the actions (R18, R32, R168, R169, R280, R395; R162,
R172, R321, R328). -/

namespace Sys2Proof.Laws

open Sys2Proof.Machine

/-- An image that fails marks its slot, and leaves the processors and the marks there are. -/
theorem imageFails_parts (n : Nat) (d : Dp) : (imageFails n d).que = d.que ∧
    (imageFails n d).sec.aFail = (d.sec.aFail || n = 0) ∧ (imageFails n d).sec.bFail = (d.sec.bFail || n = 1) := by
  unfold imageFails
  obtain ⟨flt, e⟩ := raise_frame 0x68 0x39 0 n 0x08 0 { d with sec :=
    { d.sec with aFail := d.sec.aFail || n = 0, bFail := d.sec.bFail || n = 1 } }
  rw [e]
  exact ⟨rfl, rfl, rfl⟩

/-- A boot from slot A where its image verifies (R395). -/
theorem bootSlot_first {c : Ctl} {b : Option FwImage} {d : Dp} {i : FwImage} (select : d.pst.dev.fwSelect = false)
    (ok : imageOk c i = true) : bootSlot c (some i) b d = (some (0, i), d) := by
  unfold bootSlot
  rw [select, Bool.false_and]
  exact if_pos ok

/-- A boot where neither slot verifies marks both (R395). -/
theorem bootSlot_none {c : Ctl} {a b : Option FwImage} {d : Dp} (select : d.pst.dev.fwSelect = false)
    (badA : slotOk c a = false) (badB : slotOk c b = false) : bootSlot c a b d = (none, imageFails 1 (imageFails 0 d)) := by
  unfold bootSlot
  rw [select, Bool.false_and]
  exact (if_neg (Bool.eq_false_iff.1 badA)).trans (if_neg (Bool.eq_false_iff.1 badB))

/-- Settles O40: each event of a processor and each action, with its guards met. -/
theorem processorsAndActionsGoOn : Obligations.ProcessorsAndActionsGoOn := by
  unfold Obligations.ProcessorsAndActionsGoOn
  refine ⟨fun s mp => ⟨fun d1 runs up iso hd => ⟨?_, fun e => ?_⟩, fun reload d1 hmp runs on up iso hd => ?_,
      fun a b waits fetcher select => ⟨fun i ha ok => ?_, fun badA badB => ?_⟩, fun waits other halted a b => ?_⟩,
    fun s x rest => ⟨fun health more queued runs => ?_, fun queued serves => ?_, fun l queued serves place => ?_⟩⟩
  · have beats : ¬(s.dp.que.mps.getD mp 1 ≠ 0 ∨ s.dp.sup.mode = .dormant ∨ s.dp.sup.isoReleased = false) := by
      rw [runs, iso]
      simp [up]
    change execHeartbeat mp none s = _
    refine onDp_step ?_
    rw [heartbeats, if_neg beats, hd]
  · have beats : ¬(s.dp.que.mps.getD mp 1 ≠ 0 ∨ s.dp.sup.mode = .dormant ∨ s.dp.sup.isoReleased = false) := by
      rw [runs, iso]
      simp [up]
    change execHeartbeat mp (some e) s = _
    refine onDp_step ?_
    rw [heartbeats, if_neg beats, hd]
  · change execHeartbeatLost mp reload s = _
    refine onDp_step ?_
    rw [beatLost, runs, decide_eq_false on, decide_eq_false up, iso, decide_eq_false (show ¬ 4 ≤ mp by omega), if_neg (by decide), hd]
  · have goes : ¬(s.dp.que.mps.getD mp 1 ≠ 3 ∨ mp ≠ 0 ∧ s.dp.que.mps.getD 0 1 ≠ 0) := by
      rintro (h | ⟨h, h'⟩)
      · exact h waits
      · exact h' (fetcher h)
    change execFirmwareReload mp a b s = _
    refine onDp_step ?_
    rw [reloads, if_neg goes, ha, bootSlot_first (by exact select) ok]
  · have goes : ¬(s.dp.que.mps.getD mp 1 ≠ 3 ∨ mp ≠ 0 ∧ s.dp.que.mps.getD 0 1 ≠ 0) := by
      rintro (h | ⟨h, h'⟩)
      · exact h waits
      · exact h' (fetcher h)
    change ∃ t, execFirmwareReload mp a b s = _ ∧ _
    refine ⟨_, onDp_step rfl, rfl, ?_⟩
    rw [reloads, if_neg goes, bootSlot_none (by exact select) badA badB]
    obtain ⟨que0, a0, -⟩ := imageFails_parts 0 { s.dp with sec := { s.dp.sec with imgA := a, imgB := b } }
    obtain ⟨que1, a1, b1⟩ := imageFails_parts 1 (imageFails 0 { s.dp with sec := { s.dp.sec with imgA := a, imgB := b } })
    refine ⟨?_, ?_, ?_⟩
    · exact congrArg (fun q : Que => setAt q.mps mp 4) (que1.trans que0)
    · refine a1.trans ?_
      rw [a0]
      simp
    · refine b1.trans ?_
      simp
  · change execFirmwareReload mp a b s = _
    refine onDp_step (d := s.dp) ?_
    rw [reloads, if_pos (.inr ⟨other, halted⟩)]
  · change execLog s = _
    refine onDp_step ?_
    rw [logs, queued]
    dsimp only
    rw [runs, if_neg (by decide)]
  · change execPoison s = _
    refine onDp_step ?_
    rw [poisons, queued]
    dsimp only
    rw [if_pos serves]
  · change execRetire s = _
    refine onDp_step ?_
    rw [retires, queued]
    dsimp only
    rw [serves, place, if_neg (by decide)]

end Sys2Proof.Laws
end
section
/-! PROOF. The link and its resets, and Global Persistent Flush (R119, R242, R244, R246, R255, R256, R262, R450). -/

namespace Sys2Proof.Laws

open Sys2Proof.Machine

/-- What training sets of the link. -/
def linkSide (d : Dp) : BitVec 4 × BitVec 5 × BitVec 2 × BitVec 3 × Nat :=
  (d.hif.rate, d.hif.width, d.hif.flit, d.hif.ltssm, d.hif.downgrades)

theorem advertise_linkSide (c : Ctl) (d : Dp) : linkSide (advertise c d) = linkSide d := by
  unfold advertise
  split <;> rfl

/-- What is trained is in force, counted where it is less than x16 at 64 GT/s (R242). -/
theorem linkTrained_result {rate : BitVec 4} {width : BitVec 5} {flit : BitVec 2} {c : Ctl} {d : Dp}
    (supported : linkSupported rate width flit = true) (perst : d.sup.perstN = true) (serves : serving d = true)
    (refclk : d.sup.refclk = true) (up : d.sup.downActive = false) :
    (linkTrained rate width flit c d).hif.rate = rate ∧ (linkTrained rate width flit c d).hif.width = width ∧
      (linkTrained rate width flit c d).hif.flit = flit ∧ (linkTrained rate width flit c d).hif.ltssm = 3 ∧
      (linkTrained rate width flit c d).hif.downgrades =
        if rate = 6 ∧ width = 16 then d.hif.downgrades else satInc 0xFF d.hif.downgrades := by
  have trains : ¬(!linkSupported rate width flit || !d.sup.perstN || d.sup.mode = .off || d.sup.downActive || !d.sup.refclk ||
      (d.sup.mode = .rise && d.glb.riseStep < 2)) = true := by
    rw [supported, perst, up, refclk, decide_eq_false (serving_mode serves (m := .off) (by decide)),
      decide_eq_false (serving_mode serves (m := .rise) (by decide))]
    simp
  unfold linkTrained
  rw [if_neg trains]
  extract_lets was full h d1 h2 d2 d3
  have counted : (if full = true then d.hif.downgrades else satInc 0xFF d.hif.downgrades) =
      if rate = 6 ∧ width = 16 then d.hif.downgrades else satInc 0xFF d.hif.downgrades := by
    simp only [full, Bool.and_eq_true, decide_eq_true_eq]
  have link3 : linkSide d3 = linkSide d2 := by
    unfold d3
    split
    · rfl
    · obtain ⟨flt, e⟩ := raise_frame 0x40 0x1B 0 (16 * rate.toNat + log2Width width.toNat) 0xFF noAccess d2
      rw [e]
      rfl
  have link2 : linkSide d2 = (rate, width, flit, 3, if full = true then d.hif.downgrades else satInc 0xFF d.hif.downgrades) := rfl
  clear_value d3
  have trained : linkSide (if ((!was || !d.hif.memActive) && d3.hif.memActive) = true then advertise c d3 else d3) =
      (rate, width, flit, 3, if rate = 6 ∧ width = 16 then d.hif.downgrades else satInc 0xFF d.hif.downgrades) := by
    rw [← counted, ← link2, ← link3]
    split
    · exact advertise_linkSide c d3
    · rfl
  simpa only [linkSide, Prod.mk.injEq] using trained

/-- Phase 2 is acknowledged once every write received before it is answered (R119). -/
theorem gpfSettle_done {d : Dp} {t : Stamp} (gpf : d.hif.gpf = some t)
    (done : ∀ p ∈ d.acc.pend, p.write = true → t < p.arrived ∨ p.ans.isSome = true)
    (held : ∀ r ∈ d.acc.held, r.2.isWrite = true → t < r.1) :
    gpfSettle d = emit (.gpfAck 2) { d with hif := { d.hif with gpf := none }, lc := { d.lc with gpfClean := true } } := by
  rw [gpfSettle, gpf]
  refine if_neg ?_
  rw [Bool.or_eq_true, List.any_eq_true, List.any_eq_true]
  rintro (⟨p, hp, waits⟩ | ⟨r, hr, waits⟩)
  · simp only [Bool.and_eq_true, decide_eq_true_eq] at waits
    obtain ⟨⟨write, unanswered⟩, before⟩ := waits
    obtain later | answered := done p hp write
    · exact absurd before (Nat.not_le.2 later)
    · rw [Option.isNone_iff_eq_none.1 unanswered] at answered
      cases answered
  · simp only [Bool.and_eq_true, decide_eq_true_eq] at waits
    exact absurd waits.2 (Nat.not_le.2 (held r hr waits.1))

/-- A write received before phase 2 and not yet answered holds its acknowledgement (R119). -/
theorem gpfSettle_waits {d : Dp} {t : Stamp} (gpf : d.hif.gpf = some t)
    (waits : ∃ p ∈ d.acc.pend, p.write = true ∧ p.ans = none ∧ p.arrived ≤ t) : gpfSettle d = d := by
  obtain ⟨p, hp, write, unanswered, before⟩ := waits
  rw [gpfSettle, gpf]
  refine if_pos ?_
  rw [Bool.or_eq_true, List.any_eq_true]
  exact .inl ⟨p, hp, by simp [write, unanswered, before]⟩

/-- Settles O43: each event of the link, with its guards met. -/
theorem linkEventsAct : Obligations.LinkEventsAct := by
  unfold Obligations.LinkEventsAct
  refine fun s => ⟨fun r w f ts x hx supported perst serves refclk up => ?_, fun straps r f capped => ?_, fun r w ts hr =>
    ⟨?_, rfl, rfl⟩, fun up => ?_, fun up => ?_, fun nr nw up secure => ?_, fun nr nw r w d1 up secure hd hr hw => ?_, fun up => ?_,
    fun up => ?_, fun sub => ?_, fun sub up => ?_, rfl, fun up => ?_, fun up done held => ?_, fun up waits => ?_⟩
  · change ∃ t, execLinkTraining r w f ts s = _ ∧ _
    refine ⟨_, onDp_step rfl, rfl, ?_⟩
    rw [linkTrains, ← hx]
    exact linkTrained_result supported perst serves refclk up
  · simp only [commonRate, capped, Bool.or_true, if_true]
    exact Nat.min_le_right _ _
  · rw [trainTo, if_neg (by omega), trainTo, if_neg (by omega), trainTo, if_pos ⟨rfl, hr⟩]
  · change execFlitReplay s = _
    exact onDp_step (if_pos up)
  · change execLinkRecovery s = _
    exact onDp_step (if_pos up)
  · change execIntegrityCheckFailure true nr nw s = _
    refine onDp_step ?_
    rw [integrityFails, up, if_pos rfl, secure, if_neg (by decide), if_pos rfl]
    rfl
  · change execIntegrityCheckFailure false nr nw s = _
    refine onDp_step ?_
    rw [integrityFails, up, if_neg Bool.false_ne_true, secure, if_neg (by decide), if_neg Bool.false_ne_true]
    rw [show b2n false = 0 from rfl, ← hd, ← hr, ← hw]
  · change execFlr s = _
    rw [execFlr, onBoth, if_pos up]
    rfl
  · change execHotReset s = _
    rw [execHotReset, onBoth, hotResets, if_pos up]
    rfl
  · change execRefclkLoss s = _
    rw [execRefclkLoss, onBoth, refclkStops, if_pos sub]
    rfl
  · change execRefclkLoss s = _
    rw [execRefclkLoss, onBoth, refclkStops, if_neg sub, hotResets, if_pos (by exact up)]
    rfl
  · change execGpfPhase1 s = _
    exact onDp_step (if_pos up)
  · change execGpfPhase2 s = _
    refine onDp_step ?_
    rw [flushPhase2, if_pos up]
    exact gpfSettle_done rfl done held
  · change execGpfPhase2 s = _
    refine onDp_step ?_
    rw [flushPhase2, if_pos up]
    exact gpfSettle_waits rfl waits

end Sys2Proof.Laws
end
section
/-! PROOF. The controls of the host interface, and the DOE protocols and keys (R246, R252, R256, R258 to R265, R353, R354,
R370, R397, R398). -/

namespace Sys2Proof.Laws

open Sys2Proof.Machine

/-- Settles O44: each control on a link that is up. -/
theorem hostInterfaceControlsAct : Obligations.HostInterfaceControlsAct := by
  unfold Obligations.HostInterfaceControlsAct
  refine fun s up => ⟨⟨?_, ?_⟩, fun v hv idle => ?_, fun v hv pend => ?_, fun drs ndr => ?_, fun credits active => ?_,
    fun n base size skip iw ig lock x d1 hn free hx hd => ⟨fun ok => ?_, fun bad => ?_⟩, fun n x hn hx free => ?_⟩
  · change execBusMasterEnable true s = _
    exact onDp_step (by rw [up]; rfl)
  · change execBusMasterEnable false s = _
    exact onDp_step (by rw [up]; rfl)
  · change execVectorUnmask v s = _
    refine onDp_step ?_
    rw [if_pos up, unmaskVector, if_neg (Nat.not_le.2 hv)]
    exact if_neg (Bool.eq_false_iff.1 idle)
  · change execVectorUnmask v s = _
    refine onDp_step ?_
    rw [if_pos up, unmaskVector, if_neg (Nat.not_le.2 hv)]
    exact if_pos pend
  · change execS2mCreditReturn drs ndr s = _
    exact onDp_step (if_pos up)
  · change execCreditPacingInterval s = _
    refine onDp_step ?_
    rw [pacesCredits, credits, active, up, if_neg (by decide)]
  · change execDecoderCommit n base size iw ig skip lock s = _
    refine onDp_step ?_
    rw [← hx, commitsDecoder, free, up, decide_eq_false (Nat.not_le.2 hn), if_neg (by decide), ok, hd]
    rfl
  · change execDecoderCommit n base size iw ig skip lock s = _
    refine onDp_step ?_
    rw [← hx, commitsDecoder, free, up, decide_eq_false (Nat.not_le.2 hn), if_neg (by decide), bad]
    rfl
  · have held : (x.committed && x.lock) = false := by
      obtain h | h := free <;> simp [h]
    change execDecoderCommitClear n s = _
    refine onDp_step ?_
    rw [clearsDecoder, ← hx, held, up, decide_eq_false (Nat.not_le.2 hn)]
    rfl

/-- A DOE request outside DORMANT, to a responder that runs, is carried out after the exit it triggers (R353, R354). -/
theorem onDoe_step {live : Dp → Bool} {f : Ctl → Dp → Dp} {s : State} {d e : Dp} (up : s.dp.sup.mode ≠ .dormant)
    (runs : live s.dp = true) (exits : d = dormantExit s.ctl .doeOrSideband s.dp) (effect : f s.ctl d = e) :
    onDoe live f s = .next (s.withDp e) := by
  refine onDp_step ?_
  rw [if_neg up, if_pos runs, ← exits, effect]

/-- Settles O45: each request, by what its responder does on the state after the exit. -/
theorem doeAndKeysAreAnswered : Obligations.DoeAndKeysAreAnswered := by
  unfold Obligations.DoeAndKeysAreAnswered
  refine ⟨fun s d up exits => ⟨fun i link => ⟨fun low => ?_, fun last => ?_⟩, fun link => ?_, fun live => ?_,
      fun i live first last => ?_, fun r which live => ?_, fun off len n live inside hn => ?_, fun slot live => ?_,
      fun live room => ?_⟩,
    fun s pcie set tx k d up live exits hk => ⟨fun key => ?_, fun keyed => ?_, ?_⟩⟩
  · change execDoeDiscovery i s = _
    refine onDoe_step up link exits ?_
    obtain h | h | h : i.toNat = 0 ∨ i.toNat = 1 ∨ i.toNat = 2 := by omega
    all_goals rw [h]; rfl
  · change execDoeDiscovery i s = _
    refine onDoe_step up link exits ?_
    rw [last]
    rfl
  · change execCdatTableAccess s = _
    exact onDoe_step up link exits rfl
  · change execGetMeasurements (.measurements 0) s = _
    exact onDoe_step up live exits rfl
  · change execGetMeasurements (.measurements i) s = _
    refine onDoe_step up live exits ?_
    have notZero : i ≠ 0 := fun h => by rw [h] at first; exact absurd first (by decide)
    have notAll : i ≠ 0xFF := fun h => by rw [h] at last; exact absurd last (by decide)
    rw [spdmBody, if_neg notZero, if_neg notAll]
  · change ∃ x, execGetMeasurements r s = _
    obtain rfl | rfl | rfl | ⟨slot, rfl⟩ := which <;> exact ⟨_, onDoe_step up live exits rfl⟩
  · change execGetCertificate 0 off len s = _
    refine onDoe_step up live exits ?_
    rw [decide_eq_false (Nat.not_le.2 inside), hn]
    rfl
  · change ∃ x, execSetCertificate slot s = _
    exact ⟨_, onDoe_step up live exits rfl⟩
  · change ∃ x, execKeyEx s = _
    exact ⟨_, onDoe_step up live exits (if_neg (Nat.not_le.2 room))⟩
  · change ∃ x, execIdeKm (.keyProg pcie set tx key) s = _
    exact ⟨_, onDoe_step up live exits (by rw [hk])⟩
  · change ∃ x, execKeySetGo pcie set tx s = _
    rw [hk] at keyed ⊢
    exact ⟨_, onDoe_step up live exits (if_neg (by rw [← Option.not_isSome, keyed]; decide))⟩
  · change ∃ x, execKeySetStop pcie set tx s = _
    exact ⟨_, onDoe_step up live exits (by rw [hk])⟩

end Sys2Proof.Laws
end
section
/-! PROOF. Cache maintenance: a request is taken in, and its steps (R181 to R187, R286). -/

namespace Sys2Proof.Laws

open Sys2Proof.Machine

/-- A step of the request in progress at its next line (R187): one that waits ends there; another is counted, and the request
goes on. -/
theorem mntStep_next {c : Ctl} {op : BitVec 3} {f : Mnt → LineAddr → Dp → MntStep} {d d1 : Dp} {m : Mnt} {l : LineAddr} {x : MntStep}
    (serves : serving d = true) (cur : d.lc.cur = some m) (own : m.op = op) (next : mntNext d m = some l)
    (free : lineFilling d l = false ∨ m.reading = true) (hx : x = f m l (heldLine c l d))
    (hd1 : d1 = { x.dp with lc := { x.dp.lc with cur := x.dp.lc.cur.map fun y => { y with
      done := mntAfter d m, acted := y.acted + (if x.acted then 1 else 0), dirty := y.dirty || x.dirty
      lockLimit := y.lockLimit || x.lockLimit, reading := false
      waitEntries := y.waitEntries ++ (if m.durable then x.entries else []) } } }) :
    mntStep c op f d = if x.waits then x.dp else mntSettle c (updWithhold c (pmuCount c 18 0x16 1 d1)) := by
  have taken : mntTake d = d := by rw [mntTake, cur]
  have goes : ¬(lineFilling d l && !m.reading) = true := by
    obtain h | h := free <;> simp [h]
  rw [mntStep, serves, if_neg (by decide)]
  dsimp only
  rw [taken, cur]
  dsimp only
  rw [if_neg (fun h => h own), next]
  dsimp only
  rw [if_neg goes, ← hx, hd1]

/-- Settles O46: every row of the maintenance engine is a step of its operation. -/
theorem maintenanceTakesItsSteps : Obligations.MaintenanceTakesItsSteps := by
  unfold Obligations.MaintenanceTakesItsSteps
  refine ⟨fun s m hand alone hm high1 high2 fits serve room => ?_, fun s m l x d0 d1 d2 hd0 serves cur next free hd1 hd2 =>
    ⟨fun op hx => ?_, fun op hx => ?_, fun op hx => ?_, fun raw peers op hx => ?_, fun op hx => ?_, fun op hx => ?_⟩⟩
  · have none_ : (s.dp.lc.cur.toList ++ s.dp.lc.queue).any (·.fromCmd) = false :=
      List.any_eq_false.2 fun x hx => by rw [alone x hx]; decide
    have zero : ¬((param s.dp 0).extractLsb' 35 22 ≠ 0 ∨ (param s.dp 1).extractLsb' 35 29 ≠ 0) := by simp [high1, high2]
    change execMmCacheOp s = _
    refine onDp_step ?_
    rw [cacheOp, hand, none_, if_neg (by decide)]
    dsimp only
    rw [if_neg zero, ← hm, fits, if_neg (by decide), if_neg (fun h => h.1 serve), if_neg (Nat.not_le.2 room)]
  · change execClean s = _
    exact onDp_step ((mntStep_next serves cur op next free (by rw [hx, hd0]) hd1).trans hd2.symm)
  · change execInvalidate s = _
    exact onDp_step ((mntStep_next serves cur op next free (by rw [hx, hd0]) hd1).trans hd2.symm)
  · change execCleanAndInvalidate s = _
    exact onDp_step ((mntStep_next serves cur op next free (by rw [hx, hd0]) hd1).trans hd2.symm)
  · change execLock raw peers s = _
    exact onDp_step ((mntStep_next serves cur op next free (by rw [hx, hd0]) hd1).trans hd2.symm)
  · change execUnlockLine s = _
    exact onDp_step ((mntStep_next serves cur op next free (by rw [hx, hd0]) hd1).trans hd2.symm)
  · change execZeroLine s = _
    exact onDp_step ((mntStep_next serves cur op next free (by rw [hx, hd0]) hd1).trans hd2.symm)

end Sys2Proof.Laws
end
section
/-! PROOF. The session record of the security unit (`Dp.sec`) through the records, the HBM posts, the media operations and
the merge buffer: none of them changes it. -/

namespace Sys2Proof.Laws
open Sys2Proof.Machine

theorem sec_foldl {α : Type} {f : Dp → α → Dp} (l : List α) (d : Dp) (keeps : ∀ d x, (f d x).sec = d.sec) :
    (l.foldl f d).sec = d.sec :=
  foldl_keeps Dp.sec f keeps l d

/-! ### The records -/

@[simp] theorem msix_sec (v : Nat) (d : Dp) : (msix v d).sec = d.sec := recorded_sec (recorded_msix v d)

@[simp] theorem pmuCount_sec (c : Ctl) (u code k : Nat) (d : Dp) : (pmuCount c u code k d).sec = d.sec :=
  recorded_sec (recorded_pmuCount c u code k d)

@[simp] theorem raise_sec (src kind addr aux master access : Nat) (d : Dp) :
    (raise src kind addr aux master access d).sec = d.sec :=
  recorded_sec (recorded_raise src kind addr aux master access d)

@[simp] theorem eventRecord_sec (c : Ctl) (sev text value : Nat) (d : Dp) : (eventRecord c sev text value d).sec = d.sec :=
  recorded_sec (recorded_eventRecord c sev text value d)

@[simp] theorem dpaRecord_sec (c : Ctl) (sev text : Nat) (a : SecAddr) (d : Dp) : (dpaRecord c sev text a d).sec = d.sec := by
  unfold dpaRecord
  exact recorded_sec (recorded_writeEvent ..)

@[simp] theorem addWork_sec (prio : Nat) (k : WorkKind) (d : Dp) : (addWork prio k d).sec = d.sec := by
  unfold addWork
  split <;> rfl

@[simp] theorem updWithhold_sec (c : Ctl) (d : Dp) : (updWithhold c d).sec = d.sec := by
  obtain ⟨b, e⟩ := updWithhold_frame c d
  rw [e]

@[simp] theorem sramWrote_sec (array first n : Nat) (d : Dp) : (sramWrote array first n d).sec = d.sec := rfl

@[simp] theorem poisonAdd_sec (a : SecAddr) (injected : Bool) (d : Dp) : (poisonAdd a injected d).sec = d.sec := by
  unfold poisonAdd
  split
  · rfl
  · split
    · rfl
    · split <;> rfl

/-! ### The HBM posts and the mapping -/

@[simp] theorem hbmPost_sec (requester : Nat) (s : HStr) (elem : Nat) (d : Dp) : (hbmPost requester s elem d).sec = d.sec := rfl

@[simp] theorem postMapWrite_sec (p : Nat) (copyB : Bool) (d : Dp) : (postMapWrite p copyB d).sec = d.sec := rfl

@[simp] theorem spareFalls_sec (old d : Dp) : (spareFalls old d).sec = d.sec := by
  unfold spareFalls
  extract_lets d1
  have low : d1.sec = d.sec := by
    unfold d1
    split
    · exact raise_sec ..
    · rfl
  split
  · rw [raise_sec, low]
  · exact low

theorem allocate_sec {d e : Dp} {s : Stripe} (h : allocate d = some (s, e)) : e.sec = d.sec := by
  unfold allocate at h
  split at h
  · cases h
  · obtain ⟨r, -, same⟩ := Option.map_eq_some_iff.1 h
    have out := congrArg (fun x => x.2.sec) same
    exact out.symm.trans (by rw [hbmPost_sec, spareFalls_sec])

@[simp] theorem changeEntry_sec (c : Ctl) (p : Nat) (e : BitVec 64) (d : Dp) : (changeEntry c p e d).sec = d.sec := by
  unfold changeEntry
  dsimp only
  split <;> simp

@[simp] theorem putChg_sec (r : ChgRec) (d : Dp) : (putChg r d).sec = d.sec := by
  unfold putChg
  dsimp only
  split
  · rfl
  · split <;> rfl

@[simp] theorem appendChg_sec (r : ChgRec) (d : Dp) : (appendChg r d).sec = d.sec := by
  unfold appendChg
  rw [putChg_sec]
  split <;> rfl

@[simp] theorem mediaRecord_sec (s : Stripe) (kind : BitVec 2) (chan : BitVec 5) (d : Dp) :
    (mediaRecord s kind chan d).sec = d.sec :=
  appendChg_sec ..

@[simp] theorem putState_sec (s : Stripe) (kind : BitVec 2) (chan : BitVec 5) (d : Dp) : (putState s kind chan d).sec = d.sec := by
  unfold putState
  dsimp only
  split <;> rfl

@[simp] theorem markFailed_sec (s : Stripe) (chan : Nat) (d : Dp) : (markFailed s chan d).sec = d.sec := by
  unfold markFailed
  split <;> simp

/-! ### The line cache and the answers -/

@[simp] theorem setSector_sec (key k : Nat) (w : Way) (d : Dp) : (setSector key k w d).sec = d.sec := rfl

@[simp] theorem installWay_sec (c : Ctl) (key : Nat) (l : LineAddr) (slot : BitVec 6) (d : Dp) :
    (installWay c key l slot d).sec = d.sec := by
  simp [installWay]

@[simp] theorem fillFetched_sec (a : SecAddr) (v : Sector) (poison : Bool) (c : Ctl) (d : Dp) :
    (fillFetched a v poison c d).sec = d.sec := by
  unfold fillFetched
  split
  · rfl
  · dsimp only
    split
    · simp
    · split <;> simp

@[simp] theorem noteCopied_sec (key : Nat) (l : LineAddr) (id : Nat) (d : Dp) : (noteCopied key l id d).sec = d.sec := rfl

theorem closeWait_sec (tag : Nat) (d : Dp) : (closeWait tag d).sec = d.sec := rfl

theorem useS2m_sec (tag : Nat) (r : Resp) (d : Dp) : (useS2m tag r d).sec = d.sec := rfl

theorem recordAnswer_sec (c : Ctl) (p : Pend) (r : Resp) (d : Dp) : (recordAnswer c p r d).sec = d.sec := by
  obtain ⟨-, -, -, -, sec, -⟩ := beside_parts (beside_recordAnswer c p r d)
  exact sec

theorem freeEntry_sec (c : Ctl) (d : Dp) : (freeEntry c d).sec = d.sec := by
  obtain ⟨-, -, -, -, sec, -⟩ := beside_parts (beside_freeEntry c d)
  exact sec

theorem pmuBytes_sec (p k : Nat) (d : Dp) : (pmuBytes p k d).sec = d.sec := by
  unfold pmuBytes
  split <;> rfl

@[simp] theorem sendAnswer_sec (c : Ctl) (p : Pend) (r : Resp) (d : Dp) : (sendAnswer c p r d).sec = d.sec := by
  unfold sendAnswer
  extract_lets d1 d2 d3 d4
  have used : d1.sec = d.sec := by
    unfold d1
    split
    · rfl
    · rfl
  have sent : d2.sec = d1.sec := by
    unfold d2
    split
    · split
      · exact pmuBytes_sec ..
      · rfl
    · rfl
  have gone : d4.sec = d3.sec := by
    unfold d4
    split
    · split <;> rfl
    · rfl
  rw [freeEntry_sec, gone, recordAnswer_sec, sent, used]

@[simp] theorem stallAnswer_sec (c : Ctl) (p : Pend) (r : Resp) (d : Dp) : (stallAnswer c p r d).sec = d.sec := by
  unfold stallAnswer
  split
  · rfl
  · split
    · rfl
    · exact pmuCount_sec ..

@[simp] theorem flushGo_sec (c : Ctl) (ps kept : List Pend) (d : Dp) : (flushGo c ps kept d).sec = d.sec := by
  induction ps generalizing kept d with
  | nil => rfl
  | cons p ps ih =>
    unfold flushGo
    split
    · exact ih ..
    · split
      · exact ih ..
      · split
        · rw [ih, sendAnswer_sec]
        · rw [ih, stallAnswer_sec]

@[simp] theorem gpfSettle_sec (d : Dp) : (gpfSettle d).sec = d.sec := by
  unfold gpfSettle
  split
  · rfl
  · split <;> rfl

@[simp] theorem answer_sec (c : Ctl) (tag : Nat) (r : Resp) (d : Dp) : (answer c tag r d).sec = d.sec := by
  unfold answer flushAnswers
  rw [gpfSettle_sec, flushGo_sec]

/-! ### The media operations -/

@[simp] theorem giveUp_sec (p : Mop → Bool) (d : Dp) : (giveUp p d).sec = d.sec := rfl

@[simp] theorem portSend_sec (k r w : Nat) (word : BitVec 40) (d : Dp) : (portSend k r w word d).sec = d.sec := rfl

@[simp] theorem slotFails_sec (c : Ctl) (k master : Nat) (d : Dp) : (slotFails c k master d).sec = d.sec := by
  simp [slotFails]

@[simp] theorem abandon_sec (k set : Nat) (d : Dp) : (abandon k set d).sec = d.sec := by
  unfold abandon
  split
  · split
    · exact addMop_sec ..
    · rfl
  · rfl

@[simp] theorem queuePeers_sec (c : Ctl) (tag : Nat) (s : Stripe) (e : BitVec 64) (k : Nat) (host : Bool) (d : Dp) :
    (queuePeers c tag s e k host d).sec = d.sec := by
  unfold queuePeers
  refine (sec_foldl _ _ fun d k' => ?_).trans (modRead_sec ..)
  split
  · rfl
  · split
    · rfl
    · split
      · rfl
      · dsimp only
        split
        · rw [abandon_sec, addMop_sec]
        · exact addMop_sec ..

@[simp] theorem queuePeerReads_sec (c : Ctl) (kind : MopKind) (s : Stripe) (k : Nat) (e : BitVec 64) (d : Dp) :
    (queuePeerReads c kind s k e d).sec = d.sec :=
  sec_foldl _ _ fun _ _ => addMop_sec ..

@[simp] theorem faultPeers_sec (tag : Nat) (d : Dp) : (faultPeers tag d).sec = d.sec := by
  unfold faultPeers
  exact (sec_foldl _ _ fun d m => abandon_sec ..).trans (modRead_sec ..)

@[simp] theorem nameLost_sec (l : LineAddr) (d : Dp) : (nameLost l d).sec = d.sec := by
  unfold nameLost
  dsimp only
  split
  · rfl
  · exact (sec_foldl _ _ fun d k => poisonAdd_sec ..).trans (raise_sec ..)

@[simp] theorem lineWritten_sec (l : LineAddr) (d : Dp) : (lineWritten l d).sec = d.sec := by
  unfold lineWritten
  split <;> rfl

@[simp] theorem checkLost_sec (c : Ctl) (s : Stripe) (d : Dp) : (checkLost c s d).sec = d.sec := by
  unfold checkLost lostStripe
  split
  · split
    · rfl
    · exact (sec_foldl _ _ fun d l => nameLost_sec ..).trans (dpaRecord_sec ..)
  · rfl

/-! ### The programmes and the journal -/

@[simp] theorem stripeVerified_sec (seq : Nat) (d : Dp) : (stripeVerified seq d).sec = d.sec := by
  unfold stripeVerified moveHead
  split
  · split
    · exact modDev_sec ..
    · rfl
  · rfl

@[simp] theorem storeVerified_sec (c : Ctl) (d : Dp) : (storeVerified c d).sec = d.sec := recorded_sec (recorded_runWrites c 64 d)

@[simp] theorem releaseEntries_sec (d : Dp) : (releaseEntries d).sec = d.sec := rfl

@[simp] theorem parityCovered_sec (id : Nat) (d : Dp) : (parityCovered id d).sec = d.sec := rfl

@[simp] theorem pendEntry_sec (id : Nat) (d : Dp) : (pendEntry id d).sec = d.sec := rfl

@[simp] theorem takeWhole_sec (p : Page) (d : Dp) : (takeWhole p d).sec = d.sec := rfl

@[simp] theorem dropWorn_sec (s : Stripe) (d : Dp) : (dropWorn s d).sec = d.sec := rfl

@[simp] theorem wholeDone_sec (p : Page) (d : Dp) : (wholeDone p d).sec = d.sec := rfl

@[simp] theorem modWhole_sec (page : Page) (pos : Nat) (f : MEntry → MEntry) (d : Dp) :
    (modWhole page pos f d).sec = d.sec := rfl

@[simp] theorem takeEntries_sec (p : Page) (d : Dp) : (takeEntries p d).sec = d.sec := rfl

@[simp] theorem leaveUnbuilt_sec (d : Dp) : (leaveUnbuilt d).sec = d.sec := rfl

@[simp] theorem newEntry_sec (c : Ctl) (l : LineAddr) (slot : BitVec 6) (d : Dp) : (newEntry c l slot d).2.sec = d.sec := by
  simp [newEntry]

@[simp] theorem entryPut_sec (c : Ctl) (id k : Nat) (v : Sector) (poison : Bool) (d : Dp) :
    (entryPut c id k v poison d).sec = d.sec := by
  unfold entryPut
  dsimp only
  split <;> simp

@[simp] theorem queueMembers_sec (s : Stripe) (imgs : List Image) (kind : Nat → ProgKind) (d : Dp) :
    (queueMembers s imgs kind d).sec = d.sec := by
  unfold queueMembers
  refine sec_foldl _ _ fun d j => ?_
  split
  · exact addProg_sec ..
  · rfl

@[simp] theorem dropStripeDeltas_sec (s : Stripe) (d : Dp) : (dropStripeDeltas s d).sec = d.sec :=
  sec_foldl _ _ fun _ _ => rfl

end Sys2Proof.Laws
end
section
/-! PROOF. The session record of the security unit through the merge buffer and the rewrites: none of their steps changes
it. -/

namespace Sys2Proof.Laws
open Sys2Proof.Machine

/-! ### Parity deltas and launches -/

@[simp] theorem readOldParity_sec (c : Ctl) (x : Delta) (d : Dp) : (readOldParity c x d).sec = d.sec := by
  unfold readOldParity
  dsimp only
  split
  · rfl
  · split
    · split
      · refine (sec_foldl _ _ fun d j => ?_).trans (modDelta_sec ..)
        split
        · exact addMop_sec ..
        · rfl
      · rfl
    · rw [addMop_sec, modDelta_sec]

@[simp] theorem closeDelta_sec (c : Ctl) (code : Nat) (x : Delta) (d : Dp) : (closeDelta c code x d).sec = d.sec := by
  unfold closeDelta
  dsimp only
  split <;> simp

@[simp] theorem deltaWrote_sec (n : Nat) (d : Dp) : (deltaWrote n d).sec = d.sec := rfl

@[simp] theorem contribute_sec (c : Ctl) (s : Stripe) (pos eid : Nat) (delta : Option Image) (d : Dp) :
    (contribute c s pos eid delta d).sec = d.sec := by
  unfold contribute
  extract_lets row buffer d1
  split
  · rfl
  · have added : d1.sec = d.sec := by
      unfold d1
      split <;> simp
    split
    · split
      · rw [closeDelta_sec, added]
      · exact added
    · exact added

@[simp] theorem degradedWrite_sec (c : Ctl) (s : Stripe) (e : MEntry) (d : Dp) : (degradedWrite c s e d).sec = d.sec := by
  unfold degradedWrite
  split
  · rw [contribute_sec, modEntry_sec]
  · rfl

@[simp] theorem queueData_sec (c : Ctl) (e : MEntry) (d : Dp) : (queueData c e d).sec = d.sec := by
  unfold queueData
  dsimp only
  split
  · rw [addProg_sec, modEntry_sec, modEntry_sec]
  · rw [degradedWrite_sec, modEntry_sec]

@[simp] theorem retryWaiting_sec (c : Ctl) (d : Dp) : (retryWaiting c d).sec = d.sec :=
  sec_foldl _ _ fun _ _ => queueData_sec ..

@[simp] theorem startFirst_sec (p : Page) (slot : BitVec 6) (fails : Nat) (imgs : List Image) (d : Dp) :
    (startFirst p slot fails imgs d).sec = d.sec := by
  unfold startFirst
  split
  next _ =>
    dsimp only
    split <;> simp
  next s e found =>
    rw [queueMembers_sec]
    refine Eq.trans ?_ (allocate_sec found)
    split <;> rfl

@[simp] theorem queueRmw_sec (c : Ctl) (e : MEntry) (d : Dp) : (queueRmw c e d).sec = d.sec := by
  unfold queueRmw
  dsimp only
  split
  · simp
  · refine (sec_foldl _ _ fun d k => ?_).trans (by simp)
    split
    · rfl
    · split
      · exact addMop_sec ..
      · rfl

@[simp] theorem launchEntry_sec (c : Ctl) (id : Nat) (d : Dp) : (launchEntry c id d).sec = d.sec := by
  unfold launchEntry
  split
  next => rfl
  next e _ =>
    dsimp only
    split
    · rfl
    · split
      · split <;> simp
      · split
        · rfl
        · split
          · simp
          · split
            · simp
            · split <;> simp

@[simp] theorem relaunchPage_sec (c : Ctl) (p : Page) (d : Dp) : (relaunchPage c p d).sec = d.sec :=
  sec_foldl _ _ fun _ _ => launchEntry_sec ..

@[simp] theorem startWhole_sec (c : Ctl) (p : Page) (d : Dp) : (startWhole c p d).sec = d.sec := by
  unfold startWhole
  extract_lets m row imgs d1 es buffer
  have queued : d1.sec = d.sec := by simp [d1]
  split
  · rfl
  · split
    · rfl
    · split
      · rw [addWork_sec]
        exact sec_foldl _ _ fun _ _ => pendEntry_sec ..
      · split
        · split <;> simp
        · exact queued

/-! ### Seals, copies and placement -/

@[simp] theorem sealEntry_sec (c : Ctl) (id : Nat) (d : Dp) : (sealEntry c id d).sec = d.sec := by
  unfold sealEntry
  split
  · rfl
  · split
    · rfl
    · dsimp only
      split <;> simp

@[simp] theorem sealPage_sec (c : Ctl) (p : Page) (d : Dp) : (sealPage c p d).sec = d.sec := by
  unfold sealPage
  rw [relaunchPage_sec]
  exact sec_foldl _ _ fun _ _ => sealEntry_sec ..

@[simp] theorem placeMerge_sec (c : Ctl) (l : LineAddr) (k : Nat) (v : Sector) (poison : Bool) (slot : BitVec 6) (d : Dp) :
    (placeMerge c l k v poison slot d).sec = d.sec := by
  unfold placeMerge
  rw [sealEntry_sec, entryPut_sec]
  split
  · rfl
  · exact newEntry_sec ..

@[simp] theorem copyOut_sec (c : Ctl) (key : Nat) (join : Bool) (d : Dp) : (copyOut c key join d).sec = d.sec := by
  unfold copyOut
  extract_lets w l r d1
  have opened : r.2.sec = d.sec := by
    unfold r
    split
    · rfl
    · exact newEntry_sec ..
  have put : d1.sec = d.sec := by
    refine (sec_foldl _ _ fun d k => ?_).trans opened
    split
    · exact entryPut_sec ..
    · rfl
  split
  · rfl
  · rw [sealEntry_sec, noteCopied_sec, setWay_sec, put]

/-! ### Rewrites -/

@[simp] theorem programmeCopy_sec (p : Page) (j : Nat) (i : Image) (d : Dp) : (programmeCopy p j i d).sec = d.sec := by
  unfold programmeCopy
  split
  · rfl
  · dsimp only
    split
    · rfl
    · split <;> simp

@[simp] theorem copyNext_sec (c : Ctl) (p : Page) (j : Nat) (d : Dp) : (copyNext c p j d).sec = d.sec := by
  unfold copyNext queueCopy
  split
  · exact programmeCopy_sec ..
  · split
    · rfl
    · dsimp only
      split <;> simp

@[simp] theorem rewriteEnds_sec (r : Rewrite) (d : Dp) : (rewriteEnds r d).sec = d.sec := by
  unfold rewriteEnds
  extract_lets d1 d2 lines d3 rct
  have disturbed : d1.sec = d.sec := by
    unfold d1 disturbEnds
    split
    · split <;> rfl
    · rfl
  have anchored : d2.sec = d1.sec := by
    unfold d2 reanchorEnds
    split <;> rfl
  exact anchored.trans disturbed

theorem finishRelocate_sec (c : Ctl) (r : Rewrite) (d : Dp) : (finishRelocate c r d).sec = d.sec := by
  unfold finishRelocate
  extract_lets p media d1 d2 d3 d4 moved d5
  have changed : d3.sec = d.sec := by simp [d3, d2, d1]
  have counted : d5.sec = d4.sec := by
    unfold d5
    split <;> simp
  rw [updWithhold_sec, sealPage_sec, releaseEntries_sec, rewriteEnds_sec, counted, pmuCount_sec, changed]

@[simp] theorem finishWhole_sec (c : Ctl) (p : Page) (d : Dp) : (finishWhole c p d).sec = d.sec := by
  unfold finishWhole
  extract_lets s h d1 media d2
  have changed : d1.sec = d.sec := by simp [d1]
  have ended : d2.sec = d1.sec := by
    unfold d2
    split <;> simp
  rw [updWithhold_sec, sealPage_sec, releaseEntries_sec, ended, changed]

theorem finishFirst_sec (c : Ctl) (p : Page) (d : Dp) : (finishFirst c p d).sec = d.sec := by
  unfold finishFirst
  split <;> simp

theorem startInPlace_sec (r : Rewrite) (d : Dp) : (startInPlace r d).sec = d.sec := by
  unfold startInPlace
  rw [queueMembers_sec, modRewrite_sec]
  refine (sec_foldl _ _ fun d j => ?_).trans (dropWorn_sec ..)
  dsimp only
  split <;> rfl

@[simp] theorem advanceRewrite_sec (c : Ctl) (n : Nat) (p : Page) (d : Dp) : (advanceRewrite c n p d).sec = d.sec := by
  induction n generalizing d with
  | zero => rfl
  | succ n ih =>
    have taken := takeEntries_sec p d
    unfold advanceRewrite
    split
    next => rfl
    next r _ =>
      split
      · rfl
      · split
        · split
          · rfl
          · exact finishFirst_sec ..
        · split
          · rfl
          · extract_lets e again recopy
            have copied (x : Dp) : (recopy x).sec = x.sec := modRewrite_sec ..
            split
            · exact taken
            · split
              · rw [ih, copyNext_sec, taken]
              · split
                · split
                  · split
                    · exact taken
                    · rw [finishWhole_sec, taken]
                  · split
                    · rw [ih, copied, taken]
                    · split
                      · exact taken
                      · rw [ih, startInPlace_sec, taken]
                · split
                  · rw [ih, copied, modRewrite_sec, taken]
                  · split
                    · rw [ih, modRewrite_sec, taken]
                    · split
                      · split
                        · exact taken
                        · rw [finishRelocate_sec, taken]
                      · split
                        · exact taken
                        · split
                          · rw [ih, copied, taken]
                          · rw [ih, modRewrite_sec, programmeCopy_sec, taken]

@[simp] theorem pokeRewrites_sec (c : Ctl) (d : Dp) : (pokeRewrites c d).sec = d.sec :=
  sec_foldl _ _ fun _ _ => advanceRewrite_sec ..

@[simp] theorem moveOn_sec (c : Ctl) (d : Dp) : (moveOn c d).sec = d.sec := by
  unfold moveOn
  rw [updWithhold_sec, pokeRewrites_sec, retryWaiting_sec, releaseEntries_sec]

/-! ### Rebuilds and the checks at the end of a programme -/

@[simp] theorem setRebuilds_sec (l : List (Nat × BitVec 4)) (d : Dp) : (setRebuilds l d).sec = d.sec := by
  cases l <;> rfl

@[simp] theorem rebuildCheck_sec (d : Dp) : (rebuildCheck d).sec = d.sec := by
  refine sec_foldl _ _ fun d r => ?_
  split
  · rw [raise_sec, setRebuilds_sec]
  · rfl

@[simp] theorem startRebuild_sec (k : Nat) (warps : BitVec 4) (d : Dp) : (startRebuild k warps d).sec = d.sec := by
  unfold startRebuild
  extract_lets ws good d1
  have left : d1.sec = d.sec := by
    unfold d1
    split <;> rfl
  split
  · exact left
  · rw [addWork_sec, setRebuilds_sec, left]

@[simp] theorem checkFull_sec (c : Ctl) (p : Page) (d : Dp) : (checkFull c p d).sec = d.sec := by
  unfold checkFull
  split
  · rfl
  · split
    · exact finishWhole_sec ..
    · rfl

@[simp] theorem checkJournal_sec (c : Ctl) (seq : Nat) (d : Dp) : (checkJournal c seq d).sec = d.sec := by
  unfold checkJournal
  split
  · rfl
  · rw [updWithhold_sec, releaseEntries_sec, stripeVerified_sec]

@[simp] theorem lapCheck_sec (c : Ctl) (d : Dp) : (lapCheck c d).sec = d.sec := by
  unfold lapCheck
  split <;> rfl

end Sys2Proof.Laws
end
section
/-! PROOF. The training of the media leaves the return step of the security unit alone (`sec.retStep`): the isolation of a
unit may place held sectors and carry an overwrite on, and changes nothing else of the session record. -/

namespace Sys2Proof.Laws
open Sys2Proof.Machine

theorem retStep_of_sec {d e : Dp} (h : e.sec = d.sec) : e.sec.retStep = d.sec.retStep :=
  congrArg (fun x => x.retStep) h

theorem retStep_foldl {α : Type} {f : Dp → α → Dp} (l : List α) (d : Dp)
    (keeps : ∀ d x, (f d x).sec.retStep = d.sec.retStep) : (l.foldl f d).sec.retStep = d.sec.retStep :=
  foldl_keeps (fun d => d.sec.retStep) f keeps l d

/-! ### Placement of a sector, and the reads it settles -/

theorem takeHeld_retStep (c : Ctl) (p : DrainSector → Bool) (d : Dp) : (takeHeld c p d).sec.retStep = d.sec.retStep := by
  unfold takeHeld
  refine (retStep_of_sec (sec_foldl _ _ fun d x => ?_)).trans rfl
  dsimp only
  split
  · exact setSector_sec ..
  · exact placeMerge_sec ..

theorem heldLine_retStep (c : Ctl) (l : LineAddr) (d : Dp) : (heldLine c l d).sec.retStep = d.sec.retStep := by
  unfold heldLine
  split
  · exact takeHeld_retStep ..
  · rfl

theorem placeSector_retStep (c : Ctl) (l : LineAddr) (k : Nat) (v : Sector) (poison : Bool) (slot : BitVec 6) (noAlloc : Bool)
    (d : Dp) : (placeSector c l k v poison slot noAlloc d).sec.retStep = d.sec.retStep := by
  rw [← heldLine_retStep c l d]
  apply retStep_of_sec
  unfold placeSector
  dsimp only
  split
  · simp
  · split
    · exact placeMerge_sec ..
    · split
      · exact placeMerge_sec ..
      · rw [setSector_sec, installWay_sec]
        split <;> simp

theorem settleGo_retStep (c : Ctl) (a : SecAddr) (ws : List (Nat × Sector × Bool)) (rs : List Read) (cur : Sector × Bool)
    (d : Dp) : (settleGo c a ws rs cur d).sec.retStep = d.sec.retStep := by
  induction rs generalizing ws cur d with
  | nil => rfl
  | cons r rs ih =>
    unfold settleGo
    dsimp only
    split
    · rw [ih, answer_sec]
      split
      · rfl
      · exact placeSector_retStep ..
    · rw [ih, answer_sec]
    · exact ih ..
    · exact ih ..
    · exact ih ..

theorem finishRead_retStep (c : Ctl) (tag : Nat) (v : Sector) (poison : Bool) (d : Dp) :
    (finishRead c tag v poison d).sec.retStep = d.sec.retStep := by
  unfold finishRead settle
  split
  · rfl
  · dsimp only
    rw [settleGo_retStep, fillFetched_sec]
    split
    · exact retStep_foldl _ _ fun _ _ => rfl
    · rfl

theorem reconstruct_retStep (c : Ctl) (tag : Nat) (route : Route) (d : Dp) :
    (reconstruct c tag route d).sec.retStep = d.sec.retStep := by
  unfold reconstruct
  split
  · rfl
  · dsimp only
    split
    · simp
    · rw [finishRead_retStep, pmuCount_sec, modRead_sec]

/-! ### The end of a programme -/

theorem overwriteSet_retStep (set : Nat) (d : Dp) : (overwriteSet set d).sec.retStep = d.sec.retStep := by
  unfold overwriteSet
  dsimp only
  split
  · rfl
  · split
    · refine retStep_of_sec (sec_foldl _ _ fun d k => ?_)
      split
      · rfl
      · exact addProg_sec ..
    · rfl

theorem overwriteDone_retStep (set : Nat) (d : Dp) : (overwriteDone set d).sec.retStep = d.sec.retStep := by
  unfold overwriteDone
  split
  · rfl
  · exact (retStep_foldl _ _ fun _ _ => overwriteSet_retStep ..).trans rfl

theorem entryProgrammed_sec (id : Nat) (done : MEntry → MEntry) (d : Dp) :
    (((findEntry d id).map fun e => lineWritten e.line (modEntry id done d)).getD d).sec = d.sec := by
  cases findEntry d id with
  | none => rfl
  | some e => exact lineWritten_sec ..

theorem progMoves_retStep (c : Ctl) (p : Prog) (d : Dp) : (progMoves c p d).sec.retStep = d.sec.retStep := by
  unfold progMoves
  extract_lets done
  split
  next id _ =>
    extract_lets d1 d2
    have kept : d2.sec = d.sec := (sec_foldl _ _ fun _ _ => readOldParity_sec ..).trans (entryProgrammed_sec id done d)
    split
    · rw [advanceRewrite_sec, kept]
    · exact retStep_of_sec kept
  next => rfl
  next => rw [advanceRewrite_sec, modWhole_sec]
  next => rw [advanceRewrite_sec, modWhole_sec]
  next => rw [advanceRewrite_sec, modWhole_sec]
  next => rw [checkFull_sec, lineWritten_sec, modWhole_sec]
  next => rw [checkJournal_sec]
  next => rw [storeVerified_sec]
  next =>
    split
    · rw [rebuildCheck_sec, setCursor_sec]
    · rfl
  next => exact overwriteDone_retStep ..

theorem progSettled_retStep (c : Ctl) (p : Prog) (d : Dp) : (progSettled c p d).sec.retStep = d.sec.retStep := by
  unfold progSettled
  rw [moveOn_sec, progMoves_retStep]

/-! ### The isolation of a unit -/

theorem redrive_retStep (c : Ctl) (p : Prog) (d : Dp) : (redrive c p d).sec.retStep = d.sec.retStep := by
  have dropped : (dropProgs (fun x => x.id = p.id) d).sec.retStep = d.sec.retStep := rfl
  unfold redrive
  dsimp only
  split
  next id _ =>
    split
    next => exact dropped
    next e _ =>
      split
      · exact dropped
      · split
        · rw [addWork_sec, pendEntry_sec, dropped]
        · split
          · rw [progSettled_retStep, dropped]
          · rw [updWithhold_sec, releaseEntries_sec, degradedWrite_sec, dropped]
  next => rw [overwriteDone_retStep, dropped]
  next => rw [progSettled_retStep, leaveUnbuilt_sec, dropped]
  next =>
    split
    · exact dropped
    · rw [progSettled_retStep, dropped]

theorem reissue_retStep (c : Ctl) (m : Mop) (d : Dp) : (reissue c m d).sec.retStep = d.sec.retStep := by
  unfold reissue
  dsimp only
  split
  next tag _ _ => rw [reconstruct_retStep, modRead_sec, dropMops_sec]
  next tag _ =>
    split
    · rfl
    · split
      · rfl
      · split
        · rw [faultPeers_sec, modRead_sec, dropMops_sec]
        · rw [reconstruct_retStep, modRead_sec, dropMops_sec]
  next tag host _ =>
    split
    · rfl
    · split
      · rw [addWork_sec, dropRead_sec, giveUp_sec, modRead_sec, dropMops_sec]
      · rfl
      · split
        · rfl
        · rw [reconstruct_retStep, giveUp_sec, modRead_sec, dropMops_sec]
  next id _ =>
    split
    · rw [queueRmw_sec, giveUp_sec, dropMops_sec]
    · rfl
  next id _ =>
    split
    · split
      · rfl
      · rw [markFailed_sec, parityCovered_sec, dropDelta_sec, giveUp_sec, dropMops_sec]
    · rfl
  next page _ => rw [advanceRewrite_sec, giveUp_sec, dropMops_sec]
  next => rfl

theorem isolateUnit_retStep (c : Ctl) (k : Nat) (whole : Bool) (warps : BitVec 4) (d : Dp) :
    (isolateUnit c k whole warps d).sec.retStep = d.sec.retStep := by
  unfold isolateUnit
  extract_lets ch d1 d2 d3 mine d4 d5 d6 sets held d7
  have noted : d3.sec = d.sec := by
    have recorded : d2.sec = d.sec := by simp [d2, d1]
    unfold d3
    split
    · rw [emit_sec, recorded]
    · exact recorded
  have redriven : d4.sec.retStep = d3.sec.retStep := retStep_foldl _ _ fun _ _ => redrive_retStep ..
  have reissued : d5.sec.retStep = d4.sec.retStep := by
    refine retStep_foldl _ _ fun d m => ?_
    split
    · exact reissue_retStep ..
    · rfl
  have lost : d6.sec = d5.sec := sec_foldl _ _ fun _ _ => checkLost_sec ..
  split
  · rfl
  · rw [lapCheck_sec, moveOn_sec, startRebuild_sec]
    show d6.sec.retStep = _
    rw [lost, reissued, redriven, noted]

theorem isolateCounted_retStep (k : Nat) (whole : Bool) (warps : BitVec 4) (c : Ctl) (d : Dp) :
    (isolateCounted k whole warps c d).2.sec.retStep = d.sec.retStep :=
  isolateUnit_retStep ..

/-! ### The training -/

theorem shortIn_sec (c : Ctl) (k : Nat) (x : ShortBurst) (d : Dp) : (shortIn c k x d).sec = d.sec := by
  unfold shortIn
  split
  · rfl
  · split
    · rfl
    · exact slotFails_sec ..

theorem trainAttempt_sec (k : Nat) (iso used : BitVec 4) (d : Dp) : (trainAttempt k iso used d).sec = d.sec := by
  unfold trainAttempt
  extract_lets each d1
  have sent (m : BitVec 4) (mode : Nat) (e : Dp) : (each m mode e).sec = e.sec := by
    refine sec_foldl _ _ fun d w => ?_
    split <;> rfl
  refine (sec_foldl _ _ fun d w => ?_).trans ?_
  · split <;> rfl
  · simp only [d1, sent]

theorem sendMdw_sec (k w reg : Nat) (v : BitVec 8) (d : Dp) : (sendMdw k w reg v d).sec = d.sec := rfl

theorem trainCommands_sec (c : Ctl) (k w rl : Nat) (p : PkgTrain) (d : Dp) : (trainCommands c k w rl p d).sec = d.sec := by
  unfold trainCommands
  extract_lets read d1
  have readKeeps (reg : Nat) (x : ShortBurst) (e : Dp) : (read reg x e).sec = e.sec := by
    show (shortIn c k x _).sec = _
    rw [shortIn_sec, portSend_sec]
  have identified : d1.sec = d.sec := by simp only [d1, readKeeps]
  split
  · refine (sec_foldl _ _ fun _ _ => portSend_sec ..).trans ?_
    rw [sendMdw_sec, sendMdw_sec, identified]
  · exact identified

theorem trainChannel_retStep (found : List ChanTrain) (k : Nat) (x : Ctl × Dp) :
    (trainChannel found k x).2.sec.retStep = x.2.sec.retStep := by
  unfold trainChannel
  extract_lets c d t ch have_ rec_ usable iso here used pkg val bad tries d0 echoed d1 d2 d3
  have arrived : echoed.sec = d.sec := by
    refine (sec_foldl _ _ fun e w => ?_).trans rfl
    split
    · exact shortIn_sec ..
    · rfl
  have attempted : d1.sec = echoed.sec := sec_foldl _ _ fun _ _ => trainAttempt_sec ..
  have ended : d2.sec = d1.sec := by
    refine sec_foldl _ _ fun e w => ?_
    split
    · exact trainCommands_sec ..
    · rfl
  have recorded : d3.sec = d2.sec := by
    unfold d3
    split
    · refine sec_foldl _ _ fun e w => ?_
      split
      · exact eventRecord_sec ..
      · rfl
    · rfl
  have trained : d3.sec.retStep = d.sec.retStep := by rw [recorded, ended, attempted, arrived]
  split
  · rfl
  · split
    · exact trained
    · split
      · rw [isolateCounted_retStep, msix_sec, raise_sec, trained]
      · split
        · exact trained
        · rw [isolateCounted_retStep, msix_sec, raise_sec, trained]

theorem trainAll_retStep (found : List ChanTrain) (c : Ctl) (d : Dp) : (trainAll found c d).2.sec.retStep = d.sec.retStep := by
  unfold trainAll
  exact foldl_keeps (fun x : Ctl × Dp => x.2.sec.retStep) (fun x k => trainChannel found k x)
    (fun x k => trainChannel_retStep found k x) (List.range 17) (c, d)

end Sys2Proof.Laws
end

section
/-! PROOF. The steps of RISE, each in its turn (R350, R117). -/

namespace Sys2Proof.Laws
open Sys2Proof.Machine

theorem riseAt_parts {n : Nat} {d : Dp} (h : riseAt n d = true) :
    d.sup.mode = .rise ∧ d.sup.downActive = false ∧ d.glb.riseStep = n := by
  unfold riseAt at h
  simp only [Bool.and_eq_true, decide_eq_true_eq, Bool.not_eq_true'] at h
  obtain ⟨⟨mode, down⟩, step⟩ := h
  exact ⟨mode, down, step⟩

/-! ### The isolation release -/

theorem isolationReleases_rise {d : Dp} (h : riseAt 1 d = true) (rails : d.sup.railsUp = true) (straps : BitVec 4)
    (refclk : Bool) (c : Ctl) : isolationReleases straps refclk c d =
      if !refclk then { d with sup := { d.sup with refclk := false } }
      else riseDone 2 (loadSecurity c (moveVcore 800 3 { d with
        sup := { d.sup with isoReleased := true, refclk := true }
        glb := { d.glb with straps := straps }
        fab := { d.fab with setPoint := 800 } })) := by
  obtain ⟨mode, -, -⟩ := riseAt_parts h
  have outside : ((awake d || d.sup.mode = .drain && !d.sup.downActive) && !d.sup.isoReleased) = false := by
    simp [awake, mode]
  have turn : (!riseAt 1 d || !d.sup.railsUp) = false := by rw [h, rails]; rfl
  unfold isolationReleases
  rw [outside, turn, if_neg Bool.false_ne_true, if_neg Bool.false_ne_true]

theorem isolationReleases_awake {d : Dp} (up : awake d = true) (cells : d.sup.isoReleased = false) (quiet : d.sup.isoDrain = none)
    (straps : BitVec 4) (refclk : Bool) (c : Ctl) : isolationReleases straps refclk c d =
      ((List.range 12).filter fun i => d.sup.isoRails.getLsbD i).foldl (fun d i => raise 0x65 0x3A 0 i 0xFF noAccess d)
        { d with sup := { d.sup with isoReleased := true, pg := setBit d.sup.pg 6, isoDrain := none, isoRails := 0 } } := by
  have released : ((awake d || d.sup.mode = .drain && !d.sup.downActive) && !d.sup.isoReleased) = true := by
    rw [up, cells]; rfl
  unfold isolationReleases
  rw [if_pos released]
  dsimp only
  rw [quiet]

theorem noted_fab {d e : Dp} (h : Noted d e) : e.fab = d.fab :=
  show (withoutNotes e).fab = (withoutNotes d).fab from congrArg Dp.fab h

theorem loadSecurity_fab (c : Ctl) (d : Dp) : (loadSecurity c d).fab = d.fab := by
  unfold loadSecurity
  extract_lets bad r0 r1 r1' r2 r st _ _ d1 d2
  have first : Noted d1 d2 := noted_ite _ (noted_eventRecord ..)
  have loaded : Noted d1 (if bad 19 then eventRecord c 1 12 19 d2 else d2) :=
    noted_trans first (noted_ite _ (noted_eventRecord ..))
  have fab := noted_fab loaded
  exact fab

/-! ### The training of the stack -/

theorem hbmTrains_fails {d : Dp} (h : riseAt 2 d = true) (fits : d.hbm.trainFail = false) (lanes ms k : Nat) :
    hbmTrains lanes ms (some k) d = { d with
      hbm := { d.hbm with lanes := lanes, trainMs := sat 0xFF ms, trainFail := true, badChan := BitVec.ofNat 5 k }
      hif := { d.hif with mediaError := true } } := by
  unfold hbmTrains
  rw [h, fits]
  rfl

theorem hbmTrains_trains {d : Dp} (h : riseAt 2 d = true) (fits : d.hbm.trainFail = false) (lanes ms : Nat) :
    ∃ rows, hbmTrains lanes ms none d =
      riseDone 3 (beginFill { d with hbm := { d.hbm with lanes := lanes, trainMs := sat 0xFF ms, rows := rows } }) := by
  unfold hbmTrains
  rw [h, fits]
  exact ⟨_, rfl⟩

theorem applyRepairs_hbm (all : Bool) (d : Dp) :
    ∃ rows, (applyRepairs all d).hbm = { d.hbm with rows := rows } := by
  unfold applyRepairs
  extract_lets todo rows done fresh repaired d1
  refine ⟨done, (foldl_keeps Dp.hbm _ (fun e r => ?_) fresh d1).trans rfl⟩
  obtain ⟨flt, eq⟩ := raise_frame (0x20 + r.pc) 0x23 (hbmAddr r.bank r.row 0) 0 0x0C 0 e
  rw [eq]

theorem beginFill_hbm (d : Dp) : (beginFill d).hbm.lanes = d.hbm.lanes ∧ (beginFill d).hbm.trainMs = d.hbm.trainMs ∧
    (beginFill d).hbm.state = 3 := by
  obtain ⟨rows, kept⟩ := applyRepairs_hbm true d
  exact ⟨congrArg (fun x => x.lanes) kept, congrArg (fun x => x.trainMs) kept, rfl⟩

/-- In RISE no warm reset is cleaned for, so the fill completes in its turn. -/
theorem hbmFillStep_turn {d : Dp} (h : riseAt 3 d = true) (fits : d.hbm.trainFail = false) (c : Ctl) :
    hbmFillStep c d = (c, setMp 0 0 (riseDone 4 { d with hbm := { d.hbm with filled := true, state := 1 } })) := by
  obtain ⟨mode, -, -⟩ := riseAt_parts h
  have cold : warmReady d = false := by simp [warmReady, serving, mode]
  unfold hbmFillStep tryWarmRise hbmFills
  rw [cold, if_neg Bool.false_ne_true]
  dsimp only
  rw [h, fits]
  rfl

/-! ### The firmware -/

theorem wrapMedia_frame (key : BitVec 256) (d : Dp) :
    (wrapMedia key d).sec = { d.sec with mediaKey := some key } ∧ (wrapMedia key d).que = d.que := by
  unfold wrapMedia
  exact ⟨modSec_sec .., modSec_que ..⟩

theorem mediaKey_beside (key : Option (BitVec 256)) (d : Dp) :
    ({ d with sec := { d.sec with mediaKey := key } } : Dp).sec.running = d.sec.running ∧
      ({ d with sec := { d.sec with mediaKey := key } } : Dp).sec.runImage = d.sec.runImage ∧
      ({ d with sec := { d.sec with mediaKey := key } } : Dp).que = d.que :=
  ⟨rfl, rfl, rfl⟩

theorem loadMediaKey_parts (d : Dp) : (loadMediaKey d).sec.running = d.sec.running ∧
    (loadMediaKey d).sec.runImage = d.sec.runImage ∧ (loadMediaKey d).que = d.que := by
  unfold loadMediaKey
  split
  · exact ⟨rfl, rfl, rfl⟩
  · split
    · split
      · exact ⟨rfl, rfl, rfl⟩
      · dsimp only
        obtain ⟨sec, que⟩ := wrapMedia_frame (draw256 d).1 (draw256 d).2
        rw [sec, que]
        exact ⟨rfl, rfl, rfl⟩
    · split
      · exact ⟨rfl, rfl, rfl⟩
      · exact mediaKey_beside ..

theorem loadPdrec_parts (d : Dp) : (loadPdrec d).sec = d.sec ∧ (loadPdrec d).que = d.que := by
  unfold loadPdrec
  split
  · split <;> exact ⟨rfl, rfl⟩
  · exact ⟨rfl, rfl⟩

theorem applyImage_parts (c : Ctl) (d : Dp) : (applyImage c d).2.sec = d.sec ∧ (applyImage c d).2.que = d.que := by
  unfold applyImage
  split
  next => exact ⟨rfl, rfl⟩
  next reason bad _ =>
    obtain ⟨flt, e⟩ := raise_frame 0x60 0x2D 0 reason 0x08 0 { d with pst := { d.pst with
      cfgState := 2, cfgReason := BitVec.ofNat 6 reason, cfgBad := BitVec.ofNat 8 bad, cfgRecords := 0 } }
    dsimp only
    rw [e]
    exact ⟨rfl, rfl⟩
  next => exact ⟨rfl, rfl⟩

/-- The first slot's image, which the boot ROM accepts, runs. -/
theorem firmwareVerifies_first {c : Ctl} {d : Dp} {b : Option FwImage} {i : FwImage} (h : riseAt 4 d = true)
    (waits : d.sec.running ≠ 2) (select : d.pst.dev.fwSelect = false) (ok : imageOk c i = true) :
    ∃ x : Ctl × Dp, firmwareVerifies (some i) b c d = ({ x.1 with writesOpen := true }, riseDone 5 x.2) ∧
      x.2.sec.running = 0 ∧ x.2.sec.runImage = some i ∧ x.2.que.mps = [0, 0, 0, 0] := by
  have turn : ¬((!riseAt 4 d || decide (d.sec.running = 2)) = true) := by simpa [h] using waits
  have boots := bootSlot_first (c := c) (b := b) (d := { d with sec := { d.sec with imgA := some i, imgB := b } })
    (by exact select) ok
  unfold firmwareVerifies
  rw [if_neg turn, boots]
  dsimp only
  generalize start : ({ d with sec := _, que := _ } : Dp) = e
  have run : e.sec.running = 0 := start ▸ rfl
  have image : e.sec.runImage = some i := start ▸ rfl
  have mps : e.que.mps = [0, 0, 0, 0] := start ▸ rfl
  obtain ⟨keyRun, keyImage, keyQue⟩ := loadMediaKey_parts e
  obtain ⟨recSec, recQue⟩ := loadPdrec_parts (loadMediaKey e)
  obtain ⟨imgSec, imgQue⟩ := applyImage_parts c (loadPdrec (loadMediaKey e))
  exact ⟨applyImage c (loadPdrec (loadMediaKey e)), rfl, by rw [imgSec, recSec, keyRun, run],
    by rw [imgSec, recSec, keyImage, image], by rw [imgQue, recQue, keyQue, mps]⟩

/-! ### The media and the journal -/

theorem mediaTrains_cold {c : Ctl} {d : Dp} (h : riseAt 5 d = true) (cold : d.sec.retStep ≠ 9) (found : List ChanTrain) :
    mediaTrains found c d = ((trainAll found c (beforeTraining found c d)).1,
      afterTraining (trainAll found c (beforeTraining found c d)).2) := by
  unfold mediaTrains
  rw [h, if_neg (by decide), if_neg cold]

theorem mediaTrains_again {c : Ctl} {d : Dp} (h : riseAt 5 d = true) (back : d.sec.retStep = 9) (found : List ChanTrain) :
    ∃ x : Ctl × Dp, mediaTrains found c d = (x.1, riseDone 9 x.2) ∧ x.2.sec.retStep = 0 := by
  unfold mediaTrains
  rw [h, if_neg (by decide), if_pos back]
  refine ⟨_, rfl, ?_⟩
  rw [trainAll_retStep]

theorem afterTraining_ends (d : Dp) : (afterTraining d).glb.riseStep = 6 ∧ (afterTraining d).hif.memInfo = true :=
  ⟨rfl, rfl⟩

theorem mappingRebuilds_step {c : Ctl} {d : Dp} (h : riseAt 6 d = true) (reads : List (Nat × List Image)) :
    (mappingRebuilds reads c d).glb.riseStep = 7 := by
  unfold mappingRebuilds
  rw [h, if_neg (by decide)]
  rfl

theorem replays_step {c : Ctl} {d : Dp} (h : riseAt 7 d = true) (members : List Image) (bad : List (Stripe × Nat)) :
    (replays members bad c d).2.glb.riseStep = 8 := by
  unfold replays
  rw [h, if_neg (by decide)]
  split <;> rfl

/-! ### The re-anchor -/

theorem addWork_keeps {k k' : WorkKind} {prio bound : Nat} {d : Dp} (h : ∃ w ∈ d.mh.work, w.kind = k ∧ w.prio ≤ bound) :
    ∃ w ∈ (addWork prio k' d).mh.work, w.kind = k ∧ w.prio ≤ bound := by
  obtain ⟨w, mem, kind, low⟩ := h
  unfold addWork
  split
  · refine ⟨_, List.mem_map.2 ⟨w, mem, rfl⟩, ?_⟩
    split
    · exact ⟨kind, (Nat.min_le_right ..).trans low⟩
    · exact ⟨kind, low⟩
  · exact ⟨w, List.mem_append_left _ mem, kind, low⟩

/-- Work that is queued for each of a list is in the queue at the end, at that priority or a higher one. -/
theorem addWork_foldl {α : Type} (prio : Nat) (kind : α → WorkKind) (l : List α) (d : Dp) :
    ∀ x ∈ l, ∃ w ∈ (l.foldl (fun d x => addWork prio (kind x) d) d).mh.work, w.kind = kind x ∧ w.prio ≤ prio := by
  induction l generalizing d with
  | nil => exact fun _ mem => absurd mem List.not_mem_nil
  | cons y l ih =>
    intro x mem
    rcases List.mem_cons.1 mem with rfl | mem
    · exact List.foldlRecOn l _ (motive := fun e : Dp => ∃ w ∈ e.mh.work, w.kind = kind x ∧ w.prio ≤ prio)
        (addWork_queued prio (kind x) d) fun _ h _ _ => addWork_keeps h
    · exact ih _ x mem

theorem addWork_boundary (prio : Nat) (k : WorkKind) (d : Dp) : (addWork prio k d).mh.boundary = d.mh.boundary := by
  unfold addWork
  split <;> rfl

theorem reanchors_turn {c : Ctl} {d : Dp} (h : riseAt 8 d = true) (reads : List (List Image)) :
    (reanchors reads c d).glb.riseStep = 9 ∧ (reanchors reads c d).mh.boundary = d.mh.now ∧
      ∀ e ∈ mappedPages d, ∃ w ∈ (reanchors reads c d).mh.work,
        w.kind = .reanchor (BitVec.ofNat 31 e.1) ∧ w.prio ≤ 4 := by
  unfold reanchors
  rw [h, if_neg (by decide)]
  refine ⟨rfl, ?_, ?_⟩
  · exact foldl_keeps (fun d : Dp => d.mh.boundary) _ (fun _ _ => addWork_boundary ..) _ _
  · exact addWork_foldl 4 (fun e : Nat × BitVec 64 => WorkKind.reanchor (BitVec.ofNat 31 e.1)) _ _

/-! ### The statement -/

/-- Settles O33: each step of RISE is taken apart once; the training after EXTEST leaves the cleared return step alone. -/
theorem riseStepsGoOnInOrder : Obligations.RiseStepsGoOnInOrder := by
  unfold Obligations.RiseStepsGoOnInOrder
  intro s
  refine ⟨?_, ?_, ?_, ?_, ?_, ?_, ?_, ?_, ?_, ?_, ?_, ?_⟩
  · intro straps turn rails
    refine ⟨_, onDp_step (isolationReleases_rise turn rails straps true s.ctl), rfl, rfl, ?_⟩
    generalize start : moveVcore 800 3 { s.dp with
      sup := { s.dp.sup with isoReleased := true, refclk := true }
      glb := { s.dp.glb with straps := straps }
      fab := { s.dp.fab with setPoint := 800 } } = d
    have released : d.sup.isoReleased = true := start ▸ rfl
    have sampled : d.glb.straps = straps := start ▸ rfl
    have stands : d.fab.setPoint = 800 := start ▸ rfl
    obtain ⟨sup, glb, -⟩ := loadSecurity_parts s.ctl d
    refine ⟨?_, ?_, ?_⟩
    · exact (congrArg (fun x => x.isoReleased) sup).trans released
    · exact (congrArg (fun x => x.straps) glb).trans sampled
    · exact (congrArg (fun x => x.setPoint) (loadSecurity_fab s.ctl d)).trans stands
  · intro straps turn rails
    exact onDp_step (isolationReleases_rise turn rails straps false s.ctl)
  · intro straps refclk up cells quiet
    exact onDp_step (isolationReleases_awake up cells quiet straps refclk s.ctl)
  · intro lanes ms k turn fits
    obtain ⟨-, -, step⟩ := riseAt_parts turn
    exact ⟨_, onDp_step (f := fun _ d => hbmTrains lanes ms (some k) d) (hbmTrains_fails turn fits lanes ms k),
      rfl, step, rfl, rfl, rfl⟩
  · intro lanes ms turn fits
    obtain ⟨rows, trained⟩ := hbmTrains_trains turn fits lanes ms
    refine ⟨_, onDp_step (f := fun _ d => hbmTrains lanes ms none d) trained, rfl, rfl, ?_⟩
    obtain ⟨lanesKept, msKept, filling⟩ :=
      beginFill_hbm { s.dp with hbm := { s.dp.hbm with lanes := lanes, trainMs := sat 0xFF ms, rows := rows } }
    exact ⟨lanesKept, msKept, filling⟩
  · intro turn fits
    change ∃ t, execHbmFill s = .next t ∧ _
    rw [execHbmFill, onBoth, hbmFillStep_turn turn fits]
    exact ⟨_, rfl, rfl, rfl, rfl, rfl, rfl⟩
  · intro a b i turn waits select first ok
    subst first
    obtain ⟨x, run, running, image, mps⟩ := firmwareVerifies_first (b := b) turn waits select ok
    refine ⟨_, rfl, ?_⟩
    rw [run]
    exact ⟨rfl, rfl, running, image, mps⟩
  · intro found turn back
    change ∃ t, execMediaTraining found s = .next t ∧ _
    rw [execMediaTraining, onBoth, mediaTrains_cold turn back]
    exact ⟨_, rfl, afterTraining_ends _⟩
  · intro found turn back
    obtain ⟨x, trained, cleared⟩ := mediaTrains_again (c := s.ctl) turn back found
    change ∃ t, execMediaTraining found s = .next t ∧ _
    rw [execMediaTraining, onBoth, trained]
    exact ⟨_, rfl, rfl, cleared⟩
  · intro reads turn
    exact ⟨_, onDp_step (f := mappingRebuilds reads) rfl, rfl, mappingRebuilds_step turn reads⟩
  · intro members bad turn
    exact ⟨_, rfl, replays_step turn members bad⟩
  · intro reads turn
    exact ⟨_, onDp_step rfl, rfl, reanchors_turn turn reads⟩

end Sys2Proof.Laws
end
